-- ==== Sys2Proof/Word.lean ====
section
/-!
DEFINITION. The word types of the Soaraura S48 (R4): a byte, a half, a word, a dword. In Lean `Word` is the 64-bit
dword of addresses and g registers, and `W32` is the 32-bit word of instructions and v registers.
-/
namespace Sys2Proof

/-- A byte (R4). -/
abbrev Byte := BitVec 8

/-- A 32-bit word: an instruction word, a v register of one lane (R4, R77). -/
abbrev W32 := BitVec 32

/-- A 64-bit dword: a g register, an address, a lane mask (R4, R77). -/
abbrev Word := BitVec 64

end Sys2Proof
end

