-- ==== Sys2Proof/Config.lean ====
section
/-!
DEFINITION. What one S48 fixes (00 R1, 01, 03, 04) and the values that the manual leaves open. A free value is an opaque
constant: nothing in Lean can evaluate it, so a claim that mentions it holds whatever it is (log 5).
-/
namespace Sys2Proof.Config

/-- Warp width W (R28). -/
def width : Nat := 64
/-- Reticles of the wafer, 8 by 6 (chapter 1). -/
def reticles : Nat := 48
/-- Cores of a reticle (Table 19-5: 12 per cluster, 10 clusters). -/
def coresPerReticle : Nat := 120
/-- Cores of a cluster (R69). -/
def coresPerCluster : Nat := 12
/-- Slices of a reticle (Table 19-5). -/
def slicesPerReticle : Nat := 192
/-- General register blocks of a core (R67). -/
def generalBlocks : Nat := 252
/-- Emergency register blocks of a core (R67). -/
def emergencyBlocks : Nat := 4
/-- Hardware barriers of a core (R45). -/
def barriers : Nat := 64
/-- Tile-store bytes of a core (R119). -/
def tileStoreBytes : Nat := 1048576
/-- Product family and revision: %STEP (R326; the revision DEDUCED from the programs of chapters 16 to 18, log 8). -/
def stepping : Nat := 0x4801

/-- The n-th free value of a run: a value that the manual leaves undefined, unstated or drawn at random (log 5). -/
opaque freeWord : Nat → Word
/-- The anchor slice that the hash of R124 chooses for a line (log 7). -/
opaque anchorHash : Nat → Nat
/-- The set, of 672, in which a slice holds a line (R123, log 7). -/
opaque setOf : Nat → Nat
/-- The choice among the fp32 results that the stated accuracy of a special function allows (R215, log 9). -/
opaque sfuChoice : Nat → W32 → Nat

/-- The 4 KiB block of HBM at which firmware keeps the defect-tree image (R22, log 21). -/
opaque treeBlock : Nat
/-- The lanes that a healthy stitched link has, as a mask (Table 1-5, log 21). -/
opaque linkMask : Nat → Nat
/-- The channel that holds an offset of a stack (R113, R405, log 5). -/
opaque channelOf : Nat → Nat
/-- Spare rows that a bank of a stack has when new (R405, log 5). -/
opaque spareRows : Nat → Nat → Nat

end Sys2Proof.Config
end

