-- ==== Sys2Proof/Fields.lean ====
section
/-!
DEFINITION. The field types of instruction words: the enumerated codes of Tables 8-4 to 8-12 and the operand groups
of the word layouts LA, LM, MX, UA, UM and UB (R162 to R175). A reserved code has no constructor.
-/
namespace Sys2Proof

/-- Lane integer types, FN 0 to 5 of opcodes 0x01 to 0x12 (Table 8-9). -/
inductive IType | i32 | n32 | i64 | n64 | i16x2 | n16x2
  deriving DecidableEq, Repr

/-- Lane floating types, FN 0 to 2 of opcodes 0x18 to 0x1F (Table 8-9). -/
inductive FType | fp32 | fp16x2 | bf16x2
  deriving DecidableEq, Repr

/-- Uniform types, the TY field (Table 8-10). -/
inductive UType | n64 | i64 | n32 | i32
  deriving DecidableEq, Repr

/-- VCMP conditions (Table 8-9). -/
inductive VCond | eq | ne | lt | le | gt | ge | lo | hs
  deriving DecidableEq, Repr

/-- FCMP conditions (Table 8-9). -/
inductive FCond | eq | ne | lt | le | gt | ge | num | nan
  deriving DecidableEq, Repr

/-- UCMP conditions (Table 8-12). -/
inductive UCond | eq | ne | lt | le | gt | ge
  deriving DecidableEq, Repr

/-- Element widths of PACK and UNPK, FN 0 to 3 (Table 8-9). -/
inductive EWidth | w4 | w8 | w6 | w16
  deriving DecidableEq, Repr

/-- XRD functions (Table 8-9). -/
inductive XrdKind | idx | up | dn | xor
  deriving DecidableEq, Repr

/-- XRED functions (Table 8-9). -/
inductive XredOp | addI32 | addFp32 | minI32 | maxI32 | minFp32 | maxFp32 | and | or
  deriving DecidableEq, Repr

/-- Element formats, the EF codes 0 to 11 of Table 3-3. -/
inductive EFmt | fp32 | fp16 | bf16 | e4m3 | e5m2 | e2m3 | e3m2 | e2m1 | i8 | n8 | ob8 | ob4
  deriving DecidableEq, Repr

/-- Conversion types (Table 8-5). -/
inductive CvtType | ef (f : EFmt) | i32 | n32 | e8m0
  deriving DecidableEq, Repr

/-- Rounding modes, the RND codes 0 to 5 of Table 5-4. -/
inductive Rnd | nearestEven | towardZero | towardNeg | towardPos | nearestAway | stochastic
  deriving DecidableEq, Repr

/-- Lane patterns (R167). -/
inductive Pat | none | rot | rev | xor8 | bc
  deriving DecidableEq, Repr

/-- Access sizes of LD, FN 0 to 6 (Table 8-7). -/
inductive LdSize | n8 | n16 | n32 | n64 | n128 | i8 | i16
  deriving DecidableEq, Repr

/-- Access sizes of ST and LDS, FN 0 to 4 (Table 8-7). -/
inductive StSize | n8 | n16 | n32 | n64 | n128
  deriving DecidableEq, Repr

/-- Access sizes of ULD (Table 8-12). -/
inductive USize | n8 | n16 | n32 | n64 | n128 | i8 | i16 | i32
  deriving DecidableEq, Repr

/-- Operations of ATOM (Table 11-2). -/
inductive AtomOp | add | min | max | and | or | xor | exch | cas
  deriving DecidableEq, Repr

/-- Operations of RED, FN 0 to 5 (Table 11-2). -/
inductive RedOp | add | min | max | and | or | xor
  deriving DecidableEq, Repr

/-- The ATY codes 0 to 5 (R169). -/
inductive Aty | i32 | n32 | i64 | n64 | fp32 | n128
  deriving DecidableEq, Repr

/-- Conditions of WAITW (Table 8-7). -/
inductive WaitCond | eq | ne | ge | lt
  deriving DecidableEq, Repr

/-- Ordering codes (Table 7-2). -/
inductive Ord | plain | acquire | release | acqRel
  deriving DecidableEq, Repr

/-- Cache hints (R128, R168). -/
inductive Hint | none | pin | stream | rep
  deriving DecidableEq, Repr

/-- Governing predicate of a lane instruction: p(pn), negated or not (R164). -/
structure Gov where
  neg : Bool
  pn  : BitVec 6
  deriving DecidableEq, Repr

/-- The lane extension word of layout LA in its three forms EXK 0, 1 and 2 (Tables 8-3 and 8-4). `rm` is a rounding
mode code, or a format-slot index where Table 8-9 says so. -/
inductive LaExt
  | op (gov : Gov) (nowb : Bool) (c : BitVec 7) (onB : Bool) (pat : Pat) (pv : BitVec 5) (rm : BitVec 3) (sat : Bool)
  | imm (gov : Gov) (nowb : Bool) (imm : BitVec 22)
  | conv (gov : Gov) (nowb : Bool) (dt st : CvtType) (rm : BitVec 3) (sat : Bool)
  deriving DecidableEq, Repr

/-- Register fields and extension of a layout-LA instruction (Tables 8-2 to 8-4). -/
structure LaOp where
  d   : BitVec 7
  a   : BitVec 7
  b   : BitVec 7
  ext : Option LaExt
  deriving DecidableEq, Repr

/-- The optional extension of VSRD and VGET, where only PNEG, PN and NOWB may be non-zero (R171). -/
structure PredExt where
  gov  : Gov
  nowb : Bool
  deriving DecidableEq, Repr

/-- Fields of a layout-LM instruction (Tables 8-6 and 8-7). -/
structure LmOp where
  d     : BitVec 7
  a     : BitVec 7
  b     : BitVec 7
  gov   : Gov
  ts    : Bool
  base  : BitVec 6
  ix    : Bool
  hint  : Hint
  scope : BitVec 3
  ord   : Ord
  flag  : BitVec 4
  offh  : BitVec 6
  deriving DecidableEq, Repr

/-- Fields of MMA (Table 8-8a). -/
structure MmaOp where
  a    : BitVec 7
  tg   : BitVec 6
  sa   : BitVec 3
  sb   : BitVec 3
  acc  : BitVec 2
  reu  : Bool
  gs   : BitVec 3
  flag : BitVec 4
  kw   : BitVec 2
  shp  : BitVec 3
  deriving DecidableEq, Repr

/-- Fields of DRAIN (Table 8-8a). -/
structure DrainOp where
  row0  : BitVec 3
  units : BitVec 7
  tg    : BitVec 6
  sg    : BitVec 6
  slot  : BitVec 3
  acc   : BitVec 2
  mode  : BitVec 2
  flag  : BitVec 4
  deriving DecidableEq, Repr

/-- Fields of CHAIN (Table 8-8a). -/
structure ChainOp where
  rg   : BitVec 6
  ng   : BitVec 6
  flag : BitVec 4
  deriving DecidableEq, Repr

/-- Governing predicate of a uniform instruction: QEN, QNEG and QN (Table 8-10a); none when QEN = 0. -/
structure QGov where
  neg : Bool
  qn  : BitVec 4
  deriving DecidableEq, Repr

/-- The layout-UA extension word (Table 8-10a). -/
structure UaExt where
  gov : Option QGov
  i   : Bool
  imm : BitVec 25
  deriving DecidableEq, Repr

/-- Fields and extension of a layout-UA instruction (Tables 8-10 and 8-10a). -/
structure UaOp where
  d   : BitVec 6
  a   : BitVec 6
  b   : BitVec 6
  ext : Option UaExt
  deriving DecidableEq, Repr

/-- The layout-UM extension word (Table 8-10a). -/
structure UmExt where
  gov   : Option QGov
  scope : BitVec 3
  ord   : Ord
  flag  : BitVec 4
  off   : BitVec 17
  deriving DecidableEq, Repr

/-- The layout-UB extension word (Table 8-10a). -/
structure UbExt where
  gov  : Option QGov
  toff : BitVec 26
  deriving DecidableEq, Repr

/-- A "predicate only" extension word, absent or present (R185). -/
abbrev QPred := Option (Option QGov)

/-- Where firmware puts the logical torus (R15, R16, R21): logical positions with the cores that they move to, and the routes that
detour, each 4 times a position plus a direction, with their hops. -/
structure Embedding where
  moves   : List (Nat × Nat) := []
  detours : List (Nat × Nat) := []
  deriving DecidableEq, Repr

/-- What a BRING_UP event carries (R328): the step, the parts that the test of the wafer finds defective, by kind and number, the
embedding of step 2, and the Yardmaster's threshold and window where firmware sets them (R126). -/
structure BringUpStep where
  step      : Nat
  defects   : List (Nat × Nat) := []
  embedding : Embedding := {}
  yard      : Option (Nat × Nat) := none
  deriving DecidableEq, Repr

end Sys2Proof
end

