-- ==== Sys2Proof/Machine/Bits.lean ====
section
/-!
DEFINITION. Bit-field helpers: extraction, insertion, sign extension, lane-mask lists and little-endian byte strings
(00 R4, R8). They stand here so that every use shares one definition.
-/
namespace Sys2Proof.Machine

/-- bits(w, lo + n - 1, lo) as an n-bit vector. -/
def fld {m : Nat} (w : BitVec m) (lo n : Nat) : BitVec n := w.extractLsb' lo n

/-- Bit k of w as a Bool. -/
def bit {m : Nat} (w : BitVec m) (k : Nat) : Bool := w.getLsbD k

/-- sext(w, m) to 64 bits. -/
def sx64 {m : Nat} (w : BitVec m) : Word := w.signExtend 64

/-- zext to 64 bits. -/
def zx64 {m : Nat} (w : BitVec m) : Word := w.setWidth 64

/-- A 64-bit word from a natural number, wrapping. -/
def w64 (n : Nat) : Word := BitVec.ofNat 64 n

/-- A 32-bit word from a natural number, wrapping. -/
def w32 (n : Nat) : W32 := BitVec.ofNat 32 n

/-- A Bool as 0 or 1. -/
def b2n (b : Bool) : Nat := if b then 1 else 0

/-- w with its bits lo to lo + n - 1 replaced by the low bits of x. -/
def setFld {m : Nat} (w : BitVec m) (lo n : Nat) (x : Nat) : BitVec m :=
  let mask : BitVec m := BitVec.ofNat m ((2 ^ n - 1) * 2 ^ lo)
  (w &&& ~~~mask) ||| BitVec.ofNat m ((x % 2 ^ n) * 2 ^ lo)

/-- w with bit k set to b. -/
def setBit {m : Nat} (w : BitVec m) (k : Nat) (b : Bool) : BitVec m := setFld w k 1 (b2n b)

/-- The lowest set bit of w below m, or m when w is 0. -/
def lowBitFrom (w : Nat) : Nat → Nat → Nat
  | 0, k => k
  | fuel + 1, k => if w / 2 ^ k % 2 = 1 then k else lowBitFrom w fuel (k + 1)

/-- The lowest set bit of an m-bit vector, or m when it is 0. -/
def lowBit {m : Nat} (w : BitVec m) : Nat := lowBitFrom w.toNat m 0

/-- The number of significant bits of n, searched below `fuel`. -/
def bitLenFrom (n : Nat) : Nat → Nat
  | 0 => 0
  | fuel + 1 => if n / 2 ^ fuel = 0 then bitLenFrom n fuel else fuel + 1

/-- The number of significant bits of an m-bit vector. -/
def bitLen {m : Nat} (w : BitVec m) : Nat := bitLenFrom w.toNat m

/-- The number of set bits of w below k. -/
def popFrom (w : Nat) : Nat → Nat
  | 0 => 0
  | k + 1 => w / 2 ^ k % 2 + popFrom w k

/-- The population count of an m-bit vector. -/
def popCount {m : Nat} (w : BitVec m) : Nat := popFrom w.toNat m

/-- The lane numbers 0 to 63 (W = 64, R28). -/
def lanes : List Nat := List.range 64

/-- The lanes named by a mask, ascending. -/
def lanesOf (m : Word) : List Nat := lanes.filter fun l => bit m l

/-- The mask of the lanes at which f holds. -/
def maskOf (f : Nat → Bool) : Word := lanes.foldl (fun m l => if f l then m ||| w64 (2 ^ l) else m) 0#64

/-- The mask with only lane l. -/
def laneBit (l : Nat) : Word := w64 (2 ^ l)

/-- The first n lanes. -/
def lowMask (n : Nat) : Word := w64 (2 ^ n - 1)

/-- The n low bytes of v, lowest first (R4). -/
def bytesOf (n : Nat) (v : Nat) : List Byte := (List.range n).map fun k => BitVec.ofNat 8 (v / 256 ^ k)

/-- The value of a little-endian byte string (R4). -/
def leVal (bs : List Byte) : Nat := bs.foldr (fun b acc => b.toNat + 256 * acc) 0

/-- Two's complement value of the low n bits of v. -/
def sval (n v : Nat) : Int := if v % 2 ^ n < 2 ^ (n - 1) then (v % 2 ^ n : Nat) else (v % 2 ^ n : Nat) - (2 ^ n : Nat)

/-- wrap(x, n): the low n bits of an exact integer, as a natural number (R8). -/
def wrapN (n : Nat) (x : Int) : Nat := (x % (2 ^ n : Nat)).toNat

/-- Division rounded up. -/
def cdiv (a b : Nat) : Nat := (a + b - 1) / b

/-- Element k of a list of lane values, 0 beyond its end. -/
def laneAt (r : List W32) (l : Nat) : W32 := r.getD l 0#32

end Sys2Proof.Machine
end

