-- ==== Sys2Proof/Machine/NumFmt.lean ====
section
/-!
DEFINITION. Number formats and exact arithmetic (chapter 5): values of codes, exact sums, products and quotients, and
round(x, fmt, mode) with the overflow rule, stochastic rounding and its generator; the special functions (R215).
-/
namespace Sys2Proof.Machine
open Sys2Proof

/-- An exact value: NaN, an infinity, or a signed magnitude n / d with d not 0 (R93, R98). -/
inductive Num
  | nan
  | inf (neg : Bool)
  | fin (neg : Bool) (n d : Nat)
  deriving DecidableEq, Repr

/-- How a floating format ends: infinities and NaN at the top exponent, one NaN code only, or neither (Table 5-1). -/
inductive TopKind | ieee | nanOnly | finite
  deriving DecidableEq, Repr

/-- The layout of a floating format: exponent bits, mantissa bits, bias and top codes (Table 5-1). -/
structure FlFmt where
  e    : Nat
  m    : Nat
  bias : Nat
  top  : TopKind
  deriving DecidableEq, Repr

/-- A destination of `round`: a floating format, a signed or unsigned integer of n bits, or e8m0 (Table 5-5). -/
inductive NFmt
  | fl (f : FlFmt)
  | si (n : Nat)
  | un (n : Nat)
  | e8m0
  deriving DecidableEq, Repr

/-- fp32 (Table 5-1). -/
def fp32 : FlFmt := ⟨8, 23, 127, .ieee⟩
/-- fp16 (Table 5-1). -/
def fp16 : FlFmt := ⟨5, 10, 15, .ieee⟩
/-- bf16 (Table 5-1). -/
def bf16 : FlFmt := ⟨8, 7, 127, .ieee⟩
/-- e4m3 (Table 5-1). -/
def fe4m3 : FlFmt := ⟨4, 3, 7, .nanOnly⟩
/-- e5m2 (Table 5-1). -/
def fe5m2 : FlFmt := ⟨5, 2, 15, .ieee⟩
/-- e2m3 (Table 5-1). -/
def fe2m3 : FlFmt := ⟨2, 3, 1, .finite⟩
/-- e3m2 (Table 5-1). -/
def fe3m2 : FlFmt := ⟨3, 2, 3, .finite⟩
/-- e2m1 (Table 5-1). -/
def fe2m1 : FlFmt := ⟨2, 1, 1, .finite⟩

/-- The element format of an EF code; the offset-binary codes as unsigned integers, without their zero point (R96). -/
def nfmt : EFmt → NFmt
  | .fp32 => .fl fp32 | .fp16 => .fl fp16 | .bf16 => .fl bf16 | .e4m3 => .fl fe4m3 | .e5m2 => .fl fe5m2
  | .e2m3 => .fl fe2m3 | .e3m2 => .fl fe3m2 | .e2m1 => .fl fe2m1 | .i8 => .si 8 | .n8 => .un 8 | .ob8 => .un 8
  | .ob4 => .un 4

/-- Bits of an element format (Table 5-1, R96). -/
def efBits : EFmt → Nat
  | .fp32 => 32 | .fp16 => 16 | .bf16 => 16 | .e4m3 => 8 | .e5m2 => 8 | .e2m3 => 6 | .e3m2 => 6 | .e2m1 => 4
  | .i8 => 8 | .n8 => 8 | .ob8 => 8 | .ob4 => 4

/-- Offset-binary formats (R96). -/
def isOb (f : EFmt) : Bool := f = .ob8 || f = .ob4

/-- A power of two with an integer exponent, as a fraction. -/
def pow2 (e : Int) : Nat × Nat := if 0 ≤ e then (2 ^ e.toNat, 1) else (1, 2 ^ (-e).toNat)

/-- The positive value n / d scaled by 2^e. -/
def scale2 (n d : Nat) (e : Int) : Nat × Nat := if 0 ≤ e then (n * 2 ^ e.toNat, d) else (n, d * 2 ^ (-e).toNat)

/-- Zero of a sign. -/
def zeroNum (neg : Bool) : Num := .fin neg 0 1

/-- An exact integer as a value. -/
def intNum (x : Int) : Num := .fin (x < 0) x.natAbs 1

/-- A fraction with an integer numerator as a value, a zero taken as +0. -/
def ratNum (x : Int) (d : Nat) : Num := .fin (x < 0) x.natAbs d

/-- The value of a floating code (R93, Table 5-1). -/
def flVal (f : FlFmt) (c : Nat) : Num :=
  let neg := c / 2 ^ (f.e + f.m) % 2 = 1
  let e := c / 2 ^ f.m % 2 ^ f.e
  let m := c % 2 ^ f.m
  if f.top = .ieee && e = 2 ^ f.e - 1 then (if m = 0 then .inf neg else .nan)
  else if f.top = .nanOnly && e = 2 ^ f.e - 1 && m = 2 ^ f.m - 1 then .nan
  else
    let sig := if e = 0 then m else 2 ^ f.m + m
    let ex : Int := (Nat.max e 1 : Nat) - (f.bias + f.m : Nat)
    let r := scale2 sig 1 ex
    .fin neg r.1 r.2

/-- The value of a code under a format, with no zero point (R93, R96). -/
def numVal : NFmt → Nat → Num
  | .fl f, c => flVal f c
  | .si n, c => intNum (sval n c)
  | .un n, c => .fin false (c % 2 ^ n) 1
  | .e8m0, c => if c % 256 = 255 then .nan else let r := pow2 ((c % 256 : Nat) - (127 : Int)); .fin false r.1 r.2

/-- The value of an element code under EF with zero point z (R96). -/
def elemVal (f : EFmt) (z c : Nat) : Num :=
  match f with
  | .ob8 => intNum ((c % 256 : Nat) - (z : Int))
  | .ob4 => intNum ((c % 16 : Nat) - (z % 16 : Nat))
  | _ => numVal (nfmt f) c

/-- The canonical NaN of a floating format, with +0 where it has none (Tables 5-2, 5-5). -/
def nanCode (f : FlFmt) : Nat :=
  match f.top with
  | .ieee => (2 ^ f.e - 1) * 2 ^ f.m + 2 ^ (f.m - 1)
  | .nanOnly => 2 ^ (f.e + f.m) - 1
  | .finite => 0

/-- The code of the largest finite magnitude (Table 5-1). -/
def maxCode (f : FlFmt) : Nat :=
  match f.top with
  | .ieee => (2 ^ f.e - 1) * 2 ^ f.m - 1
  | .nanOnly => 2 ^ (f.e + f.m) - 2
  | .finite => 2 ^ (f.e + f.m) - 1

/-- The sign bit of a floating format in place. -/
def signBit (f : FlFmt) (neg : Bool) : Nat := if neg then 2 ^ (f.e + f.m) else 0

/-- Whether a magnitude between lo and lo + 1 rounds up, and whether the result counts as away (Table 5-4, R99, R101):
`rem / den` is the part above lo, u the 16 random bits. -/
def roundUp (mode : Rnd) (neg : Bool) (lo rem den u : Nat) : Bool × Bool :=
  match mode with
  | .nearestEven => (decide (den < 2 * rem) || (decide (2 * rem = den) && lo % 2 = 1), true)
  | .towardZero => (false, false)
  | .towardNeg => (neg && rem ≠ 0, neg)
  | .towardPos => (!neg && rem ≠ 0, !neg)
  | .nearestAway => (decide (den ≤ 2 * rem), true)
  | .stochastic =>
    if rem = 0 then (false, true)
    else
      let up := decide (2 ^ 16 ≤ 2 ^ 16 * rem / den + u)
      (up, up)

/-- floor(log2(n / d)) of a positive fraction. -/
def log2Floor (n d : Nat) : Int :=
  let l : Int := (Nat.log2 n : Int) - (Nat.log2 d : Int)
  let r := scale2 1 1 l
  if n * r.2 < d * r.1 then l - 1 else l

/-- A finite magnitude n / d rounded to a floating format, before the sign is put in (R98, R99). -/
def roundFl (f : FlFmt) (mode : Rnd) (sat neg : Bool) (n d u : Nat) : Nat :=
  if n = 0 then 0
  else
    let emin : Int := 1 - (f.bias : Int)
    let l := log2Floor n d
    let e := if l < emin then emin else l
    let q := scale2 n d ((f.m : Int) - e)
    let up := roundUp mode neg (q.1 / q.2) (q.1 % q.2) q.2 u
    let code := (e - emin).toNat * 2 ^ f.m + q.1 / q.2 + b2n up.1
    if code ≤ maxCode f then code
    else
      match f.top with
      | .finite => maxCode f
      | .ieee => if up.2 && !sat then (2 ^ f.e - 1) * 2 ^ f.m else maxCode f
      | .nanOnly => if up.2 && !sat then nanCode f else maxCode f

/-- A magnitude rounded to an integer (R98). -/
def roundNat (mode : Rnd) (neg : Bool) (n d u : Nat) : Nat :=
  n / d + b2n (roundUp mode neg (n / d) (n % d) d u).1

/-- A value rounded to an integer and clamped to lo to hi; NaN gives 0 (Table 5-5). -/
def roundInt (mode : Rnd) (lo hi : Int) (x : Num) (u : Nat) : Int :=
  match x with
  | .nan => 0
  | .inf neg => if neg then lo else hi
  | .fin neg n d =>
    let m : Int := roundNat mode neg n d u
    let v := if neg then -m else m
    if v < lo then lo else if hi < v then hi else v

/-- Rounding to e8m0 (R98, Table 5-5). -/
def roundE8 (mode : Rnd) (sat : Bool) (x : Num) (u : Nat) : Nat :=
  match x with
  | .fin false n d =>
    if n = 0 then 0xFF
    else
      let l := log2Floor n d
      let q := scale2 n d (-l)
      let rem := q.1 - q.2
      let up := match mode with
        | .nearestEven | .nearestAway => (decide (q.2 ≤ 2 * rem), true)
        | m => roundUp m false 0 rem q.2 u
      let c : Int := l + 127 + (b2n up.1 : Nat)
      if c < 0 then 0
      else if c ≤ 254 then c.toNat
      else if up.2 && !sat then 0xFF else 0xFE
  | _ => 0xFF

/-- round(x, fmt, mode) with SAT and, for mode 5, the 16 bits of one generator step (R98, R99, R101). -/
def roundNum (f : NFmt) (mode : Rnd) (sat : Bool) (x : Num) (u : Nat) : Nat :=
  match f with
  | .fl f =>
    match x with
    | .nan => nanCode f
    | .inf neg =>
      match f.top with
      | .finite => signBit f neg + maxCode f
      | .ieee => signBit f neg + (if sat then maxCode f else (2 ^ f.e - 1) * 2 ^ f.m)
      | .nanOnly => if sat then signBit f neg + maxCode f else nanCode f
    | .fin neg n d =>
      let c := roundFl f mode sat neg n d u
      if f.top = .nanOnly && c = nanCode f then nanCode f else signBit f neg + c
  | .si n => wrapN n (roundInt mode (-(2 ^ (n - 1) : Nat)) ((2 ^ (n - 1) : Nat) - 1) x u)
  | .un n => (roundInt mode 0 ((2 ^ n : Nat) - 1) x u).toNat
  | .e8m0 => roundE8 mode sat x u

/-- Rounding to fp32 under nearest-even. -/
def toFp32 (x : Num) : W32 := w32 (roundNum (.fl fp32) .nearestEven false x 0)

/-- The value of an fp32 code. -/
def ofFp32 (c : W32) : Num := flVal fp32 c.toNat

/-- The value with its sign turned. -/
def negNum : Num → Num
  | .nan => .nan
  | .inf n => .inf (!n)
  | .fin s n d => .fin (!s) n d

/-- The exact product (R94). Its sign is that of the factors together also where it is 0: so a zero product of integer or offset-binary
elements of unlike signs is a -0 term of a sum, where R98, which gives integers one zero, leaves the sign open (DESIGN CHOICE, log 9). -/
def mulNum : Num → Num → Num
  | .fin s n d, .fin t m e => .fin (s != t) (n * m) (d * e)
  | .inf s, .inf t => .inf (s != t)
  | .inf s, .fin t m _ => if m = 0 then .nan else .inf (s != t)
  | .fin s n _, .inf t => if n = 0 then .nan else .inf (s != t)
  | _, _ => .nan

/-- The exact quotient (R94, R108). -/
def divNum : Num → Num → Num
  | .fin s n d, .fin t m e =>
    if m = 0 then (if n = 0 then .nan else .inf (s != t)) else .fin (s != t) (n * e) (d * m)
  | .inf _, .inf _ => .nan
  | .inf s, .fin t _ _ => .inf (s != t)
  | .fin s _ _, .inf t => zeroNum (s != t)
  | _, _ => .nan

/-- The signed numerator of a finite value. -/
def sgn (neg : Bool) (n : Nat) : Int := if neg then -(n : Int) else n

/-- The exact sum of two fractions. -/
def addFrac (a : Int × Nat) (b : Int × Nat) : Int × Nat :=
  if a.2 = b.2 then (a.1 + b.1, a.2)
  else if a.2 % b.2 = 0 then (a.1 + b.1 * (a.2 / b.2 : Nat), a.2)
  else if b.2 % a.2 = 0 then (a.1 * (b.2 / a.2 : Nat) + b.1, b.2)
  else (a.1 * b.2 + b.1 * a.2, a.2 * b.2)

/-- What a sum has gathered: NaN seen, +inf seen, -inf seen, the exact finite sum, a positive and a negative term seen. -/
structure SumAcc where
  nan : Bool := false
  pinf : Bool := false
  ninf : Bool := false
  frac : Int × Nat := (0, 1)
  pos : Bool := false
  neg : Bool := false
  deriving DecidableEq, Repr

/-- One more term of a sum. -/
def sumStep (a : SumAcc) : Num → SumAcc
  | .nan => { a with nan := true }
  | .inf s => if s then { a with ninf := true } else { a with pinf := true }
  | .fin s n d =>
    { a with frac := addFrac a.frac (sgn s n, d), pos := a.pos || !s, neg := a.neg || s }

/-- The exact sum of the terms, a zero signed as R98 says: `down` is whether the mode is toward -inf (R94, R98). -/
def sumNum (down : Bool) (ts : List Num) : Num :=
  let a := ts.foldl sumStep {}
  if a.nan || (a.pinf && a.ninf) then .nan
  else if a.pinf then .inf false
  else if a.ninf then .inf true
  else if a.frac.1 = 0 then
    (if a.neg && !a.pos then zeroNum true else if a.pos && !a.neg then zeroNum false else zeroNum down)
  else .fin (a.frac.1 < 0) a.frac.1.natAbs a.frac.2

/-- a < b as reals with infinities; false when either is NaN; -0 equals +0 (R212). -/
def numLt : Num → Num → Bool
  | .fin s n d, .fin t m e => decide (sgn s n * e < sgn t m * d)
  | .inf s, .inf t => s && !t
  | .inf s, .fin _ _ _ => s
  | .fin _ _ _, .inf t => !t
  | _, _ => false

/-- a = b as reals with infinities; false when either is NaN; -0 equals +0. -/
def numEq : Num → Num → Bool
  | .fin s n d, .fin t m e => decide (sgn s n * e = sgn t m * d)
  | .inf s, .inf t => s == t
  | _, _ => false

/-- NaN. -/
def isNan : Num → Bool
  | .nan => true
  | _ => false

/-- The sign of a value; NaN counts as positive. -/
def isNeg : Num → Bool
  | .fin s _ _ => s
  | .inf s => s
  | .nan => false

/-- a below b in the order of FMIN and FMAX, where -0 is below +0 (R214). -/
def numBelow (a b : Num) : Bool := numLt a b || (numEq a b && isNeg a && !isNeg b)

/-- The smaller or larger of two codes of one format, the canonical NaN when either is NaN (R214). -/
def fMinMax (f : FlFmt) (max : Bool) (a b : Nat) : Nat :=
  let x := flVal f a
  let y := flVal f b
  if isNan x || isNan y then nanCode f
  else if numBelow x y != max then a else b

/-- A rounding-mode code of an RM or RND field; the reserved codes read as nearest-even and are refused before use. -/
def rndDec (c : Nat) : Rnd :=
  match c with
  | 1 => .towardZero | 2 => .towardNeg | 3 => .towardPos | 4 => .nearestAway | 5 => .stochastic | _ => .nearestEven

/-- One generator step on %SRSEED: the 16 bits u and the new seed (R102). -/
def srStep (seed : Word) : Nat × Word :=
  let s0 := if seed = 0#64 then 0x9E3779B97F4A7C15#64 else seed
  let s1 := s0 ^^^ (s0 <<< 13)
  let s2 := s1 ^^^ (s1 >>> 7)
  let s3 := s2 ^^^ (s2 <<< 17)
  (s3.toNat / 2 ^ 48, s3)

/-- n generator steps: their bits in order, and the seed after them. -/
def srSteps : Nat → Word → List Nat × Word
  | 0, seed => ([], seed)
  | n + 1, seed =>
    let r := srStep seed
    let t := srSteps n r.2
    (r.1 :: t.1, t.2)

/-- floor(sqrt n), one bit at a time from bit k - 1 down. -/
def isqrtFrom (n : Nat) : Nat → Nat → Nat
  | 0, r => r
  | k + 1, r => if (r + 2 ^ k) * (r + 2 ^ k) ≤ n then isqrtFrom n k (r + 2 ^ k) else isqrtFrom n k r

/-- sqrt(n / d) as a fraction exact enough that rounding it to fp32 rounds the root: a root that is not exact is taken
half a step above its floor. -/
def sqrtFrac (n d : Nat) : Nat × Nat :=
  let l := log2Floor n d
  let s : Int := (64 - l) / 2
  let q := scale2 n d (2 * s)
  let v := q.1 / q.2
  let r := isqrtFrom v 34 0
  let r2 := if r * r = v && q.1 % q.2 = 0 then (2 * r, 2) else (2 * r + 1, 2)
  scale2 r2.1 r2.2 (-s)

/-- VRCP, rounded once (Table 10-3). -/
def sfuRcp (a : W32) : W32 := toFp32 (divNum (.fin false 1 1) (ofFp32 a))

/-- VSQRT, rounded once (Table 10-3). -/
def sfuSqrt (a : W32) : W32 :=
  match ofFp32 a with
  | .nan => toFp32 .nan
  | .inf s => if s then toFp32 .nan else a
  | .fin s n d =>
    if n = 0 then a
    else if s then toFp32 .nan
    else let r := sqrtFrac n d; toFp32 (.fin false r.1 r.2)

/-- VRSQ, rounded once (Table 10-3). -/
def sfuRsq (a : W32) : W32 :=
  match ofFp32 a with
  | .nan => toFp32 .nan
  | .inf s => if s then toFp32 .nan else toFp32 (zeroNum false)
  | .fin s n d =>
    if n = 0 then toFp32 (.inf s)
    else if s then toFp32 .nan
    else let r := sqrtFrac d n; toFp32 (.fin false r.1 r.2)

/-- Positions of fp32 codes in the order of their values, -0 and +0 adjacent. -/
def fpIndex (c : Nat) : Int := if c < 2 ^ 31 then (c : Int) else -((c - 2 ^ 31 : Nat) : Int) - 1

/-- The fp32 code at a position. -/
def fpAt (i : Int) : Nat := if 0 ≤ i then i.toNat else 2 ^ 31 + (-i - 1).toNat

/-- The fp32 code among those from lo to hi that the choice of the function picks: a value that the manual gives only
within an accuracy (R215, log 9). -/
def sfuPick (fn : Nat) (a : W32) (lo hi : Int) : W32 :=
  w32 (fpAt (lo + (Config.sfuChoice fn a % ((hi - lo).toNat + 1) : Nat)))

/-- The position of the fp32 code at or below a value, `k` codes further down. -/
def fpBelow (x : Num) (k : Int) : Int := fpIndex (roundNum (.fl fp32) .towardNeg false x 0) - k

/-- The position of the fp32 code at or above a value, `k` codes further up. -/
def fpAbove (x : Num) (k : Int) : Int := fpIndex (roundNum (.fl fp32) .towardPos false x 0) + k

/-- The positions of the fp32 codes next to a value that lies between two bounds; where the bounds stand on the two sides of a code, that
code alone. -/
def fpAround (l h : Int) : Int × Int := if l + 2 = h then (l + 1, l + 1) else (l, h)

/-- 2^96, the unit of the fixed-point bounds below. -/
def fx : Nat := 2 ^ 96

/-- floor(2^(2^-i) * 2^96) for i from 1 to 32. -/
def exp2TableHi : List Nat :=
  [0x16a09e667f3bcc908b2fb1366, 0x1306fe0a31b7152de8d5a4630, 0x1172b83c7d517adcdf7c8c50e, 0x10b5586cf9890f6298b92b718,
   0x1059b0d31585743ae7c548eb6, 0x102c9a3e778060ee6f7caca4f, 0x10163da9fb33356d84a66ae33, 0x100b1afa5abcbed6129ab13ec,
   0x10058c86da1c09ea1ff19d294, 0x1002c605e2e8cec506d21bfc8, 0x100162f3904051fa128bca9c5, 0x1000b175effdc76ba38e31671,
   0x100058ba01fb9f96d6cacd4b1, 0x10002c5cc37da9491d0985c34, 0x1000162e525ee054754457d59, 0x10000b17255775c040618bf4a,
   0x1000058b91b5bc9ae2eed81e9, 0x100002c5c89d5ec6ca4d7c8ac, 0x10000162e43f4f831060e02d8, 0x100000b1721bcfc99d9f890ea,
   0x10000058b90cf1e6d97f9ca14, 0x1000002c5c863b73f016468f6, 0x100000162e430e5a18f6119e3, 0x1000000b1721835514b86e6d9,
   0x100000058b90c0b48c6be5df8, 0x10000002c5c8601cc6b9e9421, 0x1000000162e42fff037df38aa, 0x10000000b17217fba9c739aa5,
   0x1000000058b90bfcdee5acd3c, 0x100000002c5c85fe31f35a6a3, 0x10000000162e42ff0999ce354, 0x100000000b17217f80f4ef5aa]

/-- floor(2^(2^-i) * 2^96) for i from 33 to 64. -/
def exp2TableLo : List Nat :=
  [0x10000000058b90bfbf8479bd5, 0x1000000002c5c85fdf84bd62a, 0x100000000162e42fefb2fed25, 0x1000000000b17217f7d5a7716,
   0x100000000058b90bfbe9ddbac, 0x10000000002c5c85fdf4b15de, 0x1000000000162e42fefa494f1, 0x10000000000b17217f7d20cf9,
   0x1000000000058b90bfbe8f71c, 0x100000000002c5c85fdf477b6, 0x10000000000162e42fefa3ae5, 0x100000000000b17217f7d1d35,
   0x10000000000058b90bfbe8e8b, 0x1000000000002c5c85fdf4741, 0x100000000000162e42fefa39f, 0x1000000000000b17217f7d1cf,
   0x100000000000058b90bfbe8e7, 0x10000000000002c5c85fdf473, 0x1000000000000162e42fefa39, 0x10000000000000b17217f7d1c,
   0x1000000000000058b90bfbe8e, 0x100000000000002c5c85fdf47, 0x10000000000000162e42fefa3, 0x100000000000000b17217f7d1,
   0x10000000000000058b90bfbe8, 0x1000000000000002c5c85fdf4, 0x100000000000000162e42fefa, 0x1000000000000000b17217f7d,
   0x100000000000000058b90bfbe, 0x10000000000000002c5c85fdf, 0x1000000000000000162e42fef, 0x10000000000000000b17217f7]

/-- floor(pi * 2^96). -/
def fxPi : Nat := 0x3243f6a8885a308d313198a2e

/-- floor(log2(e) * 2^96). -/
def fxLog2e : Nat := 0x171547652b82fe1777d0ffda0

/-- A lower bound of 2^(f / 2^64) in units of 2^-96, for f below 2^64; the true value is at most 2^-60 above it. -/
def fxExp2 (f : Nat) : Nat :=
  ((List.range 64).zip (exp2TableHi ++ exp2TableLo)).foldl
    (fun acc ic => if f / 2 ^ (63 - ic.1) % 2 = 1 then acc * ic.2 / fx else acc) fx

/-- 2^(n / d) scaled: lower and upper bounds as fractions with their power of two taken out, for a signed exponent. -/
def exp2Bounds (neg : Bool) (n d : Nat) : (Nat × Nat) × (Nat × Nat) :=
  let x : Int := sgn neg n
  let i : Int := x / (d : Int)
  let f : Nat := (x - i * d).toNat * 2 ^ 64 / d
  let lo := fxExp2 f
  (scale2 lo fx i, scale2 (lo + 2 ^ 36) fx i)

/-- The fp32 codes within 1 ulp of 2^x for an x that is no integer (Table 10-3): 2^x lies between the powers of two on its two sides. -/
def exp2Codes (neg : Bool) (n d : Nat) : Int × Int :=
  let i : Int := sgn neg n / (d : Int)
  let b := exp2Bounds neg n d
  let p := pow2 i
  let q := pow2 (i + 1)
  fpAround (max (fpBelow (.fin false b.1.1 b.1.2) 0) (fpBelow (.fin false p.1 p.2) 0))
    (min (fpAbove (.fin false b.2.1 b.2.2) 0) (fpAbove (.fin false q.1 q.2) 0))

/-- VEXP2 (Table 10-3). -/
def sfuExp2 (a : W32) : W32 :=
  match ofFp32 a with
  | .nan => toFp32 .nan
  | .inf s => if s then toFp32 (zeroNum false) else a
  | .fin s n d =>
    if !s && decide (128 * d ≤ n) then toFp32 (.inf false)
    else if s && decide (150 * d < n) then toFp32 (zeroNum false)
    else if n % d = 0 && !(s && n / d = 150) then
      let r := pow2 (sgn s (n / d))
      toFp32 (.fin false r.1 r.2)
    else
      let b := exp2Codes s n d
      sfuPick 3 a b.1 b.2

/-- Bits of log2(y / 2^128) below the point, by repeated squaring. -/
def fxLog2 : Nat → Nat → Nat → Nat
  | 0, _, acc => acc
  | k + 1, y, acc =>
    let z := y * y / 2 ^ 128
    if 2 ^ 129 ≤ z then fxLog2 k (z / 2) (2 * acc + 1) else fxLog2 k z (2 * acc)

/-- VLOG2 (Table 10-3). -/
def sfuLog2 (a : W32) : W32 :=
  match ofFp32 a with
  | .nan => toFp32 .nan
  | .inf s => if s then toFp32 .nan else a
  | .fin s n d =>
    if n = 0 then toFp32 (.inf true)
    else if s then toFp32 .nan
    else
      let l := log2Floor n d
      let q := scale2 n d (-l)
      if q.1 = q.2 then toFp32 (intNum l)
      else
        let f := fxLog2 60 (q.1 * 2 ^ 128 / q.2) 0
        let lo : Int := l * (2 ^ 60 : Nat) + f - 2
        let hi : Int := l * (2 ^ 60 : Nat) + f + 3
        let b := fpAround (fpBelow (ratNum lo (2 ^ 60)) 0) (fpAbove (ratNum hi (2 ^ 60)) 0)
        sfuPick 4 a b.1 b.2

/-- Terms of the Taylor series of sine and cosine in units of 2^-96: t * x^2 / (k (k + 1)), with turning signs. -/
def fxSeries (x2 : Nat) : Nat → Nat → Nat → Int
  | 0, _, _ => 0
  | fuel + 1, t, k =>
    (t : Int) - fxSeries x2 fuel (t * x2 / fx / (k * (k + 1))) (k + 2)

/-- sin(pi r) or cos(pi r) for 0 <= r <= 1/4 given in units of 2^-96, within 2^-80. -/
def fxTrig (cos : Bool) (r : Nat) : Int :=
  let x := r * fxPi / fx
  let x2 := x * x / fx
  if cos then fxSeries x2 16 fx 1 else fxSeries x2 16 x 2

/-- sin(pi h / 2^96) for h in 0 to 2^97, by its octants. -/
def fxSinPi (h : Nat) : Int :=
  let neg := decide (fx ≤ h)
  let r := h % fx
  let r1 := if fx / 2 < r then fx - r else r
  let v := if r1 ≤ fx / 4 then fxTrig false r1 else fxTrig true (fx / 2 - r1)
  if neg then -v else v

/-- VSIN and VCOS outside their exact points: the fp32 values within 2^-22 of the function (Table 10-3), which the fixed-point value gives
within 2^-76. -/
def sfuTrig (fn : Nat) (a : W32) (s : Bool) (n d : Nat) : W32 :=
  let r := n % (2 * d)
  let h := (r * fx / d + (if fn = 6 then fx / 2 else 0)) % (2 * fx)
  let v := fxSinPi h
  let v := if s && fn = 5 then -v else v
  let tol : Int := (2 ^ 74 - 2 ^ 20 : Nat)
  sfuPick fn a (fpAbove (ratNum (v - tol) fx) 0) (fpBelow (ratNum (v + tol) fx) 0)

/-- VSIN (Table 10-3). -/
def sfuSin (a : W32) : W32 :=
  match ofFp32 a with
  | .fin s n d =>
    if n % d = 0 then toFp32 (zeroNum s)
    else if 2 * n % d = 0 then
      toFp32 (.fin (s != (decide (2 * n / d % 4 = 3))) 1 1)
    else sfuTrig 5 a s n d
  | _ => toFp32 .nan

/-- VCOS (Table 10-3). -/
def sfuCos (a : W32) : W32 :=
  match ofFp32 a with
  | .fin s n d =>
    if n % d = 0 then toFp32 (.fin (n / d % 2 = 1) 1 1)
    else if 2 * n % d = 0 then toFp32 (zeroNum false)
    else sfuTrig 6 a s n d
  | _ => toFp32 .nan

/-- tanh of a positive fraction: lower and upper bounds. -/
def tanhBounds (n d : Nat) : (Nat × Nat) × (Nat × Nat) :=
  if n * 256 < d then
    let lo := ((n * (3 * d * d - n * n)), 3 * d * d * d)
    let hi := (n * (15 * d * d * d * d - 5 * n * n * d * d + 2 * n * n * n * n), 15 * d * d * d * d * d)
    (lo, hi)
  else if 16 * d < n then ((fx - 2 ^ 60, fx), (1, 1))
  else
    let b := exp2Bounds false (2 * n * fxLog2e) (d * fx)
    ((b.1.1 - b.1.2, b.1.1 + b.1.2), (b.2.1 - b.2.2 + 2 ^ 50, b.2.1 + b.2.2 - 2 ^ 50))

/-- VTANH: within 2 ulp (Table 10-3); past a power of two the next code is a double ulp away. -/
def sfuTanh (a : W32) : W32 :=
  match ofFp32 a with
  | .nan => toFp32 .nan
  | .inf s => toFp32 (.fin s 1 1)
  | .fin s n d =>
    if n = 0 then a
    else
      let b := tanhBounds n d
      let c := fpAround (fpBelow (.fin false b.1.1 b.1.2) 0) (fpAbove (.fin false b.2.1 b.2.2) 0)
      let lo := c.1 - 1
      let hi := if c.2 % 2 ^ 23 = 0 then c.2 else c.2 + 1
      if s then sfuPick 7 a (-hi - 1) (-lo - 1) else sfuPick 7 a lo hi

/-- The special function of FN 0 to 7 (Table 8-9). -/
def sfu (fn : Nat) (a : W32) : W32 :=
  match fn with
  | 0 => sfuRcp a | 1 => sfuRsq a | 2 => sfuSqrt a | 3 => sfuExp2 a | 4 => sfuLog2 a | 5 => sfuSin a | 6 => sfuCos a
  | _ => sfuTanh a

end Sys2Proof.Machine
end

