-- ==== Sys2Proof/Syntax.lean ====
section
/-!
DEFINITION. Instr: one constructor per row of spec/opcode_table.json. Rows 0 to 162 are the instructions of the lane
and uniform sets (R161 to R177). Rows 163 to 297 are steps of other agents: each carries the choices that agent makes
(which access, which core, a sensor reading), and no word decodes to one.
-/
namespace Sys2Proof

/-- The operations and events of the machine, one per row of spec/opcode_table.json. -/
inductive Instr
  /-- Lane integer add of sources A and B per element, wrapping or saturating, written in active lanes and pushed to the latches (R210). -/
  | vadd (ty : IType) (o : LaOp)
  /-- Lane integer subtract per element, wrapping or saturating (R210). -/
  | vsub (ty : IType) (o : LaOp)
  /-- Lane integer multiply giving the low bits of the product, optionally saturating (R210). -/
  | vmul (ty : IType) (o : LaOp)
  /-- Lane integer multiply giving the high bits of the double-width product (R210). -/
  | vmulh (ty : IType) (o : LaOp)
  /-- Lane integer exact multiply-add a times b plus c, wrapped or saturated (R210). -/
  | vmad (ty : IType) (o : LaOp)
  /-- Lane integer minimum with signedness from the type (R210). -/
  | vmin (ty : IType) (o : LaOp)
  /-- Lane integer maximum with signedness from the type (R210). -/
  | vmax (ty : IType) (o : LaOp)
  /-- Lane integer absolute value, with the most negative value wrapping or saturating (R210). -/
  | vabs (ty : IType) (o : LaOp)
  /-- Lane bitwise AND (R210). -/
  | vand (ty : IType) (o : LaOp)
  /-- Lane bitwise OR (R210). -/
  | vor (ty : IType) (o : LaOp)
  /-- Lane bitwise XOR (R210). -/
  | vxor (ty : IType) (o : LaOp)
  /-- Lane bitwise NOT (R210). -/
  | vnot (ty : IType) (o : LaOp)
  /-- Lane shift left, giving 0 for counts at or beyond the width (R210). -/
  | vshl (ty : IType) (o : LaOp)
  /-- Lane shift right, arithmetic for signed and logical for unsigned types (R210). -/
  | vshr (ty : IType) (o : LaOp)
  /-- Lane bit-field extract at pos and len taken from b (R210). -/
  | vbfx (ty : IType) (o : LaOp)
  /-- Lane bit-field insert of a's low bits into the destination field (R210). -/
  | vbfi (ty : IType) (o : LaOp)
  /-- Lane count of leading zero bits (R210). -/
  | vclz (ty : IType) (o : LaOp)
  /-- Lane population count (R210). -/
  | vpopc (ty : IType) (o : LaOp)
  /-- Lane register move of source A into vd (R211). -/
  | vmov (o : LaOp)
  /-- Lane move of a sign-extended 22-bit immediate into vd (R211). -/
  | vmovImm (o : LaOp)
  /-- Lane replacement of vd bits 31:22 by immediate bits 9:0 (R211). -/
  | vmovh (o : LaOp)
  /-- Lane select of a or b by the predicate named in field C (R211). -/
  | vsel (o : LaOp)
  /-- Lane 32-bit integer compare writing a predicate in active lanes (R212). -/
  | vcmp (cond : VCond) (o : LaOp)
  /-- Lane fp32 compare writing a predicate, with NaN rules (R212). -/
  | fcmp (cond : FCond) (o : LaOp)
  /-- Predicate AND of two possibly negated predicates (R213). -/
  | pand (o : LaOp)
  /-- Predicate OR of two possibly negated predicates (R213). -/
  | por (o : LaOp)
  /-- Predicate XOR of two possibly negated predicates (R213). -/
  | pxor (o : LaOp)
  /-- Predicate move of a possibly negated predicate (R213). -/
  | pmov (o : LaOp)
  /-- Lane floating add rounded once under the mode field (R214). -/
  | fadd (ty : FType) (o : LaOp)
  /-- Lane floating subtract rounded once (R214). -/
  | fsub (ty : FType) (o : LaOp)
  /-- Lane floating multiply rounded once (R214). -/
  | fmul (ty : FType) (o : LaOp)
  /-- Lane fused multiply-add rounded once from the exact result (R214). -/
  | ffma (ty : FType) (o : LaOp)
  /-- Lane floating minimum with -0 below +0 and canonical NaN (R214). -/
  | fmin (ty : FType) (o : LaOp)
  /-- Lane floating maximum with -0 below +0 and canonical NaN (R214). -/
  | fmax (ty : FType) (o : LaOp)
  /-- Lane floating negation by sign-bit inversion (R214). -/
  | fneg (ty : FType) (o : LaOp)
  /-- Lane floating absolute value by clearing the sign bit (R214). -/
  | fabs (ty : FType) (o : LaOp)
  /-- Special-function reciprocal of fp32 a, rounded once (R215). -/
  | vrcp (o : LaOp)
  /-- Special-function reciprocal square root, rounded once (R215). -/
  | vrsq (o : LaOp)
  /-- Special-function square root, rounded once (R215). -/
  | vsqrt (o : LaOp)
  /-- Special-function base-2 exponential within 1 ulp (R215). -/
  | vexp2 (o : LaOp)
  /-- Special-function base-2 logarithm within 1 ulp (R215). -/
  | vlog2 (o : LaOp)
  /-- Special-function sin(pi a) (R215). -/
  | vsin (o : LaOp)
  /-- Special-function cos(pi a) (R215). -/
  | vcos (o : LaOp)
  /-- Special-function hyperbolic tangent within 2 ulp (R215). -/
  | vtanh (o : LaOp)
  /-- Online softmax step producing new maximum, correction, weight and sum in a register quad (R216). -/
  | smxStep (o : LaOp)
  /-- Conversion of one indexed element between formats under rounding and saturation (R217). -/
  | cvt (o : LaOp)
  /-- Quantisation of x divided by a scale under a format slot, rounded once (R218). -/
  | qntDiv (o : LaOp)
  /-- Quantisation of x multiplied by a supplied reciprocal under a format slot (R218). -/
  | qntMul (o : LaOp)
  /-- Insertion of a's low bits as element k of vd (R219). -/
  | pack (w : EWidth) (o : LaOp)
  /-- Zero-extended extraction of element k of a (R219). -/
  | unpk (w : EWidth) (o : LaOp)
  /-- Packed dot product of 4- or 8-bit elements summed exactly with the addend and rounded or wrapped once (R220). -/
  | dot (toI32 : Bool) (o : LaOp)
  /-- Cross-lane read of source A from an indexed, shifted or xored lane (R221). -/
  | xrd (k : XrdKind) (o : LaOp)
  /-- Fixed-tree reduction over active lanes written to every active lane (R222). -/
  | xred (op : XredOp) (o : LaOp)
  /-- Writes whether any active lane has the condition true (R223). -/
  | voteAny (o : LaOp)
  /-- Writes whether every active lane has the condition true (R223). -/
  | voteAll (o : LaOp)
  /-- Writes a 64-bit lane mask of the condition into a register pair (R223). -/
  | voteBallot (o : LaOp)
  /-- Lane read of a special register into vd, taken at issue (R224). -/
  | vsrd (d : BitVec 7) (num : BitVec 8) (ext : Option PredExt)
  /-- Lane copy of the low or high word of a g register (R224). -/
  | vget (d : BitVec 7) (g : BitVec 6) (hi : Bool) (ext : Option PredExt)
  /-- Repeats the next-slot fixed-latency instruction CNT+1 times with register strides, resumable between iterations (R172). -/
  | rep (cnt : BitVec 6) (ds sa sb sc : BitVec 3)
  /-- Lane branch that moves lanes with a true condition to the target, splitting the run if needed (R225). -/
  | br (neg : Bool) (pn : BitVec 6) (off : BitVec 17)
  /-- Lane load of one unit per lane from global or tile store with ordering and hint (R231). -/
  | ld (sz : LdSize) (o : LmOp)
  /-- Lane store of one unit per lane, entering the in-order drain (R231). -/
  | st (sz : StSize) (o : LmOp)
  /-- Guarded multi-word load reporting per-lane success in a status predicate without faulting on failed checks (R232). -/
  | ldg (words : BitVec 3) (o : LmOp)
  /-- Guarded multi-word store reporting per-lane success in a status predicate (R232). -/
  | stg (words : BitVec 3) (o : LmOp)
  /-- Sequence element load resolving position through the residency map with a status per lane (R234). -/
  | lds (sz : StSize) (o : LmOp)
  /-- Per-lane atomic read-modify-write returning the old value (R236). -/
  | atom (op : AtomOp) (ty : Aty) (o : LmOp)
  /-- Per-lane reduction to memory returning nothing, mergeable in routers when relaxed (R237). -/
  | red (op : RedOp) (ty : Aty) (o : LmOp)
  /-- Atomic add with threshold that registers unsatisfied lanes as waiters and parks the run (R238). -/
  | waitadd (ty : Aty) (o : LmOp)
  /-- Registers active lanes as waiters on a word condition and parks the run until all are woken (R239). -/
  | waitw (cond : WaitCond) (ty : Aty) (o : LmOp)
  /-- Clears the pin bit of the line (R235). -/
  | cctlUnpin (o : LmOp)
  /-- Places the line if absent and sets its pin bit within the pin limit (R235). -/
  | cctlPin (o : LmOp)
  /-- Clears pin, invalidates replicas, writes back dirty home and leaves the entry absent (R235). -/
  | cctlEvict (o : LmOp)
  /-- Places the line as a hintless load would without returning a value (R235). -/
  | cctlPrefetch (o : LmOp)
  /-- Initialises an mbar object's expected count, got count and round (R241). -/
  | mbarInit (o : LmOp)
  /-- Raises an mbar object's expected byte count, possibly completing a round (R241). -/
  | mbarExp (o : LmOp)
  /-- Parks the run until each lane's mbar round differs from the given value, then acquires at team scope (R241). -/
  | mbarWait (o : LmOp)
  /-- Counts bytes arrived on an mbar object as a team-scope release, possibly completing a round (R241). -/
  | mbarArv (o : LmOp)
  /-- Parks the run at a rendezvous point until the phase completes (R240). -/
  | bar (k : BitVec 5)
  /-- Marks the run's lanes arrived at a point for the current phase and continues (R240). -/
  | barArv (k : BitVec 5)
  /-- Parks at a rendezvous point fixing the phase's expected count from register B (R240). -/
  | barCnt (k : BitVec 5) (b : BitVec 7)
  /-- Acquire fence at a scope ordering earlier loads before later accesses (R242). -/
  | fenceAcq (scope : BitVec 3)
  /-- Release fence at a scope ordering later stores after earlier accesses (R242). -/
  | fenceRel (scope : BitVec 3)
  /-- Acquire-release fence at a scope (R242). -/
  | fenceAr (scope : BitVec 3)
  /-- Full fence ordering earlier stores before later loads at a scope (R242). -/
  | fenceFull (scope : BitVec 3)
  /-- Opens or nests a local transactional region, checkpointing registers at the opening (R243). -/
  | tryL (ww : Bool) (off : BitVec 17)
  /-- Opens or nests a global transactional region with read-set tracking (R243). -/
  | tryG (tt ww : Bool) (off : BitVec 17)
  /-- Ends a region, performing the surviving lanes' buffered stores without validation (R247). -/
  | commitL (scope : BitVec 3)
  /-- Ends a region with conflict resolution, leases, validation and atomic performing of buffered stores (R247). -/
  | commitG (scope : BitVec 3)
  /-- Explicitly aborts the issuing lanes' region with code 1 and an 8-bit code (R248). -/
  | abort (imm : BitVec 8)
  /-- Writes each lane's last region outcome code, abort immediate and depth (R249). -/
  | tstat (d : BitVec 7)
  /-- Reads one half of a store-buffer entry into a register quad (R250). -/
  | tbufRead (d a : BitVec 7)
  /-- Reserves slots of a sequence per lane returning first index and status (R253). -/
  | seqRes (o : LmOp)
  /-- Marks reserved slots filled with a release and advances the committed length (R254). -/
  | seqCmt (o : LmOp)
  /-- Matrix multiply-accumulate into an accumulator, alone or entering a gang latch (R267). -/
  | mma (o : MmaOp)
  /-- Binds an accumulator to the team and clears it to +0 in queue order (R270). -/
  | aclr (acc : BitVec 2)
  /-- Copies or requantises accumulator rows into a tile and scale bytes (R271). -/
  | drain (o : DrainOp)
  /-- Starts an element-wise chain of up to eight operations over a stream on the lane pipe (R281). -/
  | chain (o : ChainOp)
  /-- Uniform add, wrapping (R187). -/
  | uadd (ty : UType) (o : UaOp)
  /-- Uniform subtract, wrapping (R187). -/
  | usub (ty : UType) (o : UaOp)
  /-- Uniform multiply low bits (R187). -/
  | umul (ty : UType) (o : UaOp)
  /-- Uniform multiply high bits (R187). -/
  | umulh (ty : UType) (o : UaOp)
  /-- Uniform truncating divide with defined divide-by-zero result (R187). -/
  | udiv (ty : UType) (o : UaOp)
  /-- Uniform remainder with the sign of a (R187). -/
  | urem (ty : UType) (o : UaOp)
  /-- Uniform minimum (R187). -/
  | umin (ty : UType) (o : UaOp)
  /-- Uniform maximum (R187). -/
  | umax (ty : UType) (o : UaOp)
  /-- Uniform bitwise AND (R187). -/
  | uand (ty : UType) (o : UaOp)
  /-- Uniform bitwise OR (R187). -/
  | uor (ty : UType) (o : UaOp)
  /-- Uniform bitwise XOR (R187). -/
  | uxor (ty : UType) (o : UaOp)
  /-- Uniform a AND NOT b (R187). -/
  | uandn (ty : UType) (o : UaOp)
  /-- Uniform bitwise NOT (R187). -/
  | unot (ty : UType) (o : UaOp)
  /-- Uniform count of leading zeros (R187). -/
  | uclz (ty : UType) (o : UaOp)
  /-- Uniform population count (R187). -/
  | upopc (ty : UType) (o : UaOp)
  /-- Uniform shift left (R187). -/
  | ushl (ty : UType) (o : UaOp)
  /-- Uniform logical shift right (R187). -/
  | ushr (ty : UType) (o : UaOp)
  /-- Uniform arithmetic shift right (R187). -/
  | usar (ty : UType) (o : UaOp)
  /-- Uniform rotate left (R187). -/
  | urot (ty : UType) (o : UaOp)
  /-- Uniform bit-field extract (R187). -/
  | ubfx (ty : UType) (o : UaOp)
  /-- Uniform bit-field insert (R187). -/
  | ubfi (ty : UType) (o : UaOp)
  /-- Uniform register move (R188). -/
  | umov (o : UaOp)
  /-- Uniform move of a sign-extended immediate (R188). -/
  | umovi (ty : UType) (o : UaOp)
  /-- Uniform replacement of one 16-bit half of a register (R188). -/
  | umovk (o : UaOp)
  /-- Uniform select of ga or gb by a q predicate (R188). -/
  | usel (o : UaOp)
  /-- Uniform packet-relative address computation (R188). -/
  | uadr (o : UaOp)
  /-- Uniform compare writing a q predicate (R189). -/
  | ucmp (cond : UCond) (ty : UType) (o : UaOp)
  /-- Uniform predicate AND (R190). -/
  | qand (d a b : BitVec 6) (q : QPred)
  /-- Uniform predicate OR (R190). -/
  | qor (d a b : BitVec 6) (q : QPred)
  /-- Uniform predicate XOR (R190). -/
  | qxor (d a b : BitVec 6) (q : QPred)
  /-- Uniform predicate move (R190). -/
  | qmov (d a b : BitVec 6) (q : QPred)
  /-- Sets a q predicate if a p predicate holds in any lane of the run (R190). -/
  | qany (d a b : BitVec 6) (q : QPred)
  /-- Sets a q predicate if a p predicate holds in every lane of the run (R190). -/
  | qall (d a b : BitVec 6) (q : QPred)
  /-- Sets a q predicate to a constant (R190). -/
  | qset (d a b : BitVec 6) (q : QPred)
  /-- Uniform global load into a g register with flag (R191). -/
  | uld (sz : USize) (d a : BitVec 6) (x : UmExt)
  /-- Uniform global store from a g register (R191). -/
  | ust (sz : StSize) (d a : BitVec 6) (x : UmExt)
  /-- Uniform branch of the whole run to a packet-relative target (R194). -/
  | bra (off : BitVec 24) (q : QPred)
  /-- Uniform call writing the return packet address to g63 (R194). -/
  | call (off : BitVec 24) (q : QPred)
  /-- Uniform branch to the address in a g register (R194). -/
  | ret (a : BitVec 6) (q : QPred)
  /-- Indexed branch through a jump table checked against a PAD label (R195). -/
  | brx (a : BitVec 6) (x : UbExt)
  /-- Decrements a counter and branches while it exceeded 1 (R194). -/
  | loop (c : BitVec 6) (off : BitVec 18) (q : QPred)
  /-- Landing pad with a label, no effect when reached (R195). -/
  | pad (label : BitVec 16)
  /-- Removes the run's lanes from the PC table, ending warp and team when last (R196). -/
  | exit (q : QPred)
  /-- Issues with no effect (R196). -/
  | nop (q : QPred)
  /-- Reads a special register into a g register at issue (R197). -/
  | srd (d : BitVec 6) (num : BitVec 8) (q : QPred)
  /-- Writes %SRSEED from a g register, effective from issue (R197). -/
  | swr (a : BitVec 6) (num : BitVec 8) (q : QPred)
  /-- Reads one lane's v register into a g register (R198). -/
  | ugetl (d : BitVec 6) (v lane : BitVec 7) (q : QPred)
  /-- Requests N register blocks for the warp, parking until granted (R199). -/
  | ralloc (n : BitVec 4) (q : QPred)
  /-- Frees the top N register blocks of the warp (R199). -/
  | rfree (n : BitVec 4) (q : QPred)
  /-- Writes the warp's GANG register forming or leaving a gang (R200). -/
  | gang (a : BitVec 6) (q : QPred)
  /-- Copies and checks a launch record creating a child grid and writes a status (R201). -/
  | launch (d a : BitVec 6) (q : QPred)
  /-- Parks the run until the next time-slot boundary (R202). -/
  | tsync (q : QPred)
  /-- Ranks the warp last at its next issue opportunity and ends any bind (R203). -/
  | yield (q : QPred)
  /-- Parks the run for at least NSEC nanoseconds (R203). -/
  | sleep (ns : BitVec 18) (q : QPred)
  /-- Software trap stopping the run and entering the handler with an 8-bit code (R204). -/
  | trap (imm : BitVec 8) (q : QPred)
  /-- Ends handler mode, restoring saved g registers and latches and resuming the trapped lanes (R354). -/
  | eret
  /-- Allocates a tile-table entry for a tag and range, returning entry and status (R273). -/
  | tileAlloc (d a b : BitVec 6) (q : QPred)
  /-- Finds the team's tile entry with a tag, returning entry, state and status (R273). -/
  | tileFind (d a : BitVec 6) (q : QPred)
  /-- Returns a ready or empty tile to empty (R273). -/
  | tileInv (d a : BitVec 6) (q : QPred)
  /-- Releases a tile-table entry (R273). -/
  | tileRel (d a : BitVec 6) (q : QPred)
  /-- Reads a tile-table entry into a g register pair (R273). -/
  | tileStat (d a : BitVec 6) (q : QPred)
  /-- Copies request records from the tile store into the request engine queue (R274). -/
  | rqKick (a b : BitVec 6) (q : QPred)
  /-- Binds a committed-length register to a sequence descriptor (R256). -/
  | seqBind (d : BitVec 6) (a : BitVec 6) (x : UmExt)
  /-- Reads the committed length with acquire and refreshes bound ql registers (R256). -/
  | seqLen (d a : BitVec 6) (x : UmExt)
  /-- Makes a child sequence sharing the parent's prefix chunks and returns a status (R257). -/
  | seqFork (d a b : BitVec 6) (x : UmExt)
  /-- Drops a sequence, lowering chunk reference counts and releasing unreferenced chunks (R258). -/
  | seqDrop (d a : BitVec 6) (x : UmExt)
  /-- A run about to issue at an enabled breakpoint address stops and a halt begins (R429). -/
  | breakpointHit (warp bp : Nat)
  /-- A variable-latency lane value arrives and is written, the flag counting down when all lanes finish (R229). -/
  | loadDataReturn (acc : Nat)
  /-- A slice or tier agent serves a load at one instant and returns one coherent value (R141). -/
  | loadServe (acc : Nat)
  /-- A drained store or atomic write performs at the home slice or tier agent in coherence order (R139). -/
  | storePerform (acc : Nat)
  /-- With the watch list full, the core re-reads a waiter's word every 1 us and wakes on a met condition (R239). -/
  | watchReread (watch : Nat)
  /-- A SLEEP run's wake time is reached and the run unparks (R203). -/
  | sleepWake (warp : Nat)
  /-- The time-slot boundary arrives and TSYNC runs unpark (R202). -/
  | tsyncWake (warp : Nat)
  /-- A bound port passes 16 aclk without the warp issuing and selects freely, emptying latches (R72). -/
  | bindLapse (core port : Nat)
  /-- A packet hold ends after 16 aclk with the next slot unissued, emptying the warp's latches (R69). -/
  | packetHoldEnd (core port : Nat)
  /-- The joint MMA's token claim is granted and the latch opens into the matrix queue (R288). -/
  | gangLatchOpen (team : Nat)
  /-- The matrix unit completes one 32-row group of an MMA, setting flags after the last (R267). -/
  | matrixMmaGroup (core : Nat)
  /-- The matrix unit clears a bound accumulator in queue order (R270). -/
  | matrixAclrExecute (core : Nat)
  /-- The matrix unit writes drained rows and scales to the tile and sets the flag (R271). -/
  | matrixDrainExecute (core : Nat)
  /-- A 1,024-element unit of a chain is charged tokens and processed (R283). -/
  | chainUnit (core chain : Nat)
  /-- A waiting engine request is accepted on its tile, raising PENDW or PENDR and changing state (R121). -/
  | tileRequestAccept (core req : Nat)
  /-- The engine starts a queued request, performing its acquire and first reads (R274). -/
  | rqRequestStart (core req : Nat)
  /-- A request finishes its writes, release and mbar counts and sets its flag (R280). -/
  | rqRequestComplete (core req : Nat)
  /-- Multicast data reaches a destination core and writes into a team's tagged tile once one exists (R278). -/
  | multicastDelivery (core deliv : Nat)
  /-- Copies a sequence chunk to a new area and releases the new header (R279). -/
  | chunkMove (core req : Nat)
  /-- The sequence unit serves one sequence request as an indivisible step in arrival order (R251). -/
  | squServeRequest (req : Nat)
  /-- Leases not all held within 2,048 aclk of COMMIT abort the surviving lanes with code 10 (R247). -/
  | leaseTimeout (warp : Nat)
  /-- All leases are granted, then validation and performing of the region's stores proceed (R247). -/
  | commitLeasesHeld (warp : Nat)
  /-- Freed general blocks let the oldest pending RALLOC be granted and its run wakes (R67). -/
  | rallocGrant (core : Nat)
  /-- A RALLOC deadlock condition leads within 64 aclk to a grant from the emergency set (R68). -/
  | emergencyGrant (core : Nat)
  /-- The device copies and checks the next ring record with acquire and increments READ, stopping on invalid (R320). -/
  | queueRecordCopy (ctx queue : Nat)
  /-- An eligible record starts dispatch and takes a grid entry (R56). -/
  | gridDispatchStart (ctx src : Nat)
  /-- The dispatcher re-reads a watched dependence word after an update and marks it satisfied (R58). -/
  | dependenceReread (ctx src dep : Nat)
  /-- A team is made resident on a core when its resources are free (R59). -/
  | teamPlace (ctx grid core : Nat)
  /-- The scheduler pre-empts parked teams of a context so a child team can become resident (R35). -/
  | childResidencyPreempt (ctx grid : Nat)
  /-- An exited team's engine work completes, its resources return and the core counter decrements (R63). -/
  | teamRelease (team : Nat)
  /-- A core's grid counter reaching zero sends a drained report that the dispatcher applies or discards as stale (R62). -/
  | drainedReport (core ctx grid seq : Nat)
  /-- A grid whose counts are zero performs its release, fires its signal and frees its entry (R65). -/
  | gridRetire (ctx grid : Nat)
  /-- Per-aclk token arbitration charges a wide claimant from the cluster pocket or reservation (R287). -/
  | tokenGrant (cluster : Nat)
  /-- At each 22 ns lap the power controller injects INJ tokens into the Lunge Ring (R285). -/
  | ringLap (reticle : Nat) (corrupt : Bool)
  /-- The ring reaches a station, which pockets its share and takes spares (R286). -/
  | ringStationVisit (reticle station : Nat)
  /-- Tokens two laps old and not held evaporate (R286). -/
  | tokenEvaporation (cluster : Nat)
  /-- A step change not relocked within 1.5 us restores the previous step (R419). -/
  | stepRelockTimeout (cluster : Nat)
  /-- INJ below the base limit for 1 ms is reported (R419). -/
  | throttled (reticle : Nat)
  /-- Pre-emption stops a team's issue and takes work under way to its fate (R299). -/
  | preemptRequest (team : Nat)
  /-- After the drain the team image is written to the shed, marked valid and the core freed (R299). -/
  | teamSaveWrite (team : Nat)
  /-- A saved team is loaded onto a free core, its barriers, latch, queues and waits rebuilt (R309). -/
  | teamRestore (team core : Nat)
  /-- Once %TIME exceeds SAVEDAT by the agreement bound, the restored team may issue (R309). -/
  | restoreFirstIssue (team : Nat)
  /-- Firmware pre-empts affected contexts, waits for resolved requests, rewrites %NBR and resumes (R21). -/
  | reembed (moves : Embedding)
  /-- Firmware replaces the defect-tree image under the odd-even generation protocol (R25). -/
  | defectTreeUpdate
  /-- Within 1 ms of a DTHOST write firmware writes the current image to the host copy (R22). -/
  | defectTreeHostCopy
  /-- An absent line is filled from its tier into the anchor slice, which becomes its home (R125). -/
  | lineFill (line : Nat)
  /-- The new home acknowledges the copy; the anchor sets HOME, performs held writes and clears the old home (R126). -/
  | migrationAck (line : Nat)
  /-- A deferred replica is placed after write-back or after MOVING or COLLAPSING ends (R128). -/
  | replicaPlace (line reticle : Nat)
  /-- A replica acknowledges its invalidation; the last one performs the held write or ends COLLAPSING (R127). -/
  | invalidationAck (line reticle : Nat)
  /-- At each window boundary every use counter clears (R126). -/
  | yardmasterWindow
  /-- A last-level TLB miss takes a walker and walks the page table (R117). -/
  | pageWalk (warp : Nat)
  /-- A page leaves the full queue and the oldest access waiting at a walker is enqueued (R398). -/
  | faultQueueAdmit
  /-- A waiting access's stall count passes the limit and the context is faulted (R400). -/
  | faultServiceLimit (ctx : Nat)
  /-- All TLBs dropped the entries and old-translation accesses performed; the count increments and BUSY clears (R118). -/
  | invalidationComplete (ctx : Nat)
  /-- An invalidation not complete within 1 ms resets the reticle (R118). -/
  | invTimeout (ctx reticle : Nat)
  /-- A detected fault is taken at the warp's next issue opportunity and delivered or faults the context (R346). -/
  | faultTake (warp : Nat)
  /-- A frame frees and a warp waiting for one enters its handler (R353). -/
  | trapFrameFree (warp : Nat)
  /-- At the end of a 1 ms folding period one record of pending severity-0 events is written (R365). -/
  | recordFoldExpiry (engine cause : Nat)
  /-- Vilvor log overwrites of severity 1 or 2 records are reported at most once per 1 ms (R377). -/
  | logWrap
  /-- A grid's watchdog count reaches WDLIMIT and the context is faulted (R413). -/
  | watchdogExpiry (ctx grid : Nat)
  /-- A cold-text piece is copied from COLDSRC and waiting fetches proceed (R325). -/
  | coldTextLoad (ctx piece : Nat) (failed : Option Nat)
  /-- An engine without progress for 1 ms is reset with ENG_RESET and its core reset (R372). -/
  | engineNoProgress (core : Nat) (chain : Bool)
  /-- A multicast delivery waiting 10 ms for its tag is reported (R278). -/
  | mcWaiting (core deliv : Nat)
  /-- A sequence request unserved for 10 ms evacuates the anchor slice (R404). -/
  | squTimeout (req : Nat)
  /-- A failing slice closes, empties, leaves the map and is published as evacuated (R393). -/
  | sliceEvacuation (slice : Nat)
  /-- An evacuation not complete within 50 ms resets the reticle (R393). -/
  | evacuationTimeout (slice : Nat)
  /-- A replica invalidation unacknowledged for 100 us resets the replica's reticle (R397). -/
  | collapseTimeout (line reticle : Nat)
  /-- A remote request unanswered for 1 ms on every route ends with YL_TIMEOUT (R409). -/
  | ylRequestTimeout (tag : Nat)
  /-- A missing unit report within 1 ms aborts the update (R411). -/
  | routingVerdictTimeout
  /-- At the commit boundary every unit switches to the new tables (R411). -/
  | routingCommit
  /-- Old tables are released once no packet of the old generation remains (R411). -/
  | routingOldDrain
  /-- An attestation request is served, or refused if identity failed verification (R420). -/
  | attestationRequest
  /-- Firmware saves or faults a reticle's teams, evacuates its slices and resets it (R421). -/
  | reticleReset (reticle cause : Nat)
  /-- Firmware moves a core's teams elsewhere and resets the core (R421). -/
  | coreReset (core cause : Nat)
  /-- The stepped instruction completes, parks or 1 ms passes, and the team is saved again (R431). -/
  | dbgStepEnd (ctx : Nat)
  /-- A router merges matching relaxed RED requests within its 32-aclk window and forwards the merged operand (R149). -/
  | redMerge (acc into : Nat)
  /-- A host write to a queue's WRITE register submits records, or is ignored if out of range (R320). -/
  | doorbell (ctx queue value : Nat)
  /-- A write of 1 to SKIP while STOPPED discards the stopped record and clears STOPPED (R320). -/
  | queueSkip (ctx queue value : Nat)
  /-- Setting CTL ENABLE lets the device copy and dispatch the queue's records (R320). -/
  | queueEnable (ctx queue value : Nat)
  /-- Every 10 us the power controller computes thermal, current and boost rates and sets INJ (R292). -/
  | pwcControlInterval (reticle thermal current degC : Nat)
  /-- Every 100 us measured energy is attributed to contexts and %ENERGY advances (R296). -/
  | energyUpdate (dynamic : List (Nat × Nat)) (rest : List (Nat × Nat)) (metered : Bool)
  /-- Firmware stops a cluster's issue, relocks its clock at a new step and resumes (R293). -/
  | frequencyStepChange (cluster freq : Nat)
  /-- A droop detector fires and lengthens the cluster's aclk periods until the rail recovers (R294). -/
  | droopStretch (cluster : Nat)
  /-- Vilvor grants or revokes a boost ceiling for a reticle (R291). -/
  | boostGrant (reticle ceiling : Nat)
  /-- Firmware moves a team from a hot cluster to a cooler one by save and restore (R297). -/
  | hotspotMigration (team core : Nat)
  /-- A thermal trip lasting 10 ms resets the reticle (R419). -/
  | thermalShutdown (reticle degC : Nat)
  /-- Logic and SRAM rails more than 150 mV apart reset the reticle (R419). -/
  | railGap (reticle mv : Nat)
  /-- Module power above 24 kW for 1 ms revokes every boost for 1 s (R419). -/
  | powerLimit (watts : Nat)
  /-- A context's dispatch stops, its teams are pre-empted and its dispatcher section saved (R311). -/
  | contextSwitch (ctx : Nat)
  /-- A context's dispatcher section and team images are reloaded and held doorbells applied (R311). -/
  | contextRestore (ctx : Nat)
  /-- Every 1 ms link timestamps are exchanged and region clocks slewed toward region 0 (R313). -/
  | timeExchange (measured : List Int)
  /-- The driver sets the host-copy address of the defect tree (R22). -/
  | dthostWrite (addr : Nat)
  /-- Slice replacement evicts an unpinned line, invalidating replicas and writing back dirty data (R129). -/
  | lineEvict (line : Nat)
  /-- The placement map changes and directory entries move to new anchors with forwarding (R124). -/
  | placementMapChange (slice : Nat) (leave : Bool)
  /-- A replay request walks attached accesses again or ends them with SERVICE_FAILED (R399). -/
  | repgo (ctx value : Nat)
  /-- A write of 1 to INVGO starts an invalidation of a virtual range and sets BUSY (R319). -/
  | invgo (ctx value : Nat)
  /-- A storage error is corrected or, when used uncorrectable, reported under its structure's cause (R390). -/
  | softErrorDetect (structure_ : Nat) (corrected : Bool) (warp unit index lane : Nat)
  /-- A slice scrubs one line every 1,024 ns, correcting or poisoning it (R391). -/
  | l2Scrub (slice line : Nat) (uncorrectable : Bool)
  /-- The patrol scrub finds an uncorrectable HBM line and poisons it (R405). -/
  | hbmPatrolScrub (line : Nat)
  /-- A slice fails its checks, its bank is erased and reads are reconstructed from the group (R392). -/
  | sliceFailure (slice : Nat)
  /-- A slice stops answering and is evacuated with its dirty lines poisoned (R395). -/
  | sliceSilent (slice : Nat)
  /-- A lost directory entry is rebuilt by searching in-map slices and held requests released (R396). -/
  | dirRebuild (line : Nat) (homes : List Nat)
  /-- Wear management copies a failing row to a spare (R405). -/
  | hbmRowRemap (stack bank line : Nat)
  /-- A stack passes warning temperature doubling refresh, or its limit stopping traffic (R405). -/
  | hbmThermal (stack degC : Nat) (trip : Bool)
  /-- A stack or channel fails in service and its addresses return poison (R405). -/
  | hbmStackFailure (stack : Nat) (channel : Option Nat)
  /-- A router withholds credits for 10 us or fails checks and its core is withdrawn (R406). -/
  | routerFailure (core : Nat) (moves detours : List (Nat × Nat)) (saveable : Bool)
  /-- A stitched link is withdrawn and packets detour until the next routing commit (R406). -/
  | stitchedLinkFailure (reticle link : Nat)
  /-- A packet unmoved for 100 us requires a device reset (R411). -/
  | fabricStall (core link : Nat)
  /-- A Yilesh flit is received, acknowledged or requested again on CRC failure (R322). -/
  | ylFlitReceive (port seq : Nat) (crcOk : Bool)
  /-- A remote request arrives at the owner and performs there unless a duplicate write tag (R323). -/
  | ylRequestArrival (port src tag kind addr : Nat) (data : List Byte) (op aty : Nat)
  /-- A completion or in-doubt completion reaches the requester and retires the tag (R408). -/
  | ylCompletionArrival (tag : Nat) (inDoubt : Bool) (error : Nat) (data : List Byte)
  /-- A Yilesh link dies; partial packets drop and idempotent requests are re-routed (R407). -/
  | ylLinkDeath (port : Nat)
  /-- A host store to device memory performs at the home (R154). -/
  | hostWrite (addr : Nat) (data : List Byte)
  /-- A host PCIe AtomicOp to device memory performs as a completer (R316). -/
  | hostAtomicop (addr op size : Nat) (operand swap : Nat)
  /-- A CXL back-invalidate drops a cached pool line (R114). -/
  | cxlBackInvalidate (line : Nat)
  /-- A CXL.cache snoop from the host acts on a cached host line (R114). -/
  | cxlSnoop (line : Nat) (data : Option (List Byte))
  /-- A host port link trains as PCIe or CXL and the choice is published (R316). -/
  | hostLinkUp (port : Nat) (cxl : Bool) (width : Nat)
  /-- A host port link goes down and accesses to its window halves fail (R317). -/
  | hostLinkDown (port : Nat)
  /-- The fabric manager assigns the device number and installs routing tables (R321). -/
  | deviceNumberAssign (number : Nat) (routes : List Nat)
  /-- A signed routing image is verified and staged; a rejection aborts it everywhere (R411). -/
  | routingUpdateStage (gen : Nat) (sigOk crcOk : Bool) (routes : List Nat)
  /-- A staged firmware image is verified and installed or discarded (R420). -/
  | firmwareUpdate (version : Nat) (authOk : Bool)
  /-- Vilvor verifies firmware, the wafer is tested and embedded, ports train and contexts are set up in order (R328). -/
  | bringUp (stage : BringUpStep) (authOk identityOk : Bool)
  /-- A write of the key to RSTCTL or a conventional reset loses all state and restarts bring-up (R421). -/
  | deviceReset (kind key : Nat)
  /-- A function-level reset of a VF destroys its context (R421). -/
  | functionLevelReset (ctx : Nat)
  /-- A HALT command switches the context out as a debug halt (R428). -/
  | dbgHalt (ctx : Nat)
  /-- A RESUME command restores the halted context and clears HALTED (R428). -/
  | dbgResume (ctx : Nat)
  /-- A STEP command restores the target team and lets its target warp issue one instruction (R431). -/
  | dbgStep (ctx : Nat)
  /-- A BACK command applies the newest undo-log entry to the target warp's image (R434). -/
  | dbgBack (ctx : Nat)
  /-- A write to a management, context or doorbell register with no behaviour of its own, accepted or ignored by its rules (R423). -/
  | registerWrite (page offset value : Nat)
  /-- The cluster's logic rail recovers and the droop detector stops lengthening the aclk periods (R294). -/
  | droopRecovery (cluster : Nat)
  /-- Firmware fails, Vilvor restarts it and the device is reset with RSTCAUSE kind 3 (R377). -/
  | fwException (code : Nat)
  /-- A lane of a stitched link is withdrawn and the link's healthy-lanes mask in the defect tree changes (R374). -/
  | linkDegraded (reticle link mask : Nat)
  /-- A lane of a Yilesh port is withdrawn and its lanes in service fall (R376). -/
  | ylDegraded (port lanes : Nat)
  /-- The path through the switch to the CXL memory pool is lost and pool accesses fail (R376). -/
  | poolPathDown (port : Nat)
  /-- A host port reports a correctable or non-fatal PCIe error, a completion timeout or a CXL protocol error (R376). -/
  | hostPortError (port kind status : Nat)
  deriving DecidableEq, Repr

end Sys2Proof
end

