-- ==== Sys2Proof/Machine/Forms.lean ====
section
/-!
DEFINITION. The forms of the instructions as data: for each constructor of Instr its opcode, function code, layout and
the fields that its layout lets it use (Tables 8-2 to 8-12, 9-1, 10-1, 11-1). Decoder, encoder and WellFormed read
these tables.
-/
namespace Sys2Proof.Machine
open Sys2Proof

/-- What the RM field of an EXK 0 word holds: nothing, a rounding mode or a format-slot index (Table 8-4). -/
inductive RmUse | zero | mode | slot
  deriving DecidableEq, Repr

/-- What the extension word and fields of a layout-LA form may hold (Tables 8-9 and 10-1). `immTop` is the lowest
IMM bit that must be 0 from there up. -/
structure LaRule where
  need : Bool := false
  k0 : Bool := false
  k1 : Bool := false
  k2 : Bool := false
  useA : Bool := true
  useB : Bool := true
  useC : Bool := false
  pat : Bool := false
  rm : RmUse := .zero
  sat : Bool := false
  nowb : Bool := true
  dpred : Bool := false
  immTop : Nat := 22
  deriving DecidableEq, Repr

/-- What field A of a layout-LM form holds (Table 8-7). -/
inductive LmA | index | reg | zero
  deriving DecidableEq, Repr

/-- Which FLAG codes a form accepts: 0 to 11; those or 15; 15 only; only a field of 0 (Table 11-1, R255). -/
inductive FlagUse | need | opt | none15 | zero
  deriving DecidableEq, Repr

/-- Which SCOPE codes a form accepts (R229, R234, R253, R254). -/
inductive ScopeUse | any | from3 | from4 | zero
  deriving DecidableEq, Repr

/-- The row of Table 11-1 and the roles of Table 8-7 for a layout-LM form. -/
structure LmRule where
  sp0 : Bool := true
  sp1 : Bool := true
  ords : List Ord
  flag : FlagUse := .need
  useD : Bool := true
  a : LmA := .index
  useB : Bool := true
  bPred : Bool := false
  scope : ScopeUse := .any
  off : Bool := true
  aty : Bool := false
  deriving DecidableEq, Repr

/-- The extension of a layout-UA form: optional, predicate only, required with I = 1, required with I = 0 (R185). -/
inductive UaExtUse | opt | pred | imm | sel
  deriving DecidableEq, Repr

/-- The row of Table 9-1 for a layout-UA form. -/
structure UaRule where
  ext : UaExtUse := .opt
  useA : Bool := true
  useB : Bool := true
  dq : Bool := false
  immTop : Nat := 25
  deriving DecidableEq, Repr

/-- The row of Table 9-1 or R255 for a layout-UM form. -/
structure UmRule where
  ords : List Ord
  flag : FlagUse
  scope : ScopeUse := .any
  off : Bool := true
  deriving DecidableEq, Repr

/-- Where an instruction stands in the maps of Tables 8-8 and 8-11, with its fields. -/
inductive Form
  | la (op fn : Nat) (r : LaRule) (o : LaOp)
  | lm (op fn : Nat) (ty : Option Nat) (r : LmRule) (o : LmOp)
  | ua (op fn ty : Nat) (r : UaRule) (o : UaOp)
  | um (op fn : Nat) (d a b : BitVec 6) (ok : Bool) (r : UmRule) (x : UmExt)
  | uq (op : Nat) (body : BitVec 24) (ok : Bool) (q : QPred)
  | words (w : W32) (e : Option W32) (ok : Bool)
  | event
  deriving DecidableEq, Repr

/-- FN codes of the lane integer types (Table 8-9). -/
def ity : IType → Nat | .i32 => 0 | .n32 => 1 | .i64 => 2 | .n64 => 3 | .i16x2 => 4 | .n16x2 => 5
/-- FN codes of the lane floating types (Table 8-9). -/
def fty : FType → Nat | .fp32 => 0 | .fp16x2 => 1 | .bf16x2 => 2
/-- The immediate bits a floating type leaves free (R166). -/
def fimm : FType → Nat | .fp32 => 22 | _ => 16
/-- TY codes (Table 8-10). -/
def uty : UType → Nat | .n64 => 0 | .i64 => 1 | .n32 => 2 | .i32 => 3
/-- FN codes of VCMP (Table 8-9). -/
def vcond : VCond → Nat | .eq => 0 | .ne => 1 | .lt => 2 | .le => 3 | .gt => 4 | .ge => 5 | .lo => 6 | .hs => 7
/-- FN codes of FCMP (Table 8-9). -/
def fcond : FCond → Nat | .eq => 0 | .ne => 1 | .lt => 2 | .le => 3 | .gt => 4 | .ge => 5 | .num => 6 | .nan => 7
/-- FN codes of UCMP (Table 8-12). -/
def ucond : UCond → Nat | .eq => 0 | .ne => 1 | .lt => 2 | .le => 3 | .gt => 4 | .ge => 5
/-- FN codes of PACK and UNPK (Table 8-9). -/
def ewid : EWidth → Nat | .w4 => 0 | .w8 => 1 | .w6 => 2 | .w16 => 3
/-- FN codes of XRD (Table 8-9). -/
def xrdk : XrdKind → Nat | .idx => 0 | .up => 1 | .dn => 2 | .xor => 3
/-- FN codes of XRED (Table 8-9). -/
def xredop : XredOp → Nat
  | .addI32 => 0 | .addFp32 => 1 | .minI32 => 2 | .maxI32 => 3 | .minFp32 => 4 | .maxFp32 => 5 | .and => 6 | .or => 7
/-- FN of DOT: 1 for the i32 result (Table 8-9). -/
def b3 (b : Bool) : Nat := if b then 1 else 0
/-- FN codes of LD sizes (Table 8-7). -/
def ldsz : LdSize → Nat | .n8 => 0 | .n16 => 1 | .n32 => 2 | .n64 => 3 | .n128 => 4 | .i8 => 5 | .i16 => 6
/-- FN codes of ST, LDS and UST sizes (Tables 8-7, 8-12). -/
def stsz : StSize → Nat | .n8 => 0 | .n16 => 1 | .n32 => 2 | .n64 => 3 | .n128 => 4
/-- FN codes of ULD sizes (Table 8-12). -/
def usz : USize → Nat | .n8 => 0 | .n16 => 1 | .n32 => 2 | .n64 => 3 | .n128 => 4 | .i8 => 5 | .i16 => 6 | .i32 => 7
/-- FN codes of ATOM (Table 8-9). -/
def atomop : AtomOp → Nat | .add => 0 | .min => 1 | .max => 2 | .and => 3 | .or => 4 | .xor => 5 | .exch => 6 | .cas => 7
/-- FN codes of RED (Table 8-9). -/
def redop : RedOp → Nat | .add => 0 | .min => 1 | .max => 2 | .and => 3 | .or => 4 | .xor => 5
/-- ATY codes (R169). -/
def aty : Aty → Nat | .i32 => 0 | .n32 => 1 | .i64 => 2 | .n64 => 3 | .fp32 => 4 | .n128 => 5
/-- FN codes of WAITW (Table 8-7). -/
def wcond : WaitCond → Nat | .eq => 0 | .ne => 1 | .ge => 2 | .lt => 3
/-- ORD codes (Table 7-2). -/
def ordc : Ord → Nat | .plain => 0 | .acquire => 1 | .release => 2 | .acqRel => 3
/-- HINT codes (R168). -/
def hintc : Hint → Nat | .none => 0 | .pin => 1 | .stream => 2 | .rep => 3
/-- PK codes (Table 8-4). -/
def patc : Pat → Nat | .none => 0 | .rot => 1 | .rev => 2 | .xor8 => 3 | .bc => 4
/-- EF codes (Table 3-3). -/
def efc : EFmt → Nat
  | .fp32 => 0 | .fp16 => 1 | .bf16 => 2 | .e4m3 => 3 | .e5m2 => 4 | .e2m3 => 5 | .e3m2 => 6 | .e2m1 => 7
  | .i8 => 8 | .n8 => 9 | .ob8 => 10 | .ob4 => 11
/-- DT and ST codes (Table 8-5). -/
def cvtc : CvtType → Nat | .ef f => efc f | .i32 => 12 | .n32 => 13 | .e8m0 => 14
/-- RND codes (Table 3-3). -/
def rndc : Rnd → Nat
  | .nearestEven => 0 | .towardZero => 1 | .towardNeg => 2 | .towardPos => 3 | .nearestAway => 4 | .stochastic => 5

/-- A Bool as one bit. -/
def b1 (b : Bool) : BitVec 1 := BitVec.ofBool b

/-- The layout-LA base word (Table 8-2). -/
def laWord (x : Bool) (op : Nat) (d a b : BitVec 7) (fn : Nat) : W32 :=
  0#1 ++ b1 x ++ BitVec.ofNat 6 op ++ d ++ a ++ b ++ BitVec.ofNat 3 fn

/-- A lane word with its 24 low bits given (R171). -/
def laneBody (x : Bool) (op : Nat) (body : BitVec 24) : W32 := 0#1 ++ b1 x ++ BitVec.ofNat 6 op ++ body

/-- The layout-UA base word (Table 8-10). -/
def uaWord (x : Bool) (op : Nat) (d a b : BitVec 6) (fn ty : Nat) : W32 :=
  1#1 ++ b1 x ++ BitVec.ofNat 6 op ++ d ++ a ++ b ++ BitVec.ofNat 3 fn ++ BitVec.ofNat 3 ty

/-- A uniform word with its 24 low bits given (R175). -/
def uniBody (x : Bool) (op : Nat) (body : BitVec 24) : W32 := 1#1 ++ b1 x ++ BitVec.ofNat 6 op ++ body

/-- QEN, QNEG and QN of a uniform extension word (Table 8-10a). -/
def qgovBits : Option QGov → BitVec 6
  | none => 0#6
  | some g => 1#1 ++ b1 g.neg ++ g.qn

/-- A governing predicate with NOWB: bits 31:24 of a lane extension word (Table 8-3). -/
def govBits (g : Gov) (nowb : Bool) : BitVec 8 := b1 g.neg ++ g.pn ++ b1 nowb

/-- FLAG codes accepted: 0 to 11, or 15 where the use allows none. -/
def flagOk (u : FlagUse) (f : BitVec 4) : Bool :=
  match u with
  | .need => f.toNat < 12
  | .opt => f.toNat < 12 || f.toNat = 15
  | .none15 => f.toNat = 15
  | .zero => f.toNat = 0

/-- SCOPE codes accepted in a given space (R229, R260). -/
def scopeOk (u : ScopeUse) (ts : Bool) (s : BitVec 3) : Bool :=
  match u with
  | .zero => s.toNat = 0
  | .from3 => 3 ≤ s.toNat && s.toNat ≤ 6
  | .from4 => 4 ≤ s.toNat && s.toNat ≤ 6
  | .any => s.toNat ≤ 6 && (!ts || s.toNat ≤ 2)

/-- The extension word of MMA (Table 8-8a). -/
def mmaExt (o : MmaOp) : W32 :=
  o.tg ++ o.sa ++ o.sb ++ o.acc ++ b1 o.reu ++ o.gs ++ o.flag ++ o.kw ++ o.shp ++ 0#5

/-- The extension word of DRAIN (Table 8-8a). -/
def drainExt (o : DrainOp) : W32 := o.tg ++ o.sg ++ o.slot ++ o.acc ++ o.mode ++ o.flag ++ 0#9

/-- The extension word of CHAIN (Table 8-8a). -/
def chainExt (o : ChainOp) : W32 := o.rg ++ o.ng ++ o.flag ++ 0#16

/-- The extension word of VSRD and VGET (R171). -/
def predExt : Option PredExt → Option W32
  | none => none
  | some e => some (govBits e.gov e.nowb ++ 0#24)

/-- QLOG body: D, A, B, FN and TY = 0 (R175). -/
def qBody (d a b : BitVec 6) (fn : Nat) : BitVec 24 := d ++ a ++ b ++ BitVec.ofNat 3 fn ++ 0#3

/-- The place of each instruction in the opcode maps (Tables 8-8, 8-9, 8-11, 8-12); `event` where no word is one. -/
def form : Instr → Form
  | .vadd ty o => .la 1 (ity ty) { k0 := true, k1 := true, pat := true, sat := true } o
  | .vsub ty o => .la 2 (ity ty) { k0 := true, k1 := true, pat := true, sat := true } o
  | .vmul ty o => .la 3 (ity ty) { k0 := true, k1 := true, pat := true, sat := true } o
  | .vmulh ty o => .la 4 (ity ty) { k0 := true, k1 := true, pat := true } o
  | .vmad ty o => .la 5 (ity ty) { need := true, k0 := true, useC := true, pat := true, sat := true } o
  | .vmin ty o => .la 6 (ity ty) { k0 := true, k1 := true, pat := true } o
  | .vmax ty o => .la 7 (ity ty) { k0 := true, k1 := true, pat := true } o
  | .vabs ty o => .la 8 (ity ty) { k0 := true, useB := false, pat := true, sat := true } o
  | .vand ty o => .la 9 (ity ty) { k0 := true, k1 := true, pat := true } o
  | .vor ty o => .la 10 (ity ty) { k0 := true, k1 := true, pat := true } o
  | .vxor ty o => .la 11 (ity ty) { k0 := true, k1 := true, pat := true } o
  | .vnot ty o => .la 12 (ity ty) { k0 := true, useB := false, pat := true } o
  | .vshl ty o => .la 13 (ity ty) { k0 := true, k1 := true, pat := true } o
  | .vshr ty o => .la 14 (ity ty) { k0 := true, k1 := true, pat := true } o
  | .vbfx ty o => .la 15 (ity ty) { k0 := true, k1 := true, pat := true } o
  | .vbfi ty o => .la 16 (ity ty) { k0 := true, k1 := true, pat := true } o
  | .vclz ty o => .la 17 (ity ty) { k0 := true, useB := false, pat := true } o
  | .vpopc ty o => .la 18 (ity ty) { k0 := true, useB := false, pat := true } o
  | .vmov o => .la 19 0 { k0 := true, useB := false, pat := true } o
  | .vmovImm o => .la 19 1 { need := true, k1 := true, useA := false, useB := false } o
  | .vmovh o => .la 19 2 { need := true, k1 := true, useA := false, useB := false, immTop := 10 } o
  | .vsel o => .la 20 0 { need := true, k0 := true, useC := true, pat := true } o
  | .vcmp cond o => .la 21 (vcond cond) { k0 := true, k1 := true, pat := true, nowb := false, dpred := true } o
  | .fcmp cond o => .la 22 (fcond cond) { k0 := true, pat := true, nowb := false, dpred := true } o
  | .pand o => .la 23 0 { k0 := true, nowb := false, dpred := true } o
  | .por o => .la 23 1 { k0 := true, nowb := false, dpred := true } o
  | .pxor o => .la 23 2 { k0 := true, nowb := false, dpred := true } o
  | .pmov o => .la 23 3 { k0 := true, useB := false, nowb := false, dpred := true } o
  | .fadd ty o => .la 24 (fty ty) { k0 := true, k1 := true, pat := true, sat := true, rm := .mode, immTop := fimm ty } o
  | .fsub ty o => .la 25 (fty ty) { k0 := true, k1 := true, pat := true, sat := true, rm := .mode, immTop := fimm ty } o
  | .fmul ty o => .la 26 (fty ty) { k0 := true, k1 := true, pat := true, sat := true, rm := .mode, immTop := fimm ty } o
  | .ffma ty o => .la 27 (fty ty) { need := true, k0 := true, useC := true, pat := true, sat := true, rm := .mode } o
  | .fmin ty o => .la 28 (fty ty) { k0 := true, k1 := true, pat := true, immTop := fimm ty } o
  | .fmax ty o => .la 29 (fty ty) { k0 := true, k1 := true, pat := true, immTop := fimm ty } o
  | .fneg ty o => .la 30 (fty ty) { k0 := true, useB := false, pat := true } o
  | .fabs ty o => .la 31 (fty ty) { k0 := true, useB := false, pat := true } o
  | .vrcp o => .la 32 0 { k0 := true, useB := false, pat := true } o
  | .vrsq o => .la 32 1 { k0 := true, useB := false, pat := true } o
  | .vsqrt o => .la 32 2 { k0 := true, useB := false, pat := true } o
  | .vexp2 o => .la 32 3 { k0 := true, useB := false, pat := true } o
  | .vlog2 o => .la 32 4 { k0 := true, useB := false, pat := true } o
  | .vsin o => .la 32 5 { k0 := true, useB := false, pat := true } o
  | .vcos o => .la 32 6 { k0 := true, useB := false, pat := true } o
  | .vtanh o => .la 32 7 { k0 := true, useB := false, pat := true } o
  | .smxStep o => .la 33 0 { need := true, k0 := true, useC := true, pat := true, nowb := false } o
  | .cvt o => .la 34 0 { need := true, k2 := true, sat := true, rm := .mode } o
  | .qntDiv o => .la 35 0 { need := true, k0 := true, useC := true, pat := true, rm := .slot } o
  | .qntMul o => .la 35 1 { need := true, k0 := true, useC := true, pat := true, rm := .slot } o
  | .pack w o => .la 36 (ewid w) { need := true, k1 := true, useB := false, immTop := 3 } o
  | .unpk w o => .la 37 (ewid w) { need := true, k1 := true, useB := false, immTop := 3 } o
  | .dot toI32 o => .la 38 (b3 toI32) { need := true, k0 := true, useC := true, pat := true, rm := .slot } o
  | .xrd k o => .la 39 (xrdk k) { k0 := true, k1 := true } o
  | .xred op o => .la 40 (xredop op) { k0 := true, useB := false } o
  | .voteAny o => .la 41 0 { k0 := true, useB := false, nowb := false, dpred := true } o
  | .voteAll o => .la 41 1 { k0 := true, useB := false, nowb := false, dpred := true } o
  | .voteBallot o => .la 41 2 { k0 := true, useB := false } o
  | .ld sz o => .lm 48 (ldsz sz) none { ords := [.plain, .acquire] } o
  | .st sz o => .lm 49 (stsz sz) none { ords := [.plain, .release], flag := .opt } o
  | .ldg words o => .lm 50 words.toNat none { sp1 := false, ords := [.plain, .acquire], bPred := true } o
  | .stg words o => .lm 51 words.toNat none { sp1 := false, ords := [.plain, .release], flag := .opt, bPred := true } o
  | .lds sz o => .lm 52 (stsz sz) none { sp1 := false, ords := [.plain, .acquire], a := .reg, scope := .from4, off := false } o
  | .atom op ty o => .lm 53 (atomop op) (some (aty ty)) { ords := [.plain, .acquire, .release, .acqRel], aty := true } o
  | .red op ty o => .lm 54 (redop op) (some (aty ty)) { ords := [.plain, .release], flag := .opt, useD := false, aty := true } o
  | .waitadd ty o => .lm 55 0 (some (aty ty)) { sp1 := false, ords := [.plain, .acquire, .release, .acqRel], aty := true } o
  | .waitw cond ty o => .lm 56 (wcond cond) (some (aty ty)) { sp1 := false, ords := [.plain], flag := .none15, useD := false, aty := true } o
  | .cctlUnpin o => .lm 57 0 none { sp1 := false, ords := [.plain], flag := .opt, useD := false } o
  | .cctlPin o => .lm 57 1 none { sp1 := false, ords := [.plain], flag := .opt, useD := false } o
  | .cctlEvict o => .lm 57 2 none { sp1 := false, ords := [.plain], flag := .opt, useD := false } o
  | .cctlPrefetch o => .lm 57 3 none { sp1 := false, ords := [.plain], flag := .opt, useD := false } o
  | .mbarInit o => .lm 59 0 none { sp0 := false, ords := [.plain], flag := .opt, useD := false, a := .zero } o
  | .mbarExp o => .lm 59 1 none { sp0 := false, ords := [.plain], flag := .opt, useD := false, a := .zero } o
  | .mbarWait o => .lm 59 2 none { sp0 := false, ords := [.plain], flag := .none15, useD := false, a := .zero } o
  | .mbarArv o => .lm 59 3 none { sp0 := false, ords := [.plain], flag := .opt, useD := false, a := .zero } o
  | .seqRes o => .lm 62 0 none { sp1 := false, ords := [.plain], a := .zero, scope := .zero, off := false } o
  | .seqCmt o => .lm 62 1 none { sp1 := false, ords := [.release], useD := false, a := .reg, scope := .from3, off := false } o
  | .uadd ty o => .ua 0 0 (uty ty) {} o
  | .usub ty o => .ua 0 1 (uty ty) {} o
  | .umul ty o => .ua 0 2 (uty ty) {} o
  | .umulh ty o => .ua 0 3 (uty ty) {} o
  | .udiv ty o => .ua 0 4 (uty ty) {} o
  | .urem ty o => .ua 0 5 (uty ty) {} o
  | .umin ty o => .ua 0 6 (uty ty) {} o
  | .umax ty o => .ua 0 7 (uty ty) {} o
  | .uand ty o => .ua 1 0 (uty ty) {} o
  | .uor ty o => .ua 1 1 (uty ty) {} o
  | .uxor ty o => .ua 1 2 (uty ty) {} o
  | .uandn ty o => .ua 1 3 (uty ty) {} o
  | .unot ty o => .ua 1 4 (uty ty) { ext := .pred, useB := false } o
  | .uclz ty o => .ua 1 5 (uty ty) { ext := .pred, useB := false } o
  | .upopc ty o => .ua 1 6 (uty ty) { ext := .pred, useB := false } o
  | .ushl ty o => .ua 2 0 (uty ty) {} o
  | .ushr ty o => .ua 2 1 (uty ty) {} o
  | .usar ty o => .ua 2 2 (uty ty) {} o
  | .urot ty o => .ua 2 3 (uty ty) {} o
  | .ubfx ty o => .ua 2 4 (uty ty) {} o
  | .ubfi ty o => .ua 2 5 (uty ty) {} o
  | .umov o => .ua 3 0 0 { ext := .pred, useB := false } o
  | .umovi ty o => .ua 3 1 (uty ty) { ext := .imm, useA := false, useB := false } o
  | .umovk o => .ua 3 2 0 { ext := .imm, useA := false, useB := false, immTop := 18 } o
  | .usel o => .ua 3 3 0 { ext := .sel } o
  | .uadr o => .ua 3 4 0 { ext := .imm, useA := false, useB := false } o
  | .ucmp cond ty o => .ua 4 (ucond cond) (uty ty) { dq := true } o  | .vsrd d num ext => .words (laneBody ext.isSome 0x2A (d ++ num ++ 0#9)) (predExt ext) true
  | .vget d g hi ext => .words (laneBody ext.isSome 0x2B (d ++ 0#1 ++ g ++ 0#9 ++ b1 hi)) (predExt ext) true
  | .rep cnt ds sa sb sc => .words (laneBody false 0x2C (cnt ++ ds ++ sa ++ sb ++ sc ++ 0#6)) none true
  | .br neg pn off => .words (laneBody false 0x2D (b1 neg ++ pn ++ off)) none true
  | .bar k => .words (laneBody false 0x3A (0#2 ++ k ++ 0#17)) none true
  | .barArv k => .words (laneBody false 0x3A (0#2 ++ k ++ 0#14 ++ 1#3)) none true
  | .barCnt k b => .words (laneBody false 0x3A (0#2 ++ k ++ 0#7 ++ b ++ 2#3)) none true
  | .fenceAcq s => .words (laneBody false 0x3C (0#4 ++ s ++ 0#17)) none (s ≠ 7#3)
  | .fenceRel s => .words (laneBody false 0x3C (0#4 ++ s ++ 0#14 ++ 1#3)) none (s ≠ 7#3)
  | .fenceAr s => .words (laneBody false 0x3C (0#4 ++ s ++ 0#14 ++ 2#3)) none (s ≠ 7#3)
  | .fenceFull s => .words (laneBody false 0x3C (0#4 ++ s ++ 0#14 ++ 3#3)) none (s ≠ 7#3)
  | .tryL ww off => .words (laneBody false 0x3D (0#1 ++ b1 ww ++ 0#2 ++ off ++ 0#3)) none true
  | .tryG tt ww off => .words (laneBody false 0x3D (b1 tt ++ b1 ww ++ 0#2 ++ off ++ 1#3)) none true
  | .commitL s => .words (laneBody false 0x3D (0#4 ++ s ++ 0#14 ++ 2#3)) none (s ≠ 7#3)
  | .commitG s => .words (laneBody false 0x3D (0#4 ++ s ++ 0#14 ++ 3#3)) none (s ≠ 7#3)
  | .abort imm => .words (laneBody false 0x3D (imm ++ 0#13 ++ 4#3)) none true
  | .tstat d => .words (laneBody false 0x3D (d ++ 0#14 ++ 5#3)) none true
  | .tbufRead d a => .words (laneBody false 0x3D (d ++ a ++ 0#7 ++ 6#3)) none true
  | .mma o => .words (laWord true 0x3F 0#7 o.a 0#7 0) (some (mmaExt o)) (o.shp.toNat < 3 && flagOk .opt o.flag)
  | .aclr acc => .words (laWord false 0x3F (0#5 ++ acc) 0#7 0#7 1) none true
  | .drain o => .words (laWord true 0x3F (0#4 ++ o.row0) o.units 0#7 2) (some (drainExt o))
      (o.mode ≠ 3#2 && flagOk .opt o.flag)
  | .chain o => .words (laWord true 0x3F 0#7 0#7 0#7 3) (some (chainExt o)) (flagOk .opt o.flag)
  | .qand d a b q => .uq 5 (qBody d a b 0) (d.toNat < 16 && a.toNat < 32 && b.toNat < 32) q
  | .qor d a b q => .uq 5 (qBody d a b 1) (d.toNat < 16 && a.toNat < 32 && b.toNat < 32) q
  | .qxor d a b q => .uq 5 (qBody d a b 2) (d.toNat < 16 && a.toNat < 32 && b.toNat < 32) q
  | .qmov d a b q => .uq 5 (qBody d a b 3) (d.toNat < 16 && a.toNat < 32 && b.toNat = 0) q
  | .qany d a b q => .uq 5 (qBody d a b 4) (d.toNat < 16 && b.toNat = 0) q
  | .qall d a b q => .uq 5 (qBody d a b 5) (d.toNat < 16 && b.toNat = 0) q
  | .qset d a b q => .uq 5 (qBody d a b 6) (d.toNat < 16 && a.toNat < 2 && b.toNat = 0) q
  | .uld sz d a x => .um 6 (usz sz) d a 0#6 true { ords := [.plain, .acquire], flag := .need } x
  | .ust sz d a x => .um 7 (stsz sz) d a 0#6 true { ords := [.plain, .release], flag := .opt } x
  | .bra off q => .uq 8 off true q
  | .call off q => .uq 9 off true q
  | .ret a q => .uq 10 (0#6 ++ a ++ 0#12) true q
  | .brx a x => .words (uaWord true 11 0#6 a 0#6 0 0) (some (qgovBits x.gov ++ x.toff)) true
  | .loop c off q => .uq 12 (c ++ off) true q
  | .pad label => .words (uniBody false 13 (0#8 ++ label)) none true
  | .exit q => .uq 14 0#24 true q
  | .nop q => .uq 15 0#24 true q
  | .srd d num q => .uq 16 (d ++ num ++ 0#10) true q
  | .swr a num q => .uq 17 (a ++ num ++ 0#10) true q
  | .ugetl d v lane q => .uq 18 (d ++ v ++ lane ++ 0#4) true q
  | .ralloc n q => .uq 19 (n ++ 0#20) true q
  | .rfree n q => .uq 20 (n ++ 0#20) true q
  | .gang a q => .uq 21 (0#6 ++ a ++ 0#12) true q
  | .launch d a q => .uq 22 (d ++ a ++ 0#12) true q
  | .tsync q => .uq 23 0#24 true q
  | .yield q => .uq 24 0#24 true q
  | .sleep ns q => .uq 25 (ns ++ 0#6) true q
  | .trap imm q => .uq 26 (imm ++ 0#16) true q
  | .eret => .words (uniBody false 27 0#24) none true
  | .tileAlloc d a b q => .uq 28 (qBody d a b 0) true q
  | .tileFind d a q => .uq 28 (qBody d a 0#6 1) true q
  | .tileInv d a q => .uq 28 (qBody d a 0#6 2) true q
  | .tileRel d a q => .uq 28 (qBody d a 0#6 3) true q
  | .tileStat d a q => .uq 28 (qBody d a 0#6 4) true q
  | .rqKick a b q => .uq 29 (qBody 0#6 a b 0) true q
  | .seqBind d a x => .um 30 0 d a 0#6 (d.toNat < 8) { ords := [.plain], flag := .zero, scope := .from4, off := false } x
  | .seqLen d a x => .um 30 1 d a 0#6 true { ords := [.plain], flag := .zero, scope := .from4, off := false } x
  | .seqFork d a b x => .um 30 2 d a b true { ords := [.plain], flag := .zero, scope := .from4, off := false } x
  | .seqDrop d a x => .um 30 3 d a 0#6 true { ords := [.plain], flag := .zero, scope := .from4, off := false } x
  | _ => .event

/-- True of the constructors that stand for instructions, false of the steps of other agents. -/
def isProgram (i : Instr) : Bool :=
  match form i with
  | .event => false
  | _ => true

end Sys2Proof.Machine
end

