-- ==== Sys2Proof/Machine/Assoc.lean ====
section
/-!
DEFINITION. Sparse maps as sorted association lists, and memory as such a list of bytes: keys strictly rising and no
entry equal to what an unlisted key reads as, so that equal maps are equal lists.
-/
namespace Sys2Proof.Machine

/-- The value at key k, or d where the list has none. -/
def aget {α : Type} (d : α) : List (Nat × α) → Nat → α
  | [], _ => d
  | (k, v) :: rest, i => if i = k then v else aget d rest i

/-- The value at key k, if listed. -/
def afind {α : Type} : List (Nat × α) → Nat → Option α
  | [], _ => none
  | (k, v) :: rest, i => if i = k then some v else afind rest i

/-- The list without key i. -/
def aerase {α : Type} (m : List (Nat × α)) (i : Nat) : List (Nat × α) := m.filter fun x => x.1 ≠ i

/-- The list with v at key i, in key order. -/
def aput {α : Type} : List (Nat × α) → Nat → α → List (Nat × α)
  | [], i, x => [(i, x)]
  | (k, v) :: rest, i, x =>
    if i < k then (i, x) :: (k, v) :: rest
    else if i = k then (i, x) :: rest
    else (k, v) :: aput rest i x

/-- The list with v at key i, or with no entry there when v is the default d. -/
def aset {α : Type} [DecidableEq α] (d : α) (m : List (Nat × α)) (i : Nat) (x : α) : List (Nat × α) :=
  if x = d then aerase m i else aput m i x

/-- What a byte of memory that nothing has written reads as: 0 (DESIGN CHOICE, log 1). -/
def emptyByte : Byte := 0#8

/-- Memory: the listed bytes by address. -/
abbrev Mem := List Host.Cell

/-- The byte at an address. -/
def memByte (m : Mem) (a : Nat) : Byte := aget emptyByte m a

/-- Memory with byte b at address a. -/
def memPut (m : Mem) (a : Nat) (b : Byte) : Mem := aset emptyByte m a b

/-- n bytes from address a. -/
def memBytes (m : Mem) (a n : Nat) : List Byte := (List.range n).map fun k => memByte m (a + k)

/-- Memory with a byte string written from address a. -/
def memWrite : Mem → Nat → List Byte → Mem
  | m, _, [] => m
  | m, a, b :: bs => memWrite (memPut m a b) (a + 1) bs

/-- The little-endian value of n bytes from address a (R4). -/
def memVal (m : Mem) (a n : Nat) : Nat := leVal (memBytes m a n)

/-- Memory with the low n bytes of v written from address a (R4). -/
def memWriteVal (m : Mem) (a n v : Nat) : Mem := memWrite m a (bytesOf n v)

/-- Every key of a list is above k. -/
def keysAbove {α : Type} (k : Nat) : List (Nat × α) → Bool
  | [] => true
  | (i, _) :: rest => decide (k < i) && keysAbove k rest

/-- The canonical form: keys strictly rising and no entry equal to the default. -/
def mapWf {α : Type} [DecidableEq α] (d : α) : List (Nat × α) → Bool
  | [] => true
  | (k, v) :: rest => decide (v ≠ d) && keysAbove k rest && mapWf d rest

/-- Memory is in its canonical form. -/
def Memory.wf (m : Mem) : Bool := mapWf emptyByte m

end Sys2Proof.Machine
end

