-- ==== Sys2Proof/Machine/State.lean ====
section
/-!
DEFINITION. The state of the machine as plain data: everything the manual gives a thread, a warp, a team, a core, a
cluster, a reticle, a context and the device, with the work that each agent has under way; the reasons a step can stop;
and the state after reset (INVENTORY.md, '## State').
-/
namespace Sys2Proof.Machine
open Sys2Proof

/-- A step stops the machine with a fault. No fault of the S48 stops it: each is taken as a next state, so no meaning
raises one; the constructor is safe. -/
inductive Fault
  /-- No agent can act: never raised, safe. -/
  | stuck
  deriving DecidableEq, Repr

/-- A step has no meaning. -/
inductive Refusal
  /-- The constructor of that mnemonic has no meaning yet: raised by its arm of exec, safe. -/
  | notModelled (mnemonic : String)
  deriving DecidableEq, Repr

/-- One entry of the latch stack: 64 bits per lane, the aclk of its producer's issue and its latency (R81, R82). -/
structure Latch where
  vals : List Word
  born : Nat
  lat  : Nat
  deriving DecidableEq, Repr

/-- A register write of an instruction issued whose latency has not passed (R437). -/
inductive PWrite
  | v (reg : Nat) (mask : Word) (row : List W32)
  | p (reg : Nat) (mask val : Word)
  | g (reg : Nat) (val : Word)
  | q (reg : Nat) (val : Bool)
  deriving DecidableEq, Repr

/-- A pending write and the aclk at which it takes place (R437). -/
structure Pend where
  due : Nat
  w   : PWrite
  deriving DecidableEq, Repr

/-- What a parked run waits for (R44), with the lanes still waiting where lanes wait one by one. -/
inductive Park
  | bar (k : Nat) (pc : Word)
  | watch (lanes : Word)
  | mbar (lanes : List (Nat × Nat × Nat))
  | ralloc
  | tsync (wake : Nat)
  | sleep (wake : Nat)
  | commit (g : Bool) (scope : Nat)
  deriving DecidableEq, Repr

/-- An entry of the PC table (R36): `park` is its parked bit, with what it waits for. -/
structure PcEntry where
  pc    : Word
  mask  : Word
  count : Nat := 0
  park  : Option Park := none
  deriving DecidableEq, Repr

/-- A committed-length register: its bound descriptor address, and its value (R86). -/
structure QlReg where
  desc  : Option Nat := none
  value : Word := 0#64
  deriving DecidableEq, Repr

/-- The A reuse latch of a warp: the A field and KW that loaded it and the captured operand rows (R268). -/
structure Reuse where
  a    : Nat
  kw   : Nat
  rows : List (List W32)
  deriving DecidableEq, Repr

/-- One entry of the store buffer: a lane's aligned 16-byte unit with its byte mask (R244, R250). -/
structure TxStore where
  slot  : Nat
  lane  : Nat
  ts    : Bool
  addr  : Nat
  pa    : Nat
  dev   : Nat := 0
  mask  : Nat
  data  : List Byte
  order : Nat
  deriving DecidableEq, Repr

/-- One entry of the read set: a lane's 16-byte unit, the bytes read and their values (R244). -/
structure TxRead where
  lane : Nat
  addr : Nat
  pa   : Nat
  dev  : Nat := 0
  mask : Nat
  data : List Byte
  deriving DecidableEq, Repr

/-- The open TRY instance of a warp (R243 to R247). `inst` holds the lanes with which it opened; `byG` says that its ending COMMIT is
COMMIT.G, and `leases` lists the lines that slices have leased to it, with the aclk of each grant. -/
structure Tx where
  global  : Bool
  tt      : Bool
  ww      : Bool
  target  : Word
  depth   : List (Nat × Nat)
  ckV     : List (Nat × List W32)
  ckP     : List (Nat × Word)
  ckG     : List (Nat × Word)
  ckQ     : BitVec 16
  ckQl    : List QlReg
  opened  : Nat
  stores  : List TxStore := []
  reads   : List TxRead := []
  order   : Nat := 0
  held    : Bool := false
  reached : Word := 0#64
  scope   : Nat := 0
  leaseAt : Option Nat := none
  endPc   : Word := 0#64
  inst    : Word := 0#64
  byG     : Bool := false
  leases  : List (Nat × Nat) := []
  deriving DecidableEq, Repr

/-- A cause of one lane with its address and syndrome. -/
structure LaneCause where
  lane  : Nat
  cause : Nat
  addr  : Option Nat := none
  syn   : Word := 0#64
  deriving DecidableEq, Repr

/-- A fault detected and not yet taken (R344 to R346): the instruction, the lanes with their causes, where they resume
(0: where they stand), %PIX, the ENGINE value, and the SEQ and TIME that its record takes at detection (R348, R349). -/
structure Detected where
  pc       : Word
  lanes    : List LaneCause
  deferred : Bool := false
  resume   : Word := 0#64
  pix      : W32 := 0#32
  engine   : Nat := 0
  seq      : Nat := 0
  time     : Nat := 0
  deriving DecidableEq, Repr

/-- Handler mode of a warp: F, the handler's runs, the frame's number, how many latches it recorded, HELD, the frame's
PIX, `holds` as in Warp, and whether the held instance has aborted since (R353, R354). The frozen table is the warp's `pcs`; the handler starts as one run, and a lane branch may split it (log 11). -/
structure Handler where
  f     : Word
  runs  : List PcEntry
  holds : List (Nat × Word) := []
  frame : Nat
  depth : Nat
  held  : Bool
  pix   : W32
  gone  : Bool := false
  deriving DecidableEq, Repr

/-- One entry of the undo log: what an issued instruction replaced (R432). -/
structure Undo where
  pc    : Word
  regs  : List PWrite
  latch : Option (List Latch)
  pcs   : List PcEntry
  seed  : Word
  mark  : Bool := false
  deriving DecidableEq, Repr

/-- A walk that a warp waits for (R117, R344): the page, the address, lane and PC that its record names, whether a missing
page is only reported back (LDG, STG), whether it waits at a full fault queue, where it keeps its walker (R398), and the time of its
miss. -/
structure WalkReq where
  page    : Nat
  va      : Word
  lane    : Nat
  pc      : Word
  guarded : Bool := false
  exec    : Bool := false
  waits   : Bool := false
  since   : Nat := 0
  deriving DecidableEq, Repr

/-- The instruction being issued: its core, port, warp, packet and slot, the packet's words, and the run's mask (R69,
R156). `held` says that it proved not eligible at this opportunity (R74, R386), so that it has not issued; `early` that
stages 1 to 3 ended it before its effect (Table 21-1). -/
structure Cur where
  core   : Nat := 0
  port   : Nat := 0
  warp   : Nat := 0
  pkt    : Word := 0#64
  slot   : Nat := 0
  ctl    : W32 := 0#32
  slots  : List W32 := [0#32, 0#32, 0#32]
  mask   : Word := 0#64
  inHandler : Bool := false
  held   : Bool := false
  early  : Bool := false
  deriving DecidableEq, Repr

/-- What one iteration of a REP leaves: its writes, the latches, and the generator (R172). -/
structure RepStep where
  pends   : List Pend
  latches : List Latch
  seed    : Word
  deriving DecidableEq, Repr

/-- A REP and its target under way, or stopped between iterations (R227): where it stands, the aclk at which iteration `first` of its `n`
issues, its lanes and the lanes that a cause keeps at it, what each iteration from `first` on leaves, and whether a stop has left it in
flight (R300). -/
structure RepRun where
  cur     : Cur
  act     : Word
  keep    : Word
  start   : Nat
  first   : Nat
  n       : Nat
  steps   : List RepStep
  stopped : Bool := false
  deriving DecidableEq, Repr

/-- The state of a warp whose team is resident or saved (chapter 4, R55). `holds` lists the requests that class H instructions wait
for without being parked, each with the lanes that it holds (R176); `pktPorts` the packets that a run has begun, with their ports
(R69); `pixPc` is the instruction that %PIX was reinstated for (R354); `coldFor` is the piece of cold text that its BRX waits for (R325); `walked` holds the leaves that its walks have brought, by page, until it issues
(R117).
`early` is the model's own mark: the instruction that it would issue ends in stages 1 to 3, and claims no tokens (Table
21-1, R287). -/
structure Warp where
  team      : Nat := 0
  wid       : Nat := 0
  lanes     : Word := 0#64
  blocks    : Nat := 1
  launched  : Nat := 1
  v         : List (Nat × List W32) := []
  p         : List (Nat × Word) := []
  g         : List (Nat × Word) := []
  q         : BitVec 16 := 0#16
  flags     : List (Nat × Nat) := []
  fs        : List Word := []
  ql        : List QlReg := []
  pcs       : List PcEntry := []
  holds     : List (Nat × Word) := []
  gang      : W32 := 0#32
  pix       : W32 := 0#32
  pixPc     : Word := 0#64
  rep       : Option RepRun := none
  seed      : Word := 0#64
  native    : Bool := true
  pend      : List Pend := []
  latches   : List Latch := []
  passed    : Nat := 0
  wpass     : Nat := 0
  claimAt   : Option Nat := none
  standing  : Bool := false
  early     : Bool := false
  queued    : Bool := false
  lastIssue : Option Nat := none
  pktPorts  : List (Word × Nat) := []
  since     : Nat := 0
  tx        : Option Tx := none
  tstat     : List (Nat × W32) := []
  txAborts  : Nat := 0
  reuse     : Option Reuse := none
  handler   : Option Handler := none
  detected  : List Detected := []
  walks     : List WalkReq := []
  walkBad   : List (Nat × Nat × Word) := []
  coldFor   : Option Nat := none
  walked    : List (Nat × Word) := []
  undo      : List Undo := []
  undoLost  : Bool := false
  exited    : Bool := false
  deriving DecidableEq, Repr

/-- A rendezvous point of a team (R46, R240, R304); `fixer` gives the aclk and the warp of the instruction that fixed the phase's
count. -/
structure BarPoint where
  phase  : Nat := 0
  count  : Option (Nat × Bool) := none
  fixer  : Option (Nat × Nat) := none
  marked : List (Nat × Word) := []
  deriving DecidableEq, Repr

/-- An MMA held in a gang's rendezvous latch (R42, R303); `units` counts its row groups that are complete (R269, R354). -/
structure Held where
  wid   : Nat
  op    : MmaOp
  tile  : Nat
  rows  : List (List W32)
  at_   : Nat
  pc    : Word
  run   : Word
  units : Nat := 0
  deriving DecidableEq, Repr

/-- What an access does (chapter 11). -/
inductive AccKind
  | load (signed : Bool)
  | store
  | ldg (ps : Nat)
  | stg (ps : Nat)
  | lds
  | atom (op : AtomOp) (ty : Aty)
  | red (op : RedOp) (ty : Aty)
  | waitadd (ty : Aty)
  | waitw (c : WaitCond) (ty : Aty)
  | cctl (op : Nat)
  | mbar (op : Nat)
  | uload (signed : Bool)
  | ustore
  | seqRes
  | seqCmt
  deriving DecidableEq, Repr

/-- One lane's part of an access: its virtual address, the physical address of each of its parts, the device and the page
attributes, its operands, and its result. `wait` marks a part in the
fault queue, `sent` a remote or held part, `done` a part that has taken effect, `mute` one whose result is discarded. -/
structure LaneAcc where
  lane  : Nat
  va    : Word := 0#64
  pas   : List Nat := []
  dev   : Nat := 0
  uc    : Bool := false
  prop  : Bool := false
  hint  : Nat := 0
  ok    : Bool := true
  data  : List Byte := []
  data2 : List Byte := []
  res   : List Byte := []
  stat  : Nat := 0
  live  : Bool := true
  wait  : Bool := false
  sent  : Bool := false
  done  : Bool := false
  mute  : Bool := false
  deriving DecidableEq, Repr

/-- An outstanding variable-latency access of a warp (R142, R229, R301); `stopped` marks an LDG or STG whose remaining lanes a stop holds
back until it is charged again (R233, R300), `inTx` its lanes that were in the open region as it issued (R244). -/
structure Acc where
  id     : Nat
  warp   : Nat
  kind   : AccKind
  ts     : Bool := false
  bytes  : Nat := 4
  ord    : Ord := .plain
  scope  : Nat := 0
  hint   : Hint := .none
  flag   : Option Nat := none
  dst    : Nat := 0
  pc     : Word := 0#64
  issued : Nat := 0
  lanes  : List LaneAcc := []
  cap    : Nat := 120
  run    : Word := 0#64
  merged : Bool := false
  tag    : Option Nat := none
  counted : Bool := true
  stopped : Bool := false
  inTx   : Word := 0#64
  deriving DecidableEq, Repr

/-- A waiter registered on a word (R239): the access's warp, lane, address, condition and value; `poll` is the next re-read of
one that the full list did not take, `tag` the request of one registered at another device (R323). -/
structure Watch where
  id    : Nat
  warp  : Nat
  lane  : Nat
  pa    : Nat
  bytes : Nat
  cond  : WaitCond
  ty    : Aty
  value : Nat
  poll  : Option Nat := none
  tag   : Option Nat := none
  dev   : Nat := 0
  deriving DecidableEq, Repr

/-- A port of a core (R69, R72, R73): the warp last issued, a bind, a packet hold, the run of bound packets, and the warp that ranks
last at the next issue opportunity. -/
structure Port where
  last    : Option Nat := none
  bound   : Option Nat := none
  boundAt : Nat := 0
  nbound  : Nat := 0
  hold    : Option Nat := none
  holdAt  : Nat := 0
  holdPkt : Word := 0#64
  picked  : Option Nat := none
  yielded : Option Nat := none
  deriving DecidableEq, Repr

/-- An instruction of the matrix queue (R262). -/
inductive MxWork
  | mma (op : MmaOp) (members : List Held) (tile : Nat) (next : Nat)
  | aclr (acc : Nat)
  | drain (op : DrainOp) (tile : Nat) (scales : Nat)
  deriving DecidableEq, Repr

/-- An entry of the matrix queue with its team, issuing warp, PC and run. -/
structure MxItem where
  team : Nat
  warp : Nat
  pc   : Word
  run  : Word
  work : MxWork
  seed : Word := 0#64
  flag : Option Nat := none
  deriving DecidableEq, Repr

/-- A request of the request engine (R274 to R280): `kicked` is its index in its kick, `off` where its record stood, `state` 0
queued, 1 started, 2 accepted, 3 delivering; `next` counts what it has moved, `got` holds the map or the source that it has
read, `failed` that a delivery of it failed, `waits` the missing page that it last met. -/
structure Req where
  id     : Nat
  team   : Nat
  warp   : Nat
  pc     : Word
  run    : Word
  bytes  : List Byte
  cores  : List Nat := []
  state  : Nat := 0
  flag   : Option Nat := none
  kicked : Nat := 0
  off    : Nat := 0
  next   : Nat := 0
  got    : List Byte := []
  failed : Bool := false
  since  : Nat := 0
  waits  : Option Nat := none
  deriving DecidableEq, Repr

/-- A multicast delivery that has reached, or waits at, a destination core (R278). -/
structure Delivery where
  id    : Nat
  req   : Nat
  ctx   : Nat
  grid  : Nat
  tag   : Nat
  doff  : Nat
  data  : List Byte
  home  : Nat
  since : Nat
  told  : Bool := false
  deriving DecidableEq, Repr

/-- A running CHAIN (R281 to R283); `claim` is the aclk at which it first claimed tokens for its present unit, `wpass` its pass count. -/
structure Chain where
  id    : Nat
  team  : Nat
  warp  : Nat
  pc    : Word
  run   : Word
  port  : Nat
  bytes : List Byte
  count : Nat
  next  : Nat := 0
  flag  : Option Nat := none
  seed  : Word := 0#64
  paid  : Nat := 1024
  since : Nat := 0
  claim : Option Nat := none
  wpass : Nat := 0
  deriving DecidableEq, Repr

/-- A pending RALLOC (R67). -/
structure AllocReq where
  warp : Nat
  n    : Nat
  run  : Word
  age  : Nat
  deriving DecidableEq, Repr

/-- Where a team stands (R29, R299, R309). An exited team holds its resources until its engine work is done (R63), and a released
one is counted on its core until its stores have performed (R62). -/
inductive TeamStatus | resident | saving | saved | restoring | exited | released
  deriving DecidableEq, Repr

/-- A team (R29 to R31, R299, R303). The images hold what a save takes off the core (Table 14-3): accumulators, tile entries,
matrix and chain work, requests, RALLOC requests and waiters. `spoiled` names the tile entries that a failed writing or evicting request
has left while others are still on them (R403); `movedAt` is the time of its last move by firmware (R297). -/
structure Team where
  ctx      : Nat := 0
  grid     : Nat := 0
  index    : Nat := 0
  core     : Nat := 0
  place    : Nat := 0
  nwarps   : Nat := 1
  tileb    : Nat := 0
  tile     : Mem := []
  bars     : List BarPoint := []
  latch    : List Held := []
  accs     : List Nat := []
  entries  : List Nat := []
  status   : TeamStatus := .resident
  savedAt  : Nat := 0
  issueAt  : Nat := 0
  age      : Nat := 0
  accImage : List (Nat × List (Nat × W32)) := []
  tabImage : List (Nat × BitVec 128) := []
  spoiled  : List Nat := []
  mxImage  : List MxItem := []
  chImage  : List Chain := []
  rqImage  : List Req := []
  raImage  : List AllocReq := []
  waImage  : List Watch := []
  reason   : Nat := 0
  movedAt  : Option Nat := none
  deriving DecidableEq, Repr

/-- A core (chapters 2 to 4, 6, 12). -/
structure Core where
  free     : Nat := 252
  emerg    : Nat := 4
  granting : Bool := false
  allocs   : List AllocReq := []
  bars     : Nat := 64
  tileFree : Nat := 1048576
  table    : List (Nat × BitVec 128) := []
  accs     : List (Nat × List (Nat × W32)) := []
  accTeam  : List (Nat × Nat) := []
  queue    : List MxItem := []
  waiting  : List MxItem := []
  reqs     : List Req := []
  delivs   : List Delivery := []
  chains   : List Chain := []
  sfuUntil : Nat := 0
  ports    : List Port := [{}, {}]
  counts   : List (Nat × Nat × Nat) := []
  failed   : Bool := false
  resets   : List Nat := []
  deriving DecidableEq, Repr

/-- A cluster: its clock, with the step in force, the step before it, and the highest permitted one, and its token pocket
(R286, R289, R293, R294). A pocket lists tokens by injection lap; `want` is the price of the reservation at the head; `droops`
counts the stretches of the control interval. -/
structure Cluster where
  freq     : Nat := 8
  prev     : Nat := 8
  stopEnd  : Option Nat := none
  stretch  : Bool := false
  phase    : Nat := 0
  aclk     : Nat := 0
  pocket   : List (Nat × Nat) := []
  held     : Nat := 0
  want     : Nat := 0
  resv     : List Nat := []
  prices   : List (Nat × Nat) := []
  droops   : Nat := 0
  permit   : Nat := 15
  deriving DecidableEq, Repr

/-- A reticle: its ring and power controller (R285, R291, R292), and its home-hint table (R125). `lapInj` is what the present lap injected, `spares` the tokens
that travel on by lap; `spent` and `resided` hold each context's tokens and warp time of the energy period (R296), `hot` the consecutive control intervals in which
the thermal rate was below half the base limit (R297). -/
structure Reticle where
  inj       : Nat := 1600
  base      : Nat := 1600
  boost     : Nat := 0
  thermal   : Nat := 2550
  current   : Nat := 2550
  tripAt    : Option Nat := none
  belowAt   : Option Nat := none
  spares    : List (Nat × Nat) := []
  lapInj    : Nat := 0
  spent     : List (Nat × Nat) := []
  resided   : List (Nat × Nat) := []
  hints     : List (Nat × Nat) := []
  hot       : Nat := 0
  deriving DecidableEq, Repr

/-- A queue of a context (Table 15-3). -/
structure Queue where
  ring    : Word := 0#64
  log2n   : Nat := 4
  prio    : Nat := 0
  enable  : Bool := false
  stopped : Bool := false
  write   : Nat := 0
  read    : Nat := 0
  held    : List Nat := []
  pending : List (List Byte × Nat) := []
  lastGrid : Option Nat := none
  deriving DecidableEq, Repr

/-- A grid: its record, parent, counts and watchdog (R27, R33, R57, R64, R412). `src` is the queue, or 32 for LAUNCH; `after` names
the accesses of the launching team that its LAUNCH follows (R66, Table 7-5). -/
structure Grid where
  entry    : Nat
  serial   : Nat
  record   : List Byte
  src      : Nat := 0
  parent   : Option Nat := none
  depth    : Nat := 1
  prio     : Nat := 0
  started  : Bool := false
  retired  : Bool := false
  next     : Nat := 0
  cores    : List (Nat × Nat) := []
  children : Nat := 0
  deps     : List Bool := [false, false]
  dog      : Nat := 0
  seqNo    : Nat := 0
  after    : List Nat := []
  deriving DecidableEq, Repr

/-- An error record (Table 19-1). -/
structure Record where
  seq    : Nat := 0
  time   : Nat := 0
  cause  : Nat := 0
  sev    : Nat := 0
  action : Nat := 0
  flags  : Nat := 0
  engine : Nat := 0
  ctx    : Nat := 0xFF
  warp   : Nat := 0xFF
  lane   : Nat := 0xFF
  grid   : Nat := 0xFFFF
  team   : Nat := 0xFFFFFFFFFFFFFFFF
  pc     : Nat := 0
  addr   : Nat := 0
  syn    : Word := 0#64
  deriving DecidableEq, Repr

/-- A context: its context page, queues, trap configuration, debug registers and grids (chapters 14, 15, 19, 23, 24). -/
structure Ctx where
  enabled   : Bool := false
  resident  : Bool := false
  faulted   : Option Nat := none
  faultRec  : Option Record := none
  faultAt   : Nat := 0
  root      : Nat := 0
  shed      : Nat := 0
  shedsz    : Nat := 0
  invva     : Nat := 0
  invlen    : Nat := 0
  invBusy   : Bool := false
  invCount  : Nat := 0
  invAt     : Nat := 0
  invMark   : Nat := 0
  share     : Word := 0#64
  queues    : List (Nat × Queue) := []
  grids     : List Grid := []
  hentry    : Nat := 0
  tarea     : Nat := 0
  tasize    : Nat := 0
  hmask     : Nat := 0
  frames    : List Nat := []
  wdlimit   : Nat := 0x3938700
  fslimit   : Nat := 0x989680
  crbase    : Nat := 0
  crlog2    : Nat := 6
  crpi      : Nat := 0
  crlost    : Nat := 0
  crLostFlag : Bool := false
  repseq    : Nat := 0
  repstat   : Nat := 0
  dbg       : List (Nat × Nat) := []
  halted    : Bool := false
  dbgBusy   : Bool := false
  dbgWhy    : Nat := 0
  dbgIndex  : Nat := 0
  dbgHalt   : Bool := false
  bpSkip    : List (Nat × Word) := []
  stepping  : Option (Nat × Nat) := none
  /-- The lanes of the run that issued the stepped instruction (R431). -/
  stepRun   : Word := 0#64
  energy    : Nat := 0
  remainder : Nat := 0
  cold      : List Nat := []
  stopped   : Bool := false
  held      : List (Nat × Nat) := []
  gen       : Nat := 0
  savedAt   : Nat := 0
  inSwitch  : Bool := false
  resume    : Bool := false
  deriving DecidableEq, Repr

/-- A TLB entry (R117): the TLB that holds it (a core's by its number, a reticle's by 2^20 and its number), its context, the first 64 KiB
page of its page, log2 of the page size, and the leaf of the table. -/
structure TlbEntry where
  unit : Nat
  ctx  : Nat
  page : Nat
  bits : Nat := 16
  leaf : Word
  deriving DecidableEq, Repr

/-- States of a directory entry (Table 6-8). -/
inductive LineState | home | shared | moving | collapsing
  deriving DecidableEq, Repr

/-- A directory entry of a placed line (R124 to R129); its immutable bit stands in State.immuts, which outlasts an
eviction (R133). A replica of a reticle keeps its slice and the bytes it serves; `own` lists the warps that the
home serves while invalidations are outstanding (R141). -/
structure Line where
  state    : LineState := .home
  home     : Nat := 0
  replicas : List (Nat × Nat × List Byte) := []
  acks     : List Nat := []
  pin      : Bool := false
  dirty    : Bool := false
  uses     : List (Nat × Nat) := []
  wrote    : Option Nat := none
  acted    : Option Nat := none
  moveTo   : Nat := 0
  defer    : List Nat := []
  own      : List Nat := []
  held     : List Nat := []
  since    : Nat := 0
  deriving DecidableEq, Repr

/-- An attached sequence and the state its sequence unit keeps (R251, R252). -/
structure Seq where
  clen    : Nat := 0
  rlen    : Nat := 0
  filled  : List Nat := []
  addrs   : List (Nat × Nat) := []
  dropped : Bool := false
  ctx     : Nat := 0
  deriving DecidableEq, Repr

/-- What a sequence request asks (R253 to R258). -/
inductive SquOp | res | cmt | len | bind | fork | drop
  deriving DecidableEq, Repr

/-- A request waiting at a sequence unit (R251). -/
structure SquReq where
  id    : Nat
  op    : SquOp
  desc  : Nat
  va    : Word
  child : Word := 0#64
  scope : Nat := 4
  warp  : Nat
  lane  : Option Nat := none
  acc   : Option Nat := none
  idx   : Nat := 0
  count : Nat := 0
  dst   : Nat := 0
  since : Nat := 0
  pc    : Word := 0#64
  run   : Word := 0#64
  told  : Bool := false
  deriving DecidableEq, Repr

/-- A page pending in the fault queue (R398). What waits for it are the lanes and walks that name it. -/
structure Page where
  ctx   : Nat
  page  : Nat
  seq   : Nat
  since : Nat
  deriving DecidableEq, Repr

/-- Folded events of one pair of ENGINE and CAUSE (R365). -/
structure Fold where
  engine : Nat
  cause  : Nat
  last   : Nat
  first  : Option Record := none
  count  : Nat := 0
  deriving DecidableEq, Repr

/-- A host port (R316, R317). -/
structure HostPort where
  up    : Bool := false
  cxl   : Bool := false
  width : Nat := 0
  pool  : Bool := true
  deriving DecidableEq, Repr

/-- A Yilesh port (R322, R407). -/
structure YlPort where
  trained : Bool := false
  lanes   : Nat := 0
  rxSeq   : Nat := 0
  fails   : Nat := 0
  ackSeq  : Nat := 0
  deriving DecidableEq, Repr

/-- An outstanding remote request (R323, R408): of a lane of the access `acc`, or of the agent that bears that number (an engine's
request, a chain, the dispatcher), which reads `n` bytes at `va`, or writes there where `n` is 0. -/
structure Remote where
  tag    : Nat
  acc    : Nat
  lane   : Nat
  dev    : Nat
  port   : Nat
  idemp  : Bool
  since  : Nat
  va     : Nat := 0
  n      : Nat := 0
  deriving DecidableEq, Repr

/-- What the owner of a word has answered to an agent that is no thread (R323): the bytes read, or the cause that ended the request. -/
structure Reply where
  who   : Nat
  va    : Nat
  data  : List Byte := []
  cause : Nat := 0
  syn   : Word := 0#64
  deriving DecidableEq, Repr

/-- A staged routing update (R411). -/
structure Routing where
  gen     : Nat := 0
  routes  : List Nat := []
  staged  : Option (Nat × List Nat) := none
  accepted : Option Nat := none
  oldGen  : Option Nat := none
  since   : Nat := 0
  deriving DecidableEq, Repr

/-- What the model has still to do in this instant (log 2): an event, an issue opportunity of a port, or an aclk of a cluster. -/
inductive Todo
  | event (i : Instr)
  | port (core port : Nat)
  | aclk (cluster : Nat)
  deriving DecidableEq, Repr

/-- The state of the device and of the work around it. -/
structure State where
  time      : Nat
  regionOff : List Int
  regionAim : List Int
  mem       : Mem
  hostMem   : Mem
  poison    : List Nat
  lines     : List (Nat × Line)
  immuts    : List Nat
  tlb       : List TlbEntry
  yardThr   : Nat
  yardWin   : Nat
  slicesOut : List Nat
  closing   : List (Nat × Nat × Nat)
  watches   : List Watch
  watchCap  : Nat
  seqs      : List (Nat × Seq)
  squ       : List SquReq
  ctxs      : List (Nat × Ctx)
  teams     : List (Nat × Team)
  warps     : List (Nat × Warp)
  accs      : List (Nat × Acc)
  cores     : List (Nat × Core)
  clusters  : List (Nat × Cluster)
  retics    : List (Nat × Reticle)
  fqueue    : List Page
  fqWait    : List (Nat × Nat × Record)
  fqFull    : Bool
  seqNext   : Nat
  folds     : List Fold
  log       : List Record
  msix      : List (Nat × Nat)
  logLost   : Nat
  logTold   : Option Nat
  devstat   : Nat
  stage     : Nat
  rstcause  : W32
  retResets : Nat
  coreResets : Nat
  drbase    : Nat
  drlog2    : Nat
  drvec     : Nat
  drpi      : Nat
  drci      : Nat
  drlost    : Nat
  drLostFlag : Bool
  dtaddr    : Nat
  dtbytes   : Nat
  dthost    : Nat
  dtDue     : Option Nat
  devnum    : Nat
  vfport    : Nat
  tslot     : Nat
  hostPorts : List (Nat × HostPort)
  ylPorts   : List (Nat × YlPort)
  routing   : Routing
  tags      : List (Nat × Nat × List Byte)
  remotes   : List Remote
  replies   : List Reply
  tree      : List (Nat × Nat)
  treeGen   : Nat
  treeAt    : Nat
  treeDirty : Bool
  treePhase : Nat
  walkersOut : List (Nat × Nat)
  linkLanes : List (Nat × Nat)
  embed     : List (Nat × Nat)
  detours   : List (Nat × Nat)
  placed    : Bool
  hbmOut    : List Nat
  hbmHot    : List Nat
  spares    : List (Nat × Nat)
  fwVersion : Nat
  identity  : Bool
  poolOver  : Option Nat
  powerAt   : Option Nat
  boostStop : Nat
  attests   : Nat
  nextId    : Nat
  freeCtr   : Nat
  cur       : Cur
  agenda    : List Todo
  promised  : List (Nat × Record)
  resetting : List (Nat × Nat)
  calledBy  : Nat
  inbox     : List (Nat × Instr)
  deriving DecidableEq, Repr

/-- The device right after reset: every field at the value the manual gives; where it gives none, the value that a log
entry names (logs 1, 2, 7, 8; a wafer without a defective part, log 35). Nothing is listed in memory and no program is loaded. -/
def State.reset : State where
  time := 0
  regionOff := List.replicate 12 0
  regionAim := List.replicate 12 0
  mem := []
  hostMem := []
  poison := []
  lines := []
  immuts := []
  tlb := []
  yardThr := 8
  yardWin := 4096
  slicesOut := []
  closing := []
  watches := []
  watchCap := 64
  seqs := []
  squ := []
  ctxs := []
  teams := []
  warps := []
  accs := []
  cores := []
  clusters := []
  retics := []
  fqueue := []
  fqWait := []
  fqFull := false
  seqNext := 1
  folds := []
  log := []
  msix := []
  logLost := 0
  logTold := none
  devstat := 0
  stage := 0
  rstcause := 0#32
  retResets := 0
  coreResets := 0
  drbase := 0
  drlog2 := 6
  drvec := 0
  drpi := 0
  drci := 0
  drlost := 0
  drLostFlag := false
  dtaddr := 0
  dtbytes := 0
  dthost := 0
  dtDue := none
  devnum := 0
  vfport := 0
  tslot := 0x3E8
  hostPorts := []
  ylPorts := []
  routing := {}
  tags := []
  remotes := []
  replies := []
  tree := []
  treeGen := 0
  treeAt := 0
  treeDirty := false
  treePhase := 0
  walkersOut := []
  linkLanes := []
  embed := []
  detours := []
  placed := false
  hbmOut := []
  hbmHot := []
  spares := []
  fwVersion := 0
  identity := true
  poolOver := none
  powerAt := none
  boostStop := 0
  attests := 0
  nextId := 1
  freeCtr := 0
  cur := {}
  agenda := []
  promised := []
  resetting := []
  calledBy := 0
  inbox := []

end Sys2Proof.Machine
end

