-- ==== Sys2Proof/Machine/Flags.lean ====
section
/-!
DEFINITION. Completion flags and conditions: the outstanding counts of f0 to f11 (R71), and the truth of the conditions of
VCMP, UCMP and WAITW on integer operands (R189, R212, R239).
-/
namespace Sys2Proof.Machine
open Sys2Proof

/-- The outstanding count of flag f (R71). -/
def flagCount (w : Warp) (f : Nat) : Nat := aget 0 w.flags f

/-- Flag f is set: its count is 0 (R71). -/
def flagSet (w : Warp) (f : Nat) : Bool := flagCount w f = 0

/-- One more outstanding instruction on flag f (R71). -/
def flagUp (w : Warp) (f : Option Nat) : Warp :=
  match f with
  | none => w
  | some f => { w with flags := aset 0 w.flags f (flagCount w f + 1) }

/-- One outstanding instruction of flag f has finished (R71). -/
def flagDown (w : Warp) (f : Option Nat) : Warp :=
  match f with
  | none => w
  | some f => { w with flags := aset 0 w.flags f (flagCount w f - 1) }

/-- An instruction that names f would take its count to 64 (R71). -/
def flagFull (w : Warp) (f : Option Nat) : Bool :=
  match f with
  | none => false
  | some f => 63 ≤ flagCount w f

/-- Every flag of a wait mask is set (R70). -/
def flagsSet (w : Warp) (mask : Nat) : Bool :=
  (List.range 12).all fun f => mask / 2 ^ f % 2 = 0 || flagSet w f

/-- The completion flag that a FLAG field names; 15 names none (R168). -/
def flagOf (f : BitVec 4) : Option Nat := if f.toNat < 12 then some f.toNat else none

/-- A VCMP condition on 32-bit operands (R212). -/
def vcondHolds (c : VCond) (a b : W32) : Bool :=
  match c with
  | .eq => a = b
  | .ne => a ≠ b
  | .lt => a.slt b
  | .le => a.sle b
  | .gt => b.slt a
  | .ge => b.sle a
  | .lo => a.ult b
  | .hs => b.ule a

/-- A UCMP condition on two integers (R189). -/
def ucondHolds (c : UCond) (a b : Int) : Bool :=
  match c with
  | .eq => a = b
  | .ne => a ≠ b
  | .lt => a < b
  | .le => a ≤ b
  | .gt => b < a
  | .ge => b ≤ a

/-- The value of n bits under a signedness (R187, R210). -/
def ival (sg : Bool) (n x : Nat) : Int := if sg then sval n x else (x % 2 ^ n : Nat)

/-- A WAITW condition: the word against the comparison value, unsigned unless the type is signed (R239). -/
def waitHolds (c : WaitCond) (word value : Int) : Bool :=
  match c with
  | .eq => word = value
  | .ne => word ≠ value
  | .ge => value ≤ word
  | .lt => word < value

end Sys2Proof.Machine
end

