-- ==== Sys2Proof/Machine/Mmu.lean ====
section
/-!
DEFINITION. Address spaces, tiers and translation (chapter 6, R111 to R118; chapter 22, R398 to R402): the page-table walk
over memory, the TLBs of cores and reticles, and the checks of a translated access.
-/
namespace Sys2Proof.Machine
open Sys2Proof

/-- Where a physical address lies (Table 6-2). -/
inductive Tier | hbm | pool | host | reserved
  deriving DecidableEq, Repr

/-- The tier of a device physical address (Table 6-2). -/
def tierOf (pa : Nat) : Tier :=
  if pa < 0x30000000000 then .hbm
  else if 0x1000000000000 ≤ pa && pa < 0x2000000000000 then .pool
  else if 0x2000000000000 ≤ pa && pa < 0x4000000000000 then .host
  else .reserved

/-- The 128-byte line of a physical address (R123). -/
def lineOf (pa : Nat) : Nat := pa / 128

/-- The domain address of a device physical address (R112). -/
def domainAddr (dev pa : Nat) : Nat := dev * 2 ^ 51 + pa

/-- A global address is canonical (R111). -/
def canonical (va : Word) : Bool := va.toNat < 2 ^ 57

/-- The 64 KiB page of a virtual address. -/
def pageOf (va : Word) : Nat := va.toNat / 65536

/-- The outcome of a page-table walk (R116, R398, R401): a leaf with log2 of its page size, an entry with V = 0 at a level, or a
cause with its syndrome. -/
inductive Walk
  | leaf (w : Word) (bits : Nat)
  | absent (level : Nat)
  | bad (cause : Nat) (syn : Word)
  deriving DecidableEq, Repr

/-- The index of a virtual address at a level (Table 6-4). -/
def levelIndex (level va : Nat) : Nat :=
  match level with
  | 0 => va / 2 ^ 48 % 512
  | 1 => va / 2 ^ 39 % 512
  | 2 => va / 2 ^ 30 % 512
  | 3 => va / 2 ^ 21 % 512
  | _ => va / 2 ^ 16 % 32

/-- log2 of the leaf page size at a level (Table 6-4). -/
def leafBits (level : Nat) (g2 : Bool) : Nat :=
  match level with
  | 2 => if g2 then 31 else 30
  | 3 => 21
  | _ => 16

/-- The leaf of one 64 KiB page inside a larger page: the same attributes, PFN of that page. -/
def smallLeaf (e : Word) (va n : Nat) : Word := setFld e 16 35 ((fld e 16 35).toNat + va % 2 ^ n / 65536)

/-- A leaf entry breaks R116: a reserved bit, PFN bits below the page size, G2 outside a proper pair. -/
def leafMalformed (level : Nat) (e partner : Word) : Bool :=
  let n := leafBits level (bit e 7)
  (fld e 10 6).toNat ≠ 0 || (fld e 16 35).toNat % 2 ^ (n - 16) ≠ 0 || (bit e 7 && (level ≠ 2 || partner ≠ e))

/-- SYNDROME of MALFORMED_PTE (Table 20-6). -/
def pteSyn (level : Nat) (e : Word) : Word := (e <<< 8) ||| w64 level

/-- Walks from the table at `base`, for at most `fuel` levels (R115, R116). -/
def walkFrom (mem : Mem) (poison : List Nat) (va : Nat) : Nat → Nat → Nat → Walk
  | 0, _, _ => .absent 4
  | fuel + 1, level, base =>
    let a := base + 8 * levelIndex level va
    let e := w64 (memVal mem a 8)
    if poison.contains (lineOf a) then .bad 0x35 (w64 a)
    else if bit e 0 = false then .absent level
    else if bit e 1 then
      if level < 2 || leafMalformed level e (w64 (memVal mem (base + 8 * (levelIndex level va ^^^ 1)) 8)) then
        .bad 0x34 (pteSyn level e)
      else .leaf e (leafBits level (bit e 7))
    else if level = 4 || (fld e 51 13).toNat ≠ 0 || (fld e 2 10).toNat ≠ 0 then .bad 0x34 (pteSyn level e)
    else walkFrom mem poison va fuel (level + 1) ((fld e 12 39).toNat * 4096)

/-- The walk of a virtual address under a root (R115; ROOT_INVALID, Table 20-6). -/
def walk (mem : Mem) (poison : List Nat) (root va : Nat) : Walk :=
  if root % 4096 ≠ 0 || tierOf root ≠ .hbm then .bad 0x3B (w64 root) else walkFrom mem poison va 5 0 root

/-- The addresses of the table entries that a walk reads, in order (R115, R117). -/
def walkPath (mem : Mem) (va : Nat) : Nat → Nat → Nat → List Nat
  | 0, _, _ => []
  | fuel + 1, level, base =>
    let a := base + 8 * levelIndex level va
    let e := w64 (memVal mem a 8)
    if bit e 0 && !bit e 1 && level < 4 && (fld e 51 13).toNat = 0 && (fld e 2 10).toNat = 0 then a :: walkPath mem va fuel (level + 1) ((fld e 12 39).toNat * 4096) else [a]

/-- The first-level TLB of a core. -/
def coreTlb (core : Nat) : Nat := core
/-- The last-level TLB of a reticle. -/
def reticleTlb (reticle : Nat) : Nat := 2 ^ 20 + reticle
/-- Entries of a TLB (Table 0-1, R117). -/
def tlbSize (unit : Nat) : Nat := if unit < 2 ^ 20 then 64 else 4096

/-- An entry of a TLB that translates a page of a context (R117). -/
def tlbHit (unit ctx page : Nat) (e : TlbEntry) : Bool :=
  e.unit = unit && e.ctx = ctx && e.page / 2 ^ (e.bits - 16) = page / 2 ^ (e.bits - 16)

/-- An entry's page shares an address with a range (R118). -/
def TlbEntry.meets (e : TlbEntry) (va len : Nat) : Bool :=
  let base := e.page * 65536 / 2 ^ e.bits * 2 ^ e.bits
  len = 0 || (decide (va < base + 2 ^ e.bits) && decide (base < va + len))

/-- The leaf that a TLB holds for a virtual address, as the leaf of its 64 KiB page. -/
def leafOf (s : State) (unit ctx : Nat) (va : Word) : Option Word :=
  (s.tlb.find? (tlbHit unit ctx (pageOf va))).map fun e => smallLeaf e.leaf va.toNat e.bits

/-- An entry enters a TLB, which loses its oldest one when it is full (R117; the order is a DESIGN CHOICE, log 7). -/
def tlbPut (s : State) (e : TlbEntry) : State :=
  let rest := s.tlb.filter fun x => !tlbHit e.unit e.ctx e.page x
  let rest := if (rest.filter fun x => x.unit = e.unit).length < tlbSize e.unit then rest
    else rest.eraseIdx (rest.findIdx fun x => x.unit = e.unit)
  { s with tlb := rest ++ [e] }

/-- A leaf that a walk found fills both TLBs of a core's accesses (R117). -/
def tlbFill (s : State) (core ctx : Nat) (va : Word) (leaf : Word) (bits : Nat) : State :=
  let e : TlbEntry := { unit := coreTlb core, ctx := ctx, page := pageOf va, bits := bits, leaf := leaf }
  tlbPut (tlbPut s { e with unit := reticleTlb (core / Config.coresPerReticle) }) e

/-- The physical address that a leaf gives a virtual address. -/
def leafPa (e va : Word) : Nat := (fld e 16 35).toNat * 65536 + va.toNat % 65536

/-- DEV of a leaf (Table 6-5). -/
def leafDev (e : Word) : Nat := (fld e 51 13).toNat
/-- R of a leaf. -/
def leafR (e : Word) : Bool := bit e 2
/-- W of a leaf. -/
def leafW (e : Word) : Bool := bit e 3
/-- X of a leaf. -/
def leafX (e : Word) : Bool := bit e 4
/-- PROP of a leaf. -/
def leafProp (e : Word) : Bool := bit e 5
/-- UC of a leaf. -/
def leafUc (e : Word) : Bool := bit e 6
/-- HINT of a leaf (Table 6-5). -/
def leafHint (e : Word) : Nat := (fld e 8 2).toNat

/-- What an access needs of its page. -/
inductive Need | read | write | readWrite | exec
  deriving DecidableEq, Repr

/-- A host window served by a PCIe port: host lines are uncached and atomics are limited (R114, R316). Bit 48 of the
window selects the port. -/
def hostPcie (s : State) (pa : Nat) : Bool :=
  tierOf pa = .host && !(aget ({} : HostPort) s.hostPorts (pa / 2 ^ 48 % 2)).cxl

/-- A device number is the device's own or in the routing table in force (R321, R402). -/
def routed (s : State) (dev : Nat) : Bool := dev = s.devnum || s.routing.routes.contains dev

/-- A physical address lies in the area of the defect-tree image, which no device-side store changes (R22). -/
def inTree (s : State) (pa : Nat) : Bool := decide (s.dtaddr ≤ pa) && decide (pa < s.dtaddr + s.dtbytes)

/-- The causes that a translated access meets in its leaf (R401, R402, Table 20-6), with their syndromes: fetch and table
reads on another device meet REMOTE_CODE and never NO_ROUTE. -/
def leafCauses (s : State) (need : Need) (e va : Word) : List (Nat × Word) :=
  let pa := leafPa e va
  let dev := leafDev e
  (if tierOf pa = .reserved then [(0x22, w64 pa)] else [])
    ++ (if need = .exec then (if dev = s.devnum then [] else [(0x3F, w64 dev)])
        else if routed s dev then [] else [(0x2E, w64 dev)])
    ++ (if (need = .read || need = .readWrite) && !leafR e then [(0x31, 0#64)] else [])
    ++ (if (need = .write || need = .readWrite) && (!leafW e || (dev = s.devnum && inTree s pa)) then [(0x32, 0#64)] else [])
    ++ (if need = .exec && !leafX e then [(0x33, 0#64)] else [])

/-- The lowest-numbered cause of a list (R363); the first among equals. -/
def lowest : List (Nat × Word) → Option (Nat × Word)
  | [] => none
  | x :: xs =>
    match lowest xs with
    | none => some x
    | some y => if y.1 < x.1 then some y else some x

/-- The translation of an access by an agent that walks for itself (an engine, the dispatcher, the handler frame). -/
inductive Xlate
  | ok (pa : Nat) (leaf : Word)
  | wait (level : Nat)
  | bad (cause : Nat) (syn : Word)
  deriving DecidableEq, Repr

/-- Translates a virtual address of a context by a walk, with the checks of R401 and R402. Agents that are no threads walk for every
access (DESIGN CHOICE, log 18). -/
def xlate (s : State) (ctx : Nat) (need : Need) (va : Word) : Xlate :=
  if !canonical va then .bad 0x21 0#64
  else
    match walk s.mem s.poison (aget ({} : Ctx) s.ctxs ctx).root va.toNat with
    | .leaf e n =>
      let e := smallLeaf e va.toNat n
      match lowest (leafCauses s need e va) with
      | some c => .bad c.1 c.2
      | none => .ok (leafPa e va) e
    | .absent n => .wait n
    | .bad c y => .bad c y

/-- n bytes at a virtual address of a context read as an agent reads them, page by page. -/
def readVa (s : State) (ctx : Nat) (va : Word) (n : Nat) : Except (Nat × Word) (List Byte) :=
  (List.range n).foldr (fun k acc =>
    match acc with
    | .error e => .error e
    | .ok bs =>
      match xlate s ctx .read (va + w64 k) with
      | .ok pa _ => if s.poison.contains (lineOf pa) then .error (0x24, w64 (domainAddr s.devnum pa))
                    else .ok (memByte s.mem pa :: bs)
      | .wait l => .error (0x30, w64 l)
      | .bad c y => .error (c, y)) (.ok [])

/-- Bytes written at a virtual address of a context, page by page; nothing is written when a page refuses (R353, R358). -/
def writeVa (s : State) (ctx : Nat) (va : Word) (bs : List Byte) : Except (Nat × Word) State :=
  (List.range bs.length).foldl (fun acc k =>
    match acc with
    | .error e => .error e
    | .ok t =>
      match xlate s ctx .write (va + w64 k) with
      | .ok pa _ => .ok { t with mem := memPut t.mem pa (bs.getD k 0#8) }
      | .wait l => .error (0x30, w64 l)
      | .bad c y => .error (c, y)) (.ok s)

end Sys2Proof.Machine
end

