-- ==== Sys2Proof/Machine/Ops.lean ====
section
/-!
DEFINITION. The named operations of the machine: reads and writes of the parts of the state, registers with their pending
writes (R437), the PC table (R36 to R38), latches (R81 to R83), error records (R348 to R358, R365), the abort of a TRY
region (R246), and the fault: how it is detected (R345), taken (R346, R352, R356), enters a handler (R353), and returns
(R354).
-/
namespace Sys2Proof.Machine
open Sys2Proof

/-! ### The parts of the state -/

/-- The warp of a key (16 * team + warp number). -/
def warpAt (s : State) (k : Nat) : Warp := aget {} s.warps k
/-- The state with a warp replaced. -/
def putWarp (s : State) (k : Nat) (w : Warp) : State := { s with warps := aput s.warps k w }
/-- The key of a warp of a team. -/
def warpKey (team wid : Nat) : Nat := 16 * team + wid
/-- The team of an id. -/
def teamAt (s : State) (t : Nat) : Team := aget {} s.teams t
/-- The state with a team replaced. -/
def putTeam (s : State) (t : Nat) (x : Team) : State := { s with teams := aput s.teams t x }
/-- The core of a number 120 * reticle + unit. -/
def coreAt (s : State) (c : Nat) : Core := aget {} s.cores c
/-- The state with a core replaced. -/
def putCore (s : State) (c : Nat) (x : Core) : State := { s with cores := aput s.cores c x }
/-- The cluster of a number core / 12. -/
def clusterAt (s : State) (c : Nat) : Cluster := aget {} s.clusters c
/-- The state with a cluster replaced. -/
def putCluster (s : State) (c : Nat) (x : Cluster) : State := { s with clusters := aput s.clusters c x }
/-- The reticle of a number 8 * ry + rx. -/
def reticleAt (s : State) (r : Nat) : Reticle := aget {} s.retics r
/-- The state with a reticle replaced. -/
def putReticle (s : State) (r : Nat) (x : Reticle) : State := { s with retics := aput s.retics r x }
/-- The context of a number. -/
def ctxAt (s : State) (c : Nat) : Ctx := aget {} s.ctxs c
/-- The state with a context replaced. -/
def putCtx (s : State) (c : Nat) (x : Ctx) : State := { s with ctxs := aput s.ctxs c x }
/-- The access of an id. -/
def accAt (s : State) (a : Nat) : Option Acc := afind s.accs a
/-- The state with an access replaced. -/
def putAcc (s : State) (a : Acc) : State := { s with accs := aput s.accs a.id a }
/-- The directory entry of a line. -/
def lineAt (s : State) (l : Nat) : Option Line := afind s.lines l
/-- The state with a directory entry replaced. -/
def putLine (s : State) (l : Nat) (x : Line) : State := { s with lines := aput s.lines l x }

/-- A line without its replicas, as a write of an agent that is no thread leaves it: their invalidations take no time (R127, log 10). -/
def dropReplicas (s : State) (l : Nat) : State :=
  match lineAt s l with
  | none => s
  | some x => putLine s l { x with
      replicas := [], dirty := true, wrote := some (s.time / s.yardWin), state := if x.state = .shared then .home else x.state }

/-- The lines of n bytes at a physical address without their replicas (R127, log 10). -/
def freshLines (s : State) (pa n : Nat) : State :=
  if n = 0 then s else (List.range ((pa + n - 1) / 128 - pa / 128 + 1)).foldl (fun s j => dropReplicas s (pa / 128 + j)) s

/-- The grid of an entry number of a context. -/
def gridOf (c : Ctx) (entry : Nat) : Option Grid := c.grids.find? fun g => g.entry = entry
/-- The context with a grid replaced. -/
def setGrid (c : Ctx) (g : Grid) : Ctx :=
  { c with grids := c.grids.map fun x => if x.entry = g.entry then g else x }
/-- A field of n bytes at an offset of a record (R51). -/
def recField (r : List Byte) (off n : Nat) : Nat := leVal ((r.drop off).take n)

/-- The cluster of a core. -/
def clusterOf (core : Nat) : Nat := core / Config.coresPerCluster
/-- The reticle of a core. -/
def reticleOf (core : Nat) : Nat := core / Config.coresPerReticle
/-- %ACLK of a core (R89). -/
def aclkAt (s : State) (core : Nat) : Nat := (clusterAt s (clusterOf core)).aclk
/-- The aclk at which the current instruction issues. -/
def now (s : State) : Nat := aclkAt s s.cur.core
/-- The issuing warp. -/
def me (s : State) : Warp := warpAt s s.cur.warp
/-- The state with the issuing warp replaced. -/
def setMe (s : State) (w : Warp) : State := putWarp s s.cur.warp w
/-- The team of the issuing warp. -/
def myTeam (s : State) : Team := teamAt s (me s).team
/-- The state with the team of the issuing warp replaced. -/
def setMyTeam (s : State) (t : Team) : State := putTeam s (me s).team t
/-- The context of the issuing warp. -/
def myCtx (s : State) : Ctx := ctxAt s (myTeam s).ctx
/-- The record of the grid of a team. -/
def recordOf (s : State) (t : Team) : List Byte :=
  match gridOf (ctxAt s t.ctx) t.grid with
  | some g => g.record
  | none => []
/-- The keys of the warps of a team. -/
def teamWarps (t : Nat) (x : Team) : List Nat := (List.range x.nwarps).map fun k => warpKey t k

/-- A fresh id. -/
def freshId (s : State) : Nat × State := (s.nextId, { s with nextId := s.nextId + 1 })
/-- The next free value (log 5). -/
def freeValue (s : State) : Word × State := (Config.freeWord s.freeCtr, { s with freeCtr := s.freeCtr + 1 })

/-! ### Registers and their pending writes -/

/-- A row of zeros. -/
def zeroRow : List W32 := List.replicate 64 0#32
/-- A row of another with the lanes of a mask taken from a new one. -/
def mergeRow (mask : Word) (new old : List W32) : List W32 :=
  lanes.map fun l => if bit mask l then laneAt new l else laneAt old l

/-- Register v(r) of every lane (R77). -/
def vrow (w : Warp) (r : Nat) : List W32 := aget zeroRow w.v r
/-- Register v(r) of lane l. -/
def vreg (w : Warp) (r l : Nat) : W32 := laneAt (vrow w r) l
/-- Predicate p(r) of every lane; p0 reads true (R84). -/
def prow (w : Warp) (r : Nat) : Word := if r = 0 then BitVec.allOnes 64 else aget 0#64 w.p r
/-- g(r) (R85). -/
def greg (w : Warp) (r : Nat) : Word := aget 0#64 w.g r
/-- q(r) (R84). -/
def qreg (w : Warp) (r : Nat) : Bool := bit w.q r
/-- ql(r) (R86). -/
def qlReg (w : Warp) (r : Nat) : QlReg := w.ql.getD r {}

/-- v(r) written in the lanes of a mask (R79). -/
def setVrow (w : Warp) (r : Nat) (mask : Word) (row : List W32) : Warp :=
  { w with v := aset zeroRow w.v r (mergeRow mask row (vrow w r)) }
/-- p(r) written in the lanes of a mask; a write to p0 is discarded (R84). -/
def setProw (w : Warp) (r : Nat) (mask val : Word) : Warp :=
  if r = 0 then w else { w with p := aset 0#64 w.p r ((aget 0#64 w.p r &&& ~~~mask) ||| (val &&& mask)) }
/-- g(r) written. -/
def setG (w : Warp) (r : Nat) (x : Word) : Warp := { w with g := aset 0#64 w.g r x }
/-- q(r) written. -/
def setQ (w : Warp) (r : Nat) (b : Bool) : Warp := { w with q := setBit w.q r b }
/-- ql(r) written. -/
def setQl (w : Warp) (r : Nat) (x : QlReg) : Warp :=
  { w with ql := (List.range 8).map fun k => if k = r then x else qlReg w k }

/-- A write takes place (R437). -/
def applyWrite (w : Warp) : PWrite → Warp
  | .v r mask row => setVrow w r mask row
  | .p r mask val => setProw w r mask val
  | .g r x => setG w r x
  | .q r b => setQ w r b

/-- Every write due at or before aclk t has taken place, in the order of their times (R437). -/
def settle (t : Nat) (w : Warp) : Warp :=
  (w.pend.filter fun x => x.due ≤ t).foldl (fun w x => applyWrite w x.w)
    { w with pend := w.pend.filter fun x => t < x.due }

/-- A warp with every write that is due at this instant taken place, as a value that arrives now finds it (R437). -/
def warpNow (s : State) (k : Nat) : Warp :=
  let w := warpAt s k
  settle (aclkAt s (teamAt s w.team).core) w

/-- Every pending write has taken place (Table 14-1). -/
def settleAll (w : Warp) : Warp := w.pend.foldl (fun w x => applyWrite w x.w) { w with pend := [] }

/-- Pending writes stay in the order in which they take place: by time, then by issue (R437). -/
def insertPend (x : Pend) : List Pend → List Pend
  | [] => [x]
  | y :: ys => if x.due < y.due then x :: y :: ys else y :: insertPend x ys

/-- The warp with writes that land at aclk t. -/
def addPend (w : Warp) (t : Nat) (xs : List PWrite) : Warp :=
  { w with pend := xs.foldl (fun p x => insertPend ⟨t, x⟩ p) w.pend }

/-- A pending write without the lanes of a mask. -/
def dropPend (mask : Word) (x : Pend) : Pend :=
  match x.w with
  | .v r m row => { x with w := .v r (m &&& ~~~mask) row }
  | .p r m val => { x with w := .p r (m &&& ~~~mask) val }
  | _ => x

/-! ### Packets -/

/-- A word of the packet's slots. -/
def slotWord (c : Cur) (k : Nat) : W32 := c.slots.getD k 0#32

/-- Slot k of a packet starts an instruction (R158, R159). -/
def startsAt (slots : List W32) (k : Nat) : Bool :=
  let w := fun j => slots.getD j 0#32
  let s0 := w 0 ≠ 0#32
  let s1 := !(s0 && bit (w 0) 30) && w 1 ≠ 0#32
  let s2 := !(s1 && bit (w 1) 30) && w 2 ≠ 0#32
  match k with
  | 0 => s0
  | 1 => s1
  | 2 => s2
  | _ => false

/-- Slot k of a packet holds an extension word (R159). -/
def extAt (slots : List W32) (k : Nat) : Bool := k ≠ 0 && startsAt slots (k - 1) && bit (slots.getD (k - 1) 0#32) 30

/-- The address of the word in slot k of the packet at an address (R156). -/
def slotPc (pkt : Word) (k : Nat) : Word := pkt + w64 (4 + 4 * k)

/-- The packet that a PC stands in, and its slot (R156). -/
def pktOf (pc : Word) : Word := pc &&& ~~~15#64
/-- The slot of a PC. -/
def slotOf (pc : Word) : Nat := pc.toNat % 16 / 4 - 1

/-- The first slot from k on that starts an instruction, if any. -/
def nextStart (slots : List W32) (k : Nat) : Option Nat :=
  [0, 1, 2].find? fun j => decide (k ≤ j) && startsAt slots j

/-- The next instruction after one that takes `width` slots (R158). -/
def nextPc (c : Cur) (width : Nat) : Word :=
  match nextStart c.slots (c.slot + width) with
  | some k => slotPc c.pkt k
  | none => slotPc (c.pkt + 16#64) 0

/-- The address of the instruction being issued. -/
def curPc (s : State) : Word := slotPc s.cur.pkt s.cur.slot

/-- The last slot of the packet that holds an instruction (R158). -/
def lastStart (slots : List W32) : Nat := (([2, 1, 0].find? fun j => startsAt slots j).getD 0)

/-- %PIX of an instruction stopped at a unit (Table 4-3). -/
def pixOf (pc : Word) (units : Nat) : W32 := w32 (units % 2 ^ 24 + slotOf pc % 4 * 2 ^ 24)

/-- %PIX as a fault finds it: that of a REP which a stop has left in flight, or the one that the fault recorded (R88, R345). -/
def pixAt (w : Warp) (d : Detected) : W32 :=
  match w.rep with
  | some r => if r.stopped then pixOf (slotPc r.cur.pkt r.cur.slot) r.first else d.pix
  | none => d.pix

/-- A REP left in flight goes on after a handler at the unit that the handler left in the frame's PIX (R354). -/
def repFrom (pix : W32) (r : RepRun) : Option RepRun :=
  if !r.stopped || r.cur.inHandler then some r
  else if (fld pix 0 24).toNat < r.n then some { r with first := (fld pix 0 24).toNat } else none

/-- The units of a resumable instruction that are complete when it issues: those that %PIX gives the instruction that it was reinstated
for (R88, R354). -/
def unitsDone (w : Warp) (c : Cur) : Nat :=
  if slotPc c.pkt c.slot = w.pixPc && (fld w.pix 24 2).toNat = c.slot then (fld w.pix 0 24).toNat else 0

/-- A resumable instruction issues: %PIX has been used up (R88). -/
def usePix (w : Warp) (c : Cur) : Warp :=
  if slotPc c.pkt c.slot = w.pixPc then { w with pix := 0#32, pixPc := 0#64 } else w

/-! ### The PC table -/

/-- A wait that a run as a whole ends: two runs in it at one PC are one run (R36, log 11). -/
def sharedWait : Option Park → Bool
  | none | some (.bar _ _) | some .ralloc | some (.tsync _) | some (.sleep _) | some (.commit _ _) => true
  | some (.watch _) | some (.mbar _) => false

/-- Two entries of one PC merge when neither is parked (R38), and when both are parked for the same thing (R36, log 11). -/
def mergeable (a b : PcEntry) : Bool := a.pc = b.pc && decide (a.park = b.park) && sharedWait a.park

/-- An entry put in its place by PC, merged where R38 says so. -/
def insertEntry (e : PcEntry) : List PcEntry → List PcEntry
  | [] => [e]
  | x :: xs =>
    if mergeable e x then { x with mask := x.mask ||| e.mask, count := Nat.max x.count e.count } :: xs
    else if e.pc.toNat < x.pc.toNat then e :: x :: xs
    else x :: insertEntry e xs

/-- The table in its order, empty entries removed and equal ones merged (R36, R38). -/
def normPcs (pcs : List PcEntry) : List PcEntry :=
  (pcs.filter fun e => e.mask ≠ 0#64).foldl (fun t e => insertEntry e t) []

/-- The table with the lanes of a mask changed by f and the others as they were: entries split and keep their counts. -/
def mapLanes (m : Word) (f : PcEntry → PcEntry) (pcs : List PcEntry) : List PcEntry :=
  normPcs (pcs.flatMap fun e => [{ e with mask := e.mask &&& ~~~m }, { f e with mask := e.mask &&& m }])

/-- Lanes moved to an address, running (R38). -/
def moveLanes (m : Word) (pc : Word) (pcs : List PcEntry) : List PcEntry :=
  mapLanes m (fun e => { e with pc := pc, park := none }) pcs
/-- Lanes parked where they stand. -/
def parkLanes (m : Word) (p : Park) (pcs : List PcEntry) : List PcEntry :=
  mapLanes m (fun e => { e with park := some p }) pcs
/-- Lanes woken where they stand, if what they wait for satisfies `ok`. -/
def wakeLanes (m : Word) (ok : Park → Bool) (pcs : List PcEntry) : List PcEntry :=
  mapLanes m (fun e => match e.park with
    | some p => if ok p then { e with park := none } else e
    | none => e) pcs
/-- Lanes removed (EXIT). -/
def removeLanes (m : Word) (pcs : List PcEntry) : List PcEntry :=
  normPcs (pcs.map fun e => { e with mask := e.mask &&& ~~~m })

/-- The lanes of the table. -/
def liveLanes (pcs : List PcEntry) : Word := pcs.foldl (fun m e => m ||| e.mask) 0#64

/-- The runs that issue: the handler's in handler mode, else the PC table (R353). -/
def runsOf (w : Warp) : List PcEntry :=
  match w.handler with
  | some h => h.runs
  | none => w.pcs

/-- The runs that issue, changed by f. -/
def mapRuns (f : List PcEntry → List PcEntry) (w : Warp) : Warp :=
  match w.handler with
  | some h => { w with handler := some { h with runs := f h.runs } }
  | none => { w with pcs := f w.pcs }

/-- Requests without the lanes of a mask, and without those that hold no lane any more. -/
def unhold (m : Word) (hs : List (Nat × Word)) : List (Nat × Word) :=
  (hs.map fun h => (h.1, h.2 &&& ~~~m)).filter fun h => h.2 ≠ 0#64

/-- The requests that hold runs that may issue (R176). -/
def holdsOf (w : Warp) : List (Nat × Word) :=
  match w.handler with
  | some h => h.holds
  | none => w.holds

/-- Those requests, changed by f. -/
def mapHolds (f : List (Nat × Word) → List (Nat × Word)) (w : Warp) : Warp :=
  match w.handler with
  | some h => { w with handler := some { h with holds := f h.holds } }
  | none => { w with holds := f w.holds }

/-- A run of a mask is held: a request holds a lane of it (R176). -/
def isHeld (w : Warp) (m : Word) : Bool := (holdsOf w).any fun h => h.2 &&& m ≠ 0#64

/-- The request that holds a lane. -/
def heldBy (w : Warp) (l : Nat) : Option Nat := ((holdsOf w).find? fun h => bit h.2 l).map (·.1)

/-- Lanes of the warp go to an address, parked for p or running, and held by no request (R38). -/
def gotoPark (m : Word) (pc : Word) (p : Option Park) (w : Warp) : Warp :=
  mapHolds (unhold m) (mapRuns (mapLanes m fun e => { e with pc := pc, park := p }) w)

/-- Lanes of the warp go to an address (R38). -/
def goto (m : Word) (pc : Word) (w : Warp) : Warp := gotoPark m pc none w

/-- Lanes parked for what `ok` names are woken, in the frozen table too (R38, R353). -/
def wakeWarp (m : Word) (ok : Park → Bool) (w : Warp) : Warp :=
  { w with pcs := wakeLanes m ok w.pcs
           handler := w.handler.map fun h => { h with runs := wakeLanes m ok h.runs } }

/-- The run that R37 chooses: the lowest PC with a count of 64 if any, else the lowest non-parked. -/
def chosenRun (pcs : List PcEntry) : Option PcEntry :=
  let free := pcs.filter fun e => e.park.isNone
  match free.find? fun e => e.count = 64 with
  | some e => some e
  | none => free.head?

/-- The counts after an issue of the run at `pc` (R37): set before the run moves. -/
def countIssue (pc : Word) (pcs : List PcEntry) : List PcEntry :=
  pcs.map fun e =>
    if e.park.isSome then e
    else if e.pc = pc then { e with count := 0 }
    else { e with count := Nat.min (e.count + 1) 64 }

/-! ### Waiters -/

/-- Lanes of an entry leave its wait on words; it is unparked with the last (R239). -/
def wakeWatchLane (l : Nat) (w : Warp) : Warp :=
  let f := fun pcs : List PcEntry => normPcs (pcs.map fun e =>
    match e.park with
    | some (.watch m) =>
      if bit e.mask l then
        let m := m &&& ~~~laneBit l
        { e with park := if m = 0#64 then none else some (.watch m) }
      else e
    | _ => e)
  { w with pcs := f w.pcs, handler := w.handler.map fun h => { h with runs := f h.runs } }

/-- The bytes of an ATY. -/
def atyBytes : Aty → Nat | .i32 => 4 | .n32 => 4 | .i64 => 8 | .n64 => 8 | .fp32 => 4 | .n128 => 16
/-- Signedness of an ATY. -/
def atySigned : Aty → Bool | .i32 => true | .i64 => true | _ => false

/-- A waiter's condition on a word's bytes (R238, R239). -/
def watchMet (w : Watch) (bs : List Byte) : Bool :=
  let n := 8 * w.bytes
  waitHolds w.cond (ival (atySigned w.ty) n (leVal bs)) (ival (atySigned w.ty) n w.value)

/-- A waiter is woken and its registration ends. -/
def wakeWaiter (s : State) (x : Watch) : State :=
  let s := { s with watches := s.watches.filter fun y => y.id ≠ x.id }
  putWarp s x.warp (wakeWatchLane x.lane (warpAt s x.warp))

/-- After a write the waiters are evaluated against the new value (R239); one that polls waits for its re-read. A waiter
whose word was not written keeps its false condition. -/
def evalWatches (s : State) : State :=
  (s.watches.filter fun x => x.poll.isNone && x.tag.isNone).foldl (fun s x =>
    if watchMet x (memBytes s.mem x.pa x.bytes) then wakeWaiter s x else s) s

/-- The lines of n bytes at a virtual address of a context, once their pages have been reached, without their replicas (R127). -/
def freshVa (s : State) (ctx : Nat) (va : Word) (n : Nat) : State :=
  ((List.range n).filter fun k => k = 0 || (va.toNat + k) % 128 = 0).foldl (fun t k =>
    match xlate s ctx .write (va + w64 k) with
    | .ok pa _ => dropReplicas t (lineOf pa)
    | _ => t) s

/-- Bytes written at a virtual address of a context by an agent, with its replicas gone and the waiters evaluated (R127, R239). -/
def storeVa (s : State) (ctx : Nat) (va : Word) (bs : List Byte) : Except (Nat × Word) State :=
  match writeVa s ctx va bs with
  | .error e => .error e
  | .ok t => .ok (evalWatches (freshVa t ctx va bs.length))


/-! ### Latches -/

/-- A push of the latch stack (R81); lanes of `keep` are not pushed (R345). -/
def pushLatch (w : Warp) (t lat : Nat) (vals : List Word) (keep : Word) : Warp :=
  let old := w.latches
  let new := ({ vals := vals, born := t, lat := lat } :: old).take 8
  if keep = 0#64 then { w with latches := new }
  else
    { w with latches := (List.range new.length).map fun k =>
        let n := new.getD k ⟨[], 0, 0⟩
        { n with vals := lanes.map fun l =>
            if bit keep l then ((old.getD k ⟨[], 0, 0⟩).vals.getD l 0#64) else n.vals.getD l 0#64 } }

/-- The warp with its latches empty (R83). -/
def emptyLatches (w : Warp) : Warp := { w with latches := [] }

/-- A wide instruction issues: its claim is granted and ends (R74, R287). -/
def spendTokens (w : Warp) : Warp := { w with standing := false, queued := false, claimAt := none, wpass := 0 }

/-- The claim of the issuing warp is granted and ends. -/
def spendMe (s : State) : State := setMe s (spendTokens (me s))

/-! ### Undo log -/

/-- Bytes of an undo-log entry (R433). -/
def undoBytes (u : Undo) : Nat :=
  32 + 16 * u.pcs.length
    + u.regs.foldl (fun n x => n + (match x with | .v _ _ _ => 256 | _ => 8)) 0
    + (if u.latch.isSome then 512 else 0) + (if u.mark then 8 else 0)

/-- Entries from the newest while they fit in the size (R433). -/
def undoFit : Nat → List Undo → List Undo
  | _, [] => []
  | size, u :: us => if undoBytes u ≤ size then u :: undoFit (size - undoBytes u) us else []

/-- DBGCTL of a context (Table 24-1). -/
def dbgReg (c : Ctx) (off : Nat) : Nat := aget (if off = 0x6C then 0x10000 else 0) c.dbg off
/-- UNDO of a context (R432). -/
def undoOn (c : Ctx) : Bool := dbgReg c 0x60 / 2 % 2 = 1

/-- The old value that a write replaces, as a write back. -/
def oldOf (w : Warp) : PWrite → PWrite
  | .v r m _ => .v r m (vrow w r)
  | .p r m _ => .p r m (prow w r)
  | .g r _ => .g r (greg w r)
  | .q r _ => .q r (qreg w r)

/-! ### Error records -/

/-- ENGINE of a unit (Table 19-1). -/
def engineOf (kind reticle unit : Nat) : Nat := kind * 2 ^ 28 + reticle * 2 ^ 22 + unit
/-- ENGINE of a unit of the core. -/
def coreEngine (kind core : Nat) : Nat := engineOf kind (reticleOf core) (core % Config.coresPerReticle)
/-- ENGINE of a router of a core, with a link 0 to 3 (Table 19-5). -/
def routerEngine (core link : Nat) : Nat := engineOf 8 (reticleOf core) (4 * (core % Config.coresPerReticle) + link)
/-- ENGINE of a device-wide unit. -/
def deviceEngine (kind unit : Nat) : Nat := engineOf kind 63 unit

/-- The 64 bytes of an error record (Table 19-1). -/
def recordBytes (r : Record) : List Byte :=
  bytesOf 8 r.seq ++ bytesOf 8 r.time ++ bytesOf 1 r.cause ++ bytesOf 1 r.sev ++ bytesOf 1 r.action ++ bytesOf 1 r.flags
    ++ bytesOf 4 r.engine ++ bytesOf 1 r.ctx ++ bytesOf 1 r.warp ++ bytesOf 1 r.lane ++ bytesOf 1 0
    ++ bytesOf 2 r.grid ++ bytesOf 2 0 ++ bytesOf 8 r.team ++ bytesOf 8 r.pc ++ bytesOf 8 r.addr ++ bytesOf 8 r.syn.toNat

/-- The record in the Vilvor log: the latest 65,536 and every older one of SEV 3 or 4 (R358), newest first; one
that asks for a device reset is noted (R422). -/
def logAdd (s : State) (r : Record) : State :=
  let new := r :: s.log
  let lost := ((new.drop 65536).filter fun x => x.sev = 1 || x.sev = 2).length
  { s with log := new.take 65536 ++ (new.drop 65536).filter (fun x => 3 ≤ x.sev), logLost := s.logLost + lost
           calledBy := if r.action = 7 then r.cause else s.calledBy }

/-- The host port that carries the device's own writes (R438). -/
def outPort (s : State) : Option Nat :=
  if (aget ({} : HostPort) s.hostPorts 0).up then some 0
  else if (aget ({} : HostPort) s.hostPorts 1).up then some 1 else none

/-- LOST in a record's FLAGS. -/
def withLost (lost : Bool) (r : Record) : Record := if lost then { r with flags := r.flags ||| 8 } else r

/-- The record in the device ring (R357, R358, R438); interrupts are named (64 + port, vector). -/
def toDeviceRing (s : State) (r : Record) : State :=
  let n := 2 ^ s.drlog2
  if r.sev = 0 && 3 * n < 4 * (s.drpi - s.drci) then s
  else
    match outPort s, decide (s.drpi - s.drci < n) with
    | some p, true =>
      let r := withLost s.drLostFlag r
      { s with
        hostMem := memWrite s.hostMem (s.drbase + 64 * (s.drpi % n)) (recordBytes r)
        drpi := s.drpi + 1, drLostFlag := false, msix := (64 + p, s.drvec) :: s.msix }
    | _, _ => { s with drlost := s.drlost + 1, drLostFlag := true }

/-- The record in its context's ring (R357, R358, R424). -/
def toCtxRing (s : State) (r : Record) : State :=
  if 64 ≤ r.ctx then s
  else
    let c := ctxAt s r.ctx
    let n := 2 ^ c.crlog2
    let lose := fun s : State => putCtx s r.ctx { c with crlost := c.crlost + 1, crLostFlag := true }
    match readVa s r.ctx (w64 (c.crbase + 64 * n + 8)) 8 with
    | .error _ => lose s
    | .ok ci =>
      if n ≤ c.crpi - leVal ci then lose s
      else
        match storeVa s r.ctx (w64 (c.crbase + 64 * (c.crpi % n))) (recordBytes (withLost c.crLostFlag r)) with
        | .error _ => lose s
        | .ok t =>
          match storeVa t r.ctx (w64 (c.crbase + 64 * n)) (bytesOf 8 (c.crpi + 1)) with
          | .error _ => lose s
          | .ok t => { putCtx t r.ctx { c with crpi := c.crpi + 1, crLostFlag := false } with
                       msix := (r.ctx, 0) :: t.msix }

/-- A record published to every destination of Table 19-8. -/
def publish (s : State) (r : Record) : State :=
  let s := logAdd s r
  if bit (w64 r.flags) 4 then s else toDeviceRing (toCtxRing s r) r

/-- SEQ and TIME for a record at its detection (R348, R349). -/
def stampRecord (s : State) (r : Record) : Record × State :=
  ({ r with seq := s.seqNext, time := s.time }, { s with seqNext := s.seqNext + 1 })

/-- SYNDROME with the count of folded events in bits 63:48 (R365). -/
def foldSyn (n : Nat) (syn : Word) : Word := setFld syn 48 16 (Nat.min n 0xFFFF)

/-- A record of an event, folded when its severity is 0 and its pair was written within 1 ms (R365). -/
def report (s : State) (r : Record) : State :=
  let write := fun s : State => let x := stampRecord s r; publish x.2 x.1
  if r.sev ≠ 0 then write s
  else
    match s.folds.find? fun f => f.engine = r.engine && f.cause = r.cause with
    | none =>
      { write s with folds := { engine := r.engine, cause := r.cause, last := s.time : Fold } :: s.folds }
    | some f =>
      let put := fun g : Fold => s.folds.map fun x => if x.engine = r.engine && x.cause = r.cause then g else x
      if f.first.isNone && 1000000 ≤ s.time - f.last then
        { write s with folds := put { f with last := s.time } }
      else
        { s with folds := put { f with
            first := (match f.first with | none => some { r with time := s.time } | some x => some x)
            count := f.count + 1 } }

/-- A record of a cause whose action the device performs itself: it takes its SEQ now and is published once the action has
completed (R349, R359). The key names the unit acted on. -/
def promise (s : State) (key : Nat) (r : Record) : State :=
  let x := stampRecord s r
  { x.2 with promised := x.2.promised ++ [(key, x.1)] }

/-- The action on a unit has completed: the records promised for it are published. -/
def keepPromises (s : State) (key : Nat) : State :=
  (s.promised.filter fun p => p.1 = key).foldl (fun s p => publish s p.2)
    { s with promised := s.promised.filter fun p => p.1 ≠ key }

/-- The key of a reticle, of a slice and of a core among the promised records. -/
def reticleKey (r : Nat) : Nat := r
/-- The key of a slice. -/
def sliceKey (k : Nat) : Nat := 2 ^ 20 + k
/-- The key of a core. -/
def coreKey (c : Nat) : Nat := 2 ^ 21 + c

/-- A core is being reset, alone or with its reticle (R421). -/
def isResetting (s : State) (core : Nat) : Bool :=
  s.resetting.any fun x => x.1 = reticleKey (reticleOf core) || x.1 = coreKey core

/-- The resets of a core within the last 24 hours (R360). -/
def recentResets (s : State) (core : Nat) : List Nat := (coreAt s core).resets.filter fun t => s.time < t + 86400000000000

/-! ### Outstanding accesses -/

/-- The lanes of an access that have still to finish. -/
def liveAcc (a : Acc) : Bool := a.lanes.any fun l => l.live

/-- An access has finished: its flag counts down and it leaves (R71). -/
def finishAcc (s : State) (a : Acc) : State :=
  let w := warpAt s a.warp
  let s := putWarp s a.warp (if a.counted then flagDown w a.flag else w)
  { s with accs := aerase s.accs a.id }

/-- Every request of a relaxed RED has entered the fabric: none of its lanes waits for a page any more (R237). -/
def injected (a : Acc) : Bool :=
  (match a.kind with | .red _ _ => a.ord = .plain | _ => false) && a.lanes.all fun l => !l.live || !l.wait

/-- An access kept if some lane of it is live, finished otherwise; the flag of a relaxed RED counts down at its injection (R237). -/
def keepAcc (s : State) (a : Acc) : State :=
  if !liveAcc a then finishAcc s a
  else if a.counted && injected a then
    putAcc (putWarp s a.warp (flagDown (warpAt s a.warp) a.flag)) { a with counted := false }
  else putAcc s a

/-- An access that returns a value to a lane. -/
def returns : AccKind → Bool
  | .load _ | .ldg _ | .lds | .atom _ _ | .waitadd _ | .uload _ | .seqRes => true
  | _ => false

/-- The accesses of a warp, oldest first. -/
def accsOf (s : State) (k : Nat) : List Acc := (s.accs.map (·.2)).filter fun a => a.warp = k

/-- An access whose only effect is its result. -/
def pureRead : AccKind → Bool
  | .load _ | .ldg _ | .lds | .uload _ => true
  | _ => false

/-- The lanes of an access that `sel` names lose their result: a read ends there; an atomic or a reservation still takes
effect, and counts for its flag until its last lane is discarded (R71). -/
def muteLanes (s : State) (a : Acc) (sel : Nat → Bool) : State :=
  if pureRead a.kind then
    keepAcc s { a with lanes := a.lanes.map fun l => if sel l.lane then { l with live := false } else l }
  else
    let a := { a with lanes := a.lanes.map fun l => if sel l.lane then { l with mute := true } else l }
    if a.counted && a.lanes.all fun l => !l.live || l.mute then
      putAcc (putWarp s a.warp (flagDown (warpAt s a.warp) a.flag)) { a with counted := false }
    else putAcc s a

/-- Results of outstanding accesses are discarded: for each access of the warp, the lanes that `sel` names (R71, R246). -/
def discardLanes (s : State) (k : Nat) (sel : Acc → Nat → Bool) : State :=
  (accsOf s k).foldl (fun s a =>
    if returns a.kind && a.lanes.any (fun l => l.live && !l.mute && sel a l.lane) then muteLanes s a (sel a) else s) s

/-! ### TRY regions -/

/-- The lanes of a warp's open instance. -/
def txLanes (w : Warp) : Word :=
  match w.tx with
  | none => 0#64
  | some t => maskOf fun l => (afind t.depth l).isSome

/-- The TSTAT value of an outcome (R249). -/
def tstatVal (code imm depth : Nat) : W32 := w32 (code + (if code = 1 then imm * 256 else 0) + depth * 65536)

/-- TSTAT of lanes set to their outcome, with each lane's depth. -/
def setTstat (w : Warp) (m : Word) (val : Nat → W32) : Warp :=
  { w with tstat := (lanesOf m).foldl (fun t l => aset 0#32 t l (val l)) w.tstat }

/-- v registers and predicates of lanes as the checkpoint holds them (R246). -/
def restoreLanes (t : Tx) (m : Word) (w : Warp) : Warp :=
  let regs := (w.v.map (·.1) ++ t.ckV.map (·.1)).eraseDups
  let preds := (w.p.map (·.1) ++ t.ckP.map (·.1)).eraseDups
  let w := { w with pend := w.pend.map (dropPend m) }
  let w := regs.foldl (fun w r => setVrow w r m (aget zeroRow t.ckV r)) w
  preds.foldl (fun w r => setProw w r m (aget 0#64 t.ckP r)) w

/-- What lanes of the instance issued after its opening is counted for no flag any more (R71): accesses, and requests of the engine. -/
def uncount (s : State) (k : Nat) (t : Tx) : State :=
  let later := fun (id : Nat) (run : Word) => decide (t.opened ≤ id) && run &&& t.inst ≠ 0#64
  let core := (teamAt s (warpAt s k).team).core
  let s := (accsOf s k).foldl (fun s a =>
    if later a.id a.run && a.counted then
      putAcc (putWarp s k (flagDown (warpAt s k) a.flag)) { a with counted := false }
    else s) s
  (coreAt s core).reqs.foldl (fun s r =>
    if r.warp = k && later r.id r.run && r.flag.isSome then
      let c := coreAt s core
      putCore (putWarp s k (flagDown (warpAt s k) r.flag)) core
        { c with reqs := c.reqs.map fun x => if x.id = r.id then { x with flag := none } else x }
    else s) s

/-- The last lane of the instance has aborted: g, q and ql are restored and flag counts set (R71, R246). The work of the warp's other
lanes stays counted, since its completion counts down (DEDUCED, log 12). -/
def restoreWarp (s : State) (k : Nat) (t : Tx) : State :=
  let s := uncount s k t
  let w := warpAt s k
  putWarp s k { w with
    g := t.ckG, q := t.ckQ, ql := t.ckQl, tx := none
    pend := w.pend.filter fun x => match x.w with | .g _ _ => false | .q _ _ => false | _ => true }

/-- Lanes leave a REP under way: its later iterations write nothing there, and only they fill the emptied latches again (R246). -/
def leaveRep (t : Nat) (m : Word) (w : Warp) : Warp :=
  match w.rep with
  | none => emptyLatches w
  | some r =>
    let gone := t + 1 - r.start
    let cut := fun (j : Nat) (x : RepStep) =>
      { x with pends := x.pends.map (dropPend m), latches := x.latches.take (j + 1 - gone) }
    { w with
      latches := if r.stopped then [] else w.latches.take (r.steps.length - gone)
      rep := some { r with act := r.act &&& ~~~m, keep := r.keep &&& ~~~m, steps := r.steps.mapIdx cut } }

/-- An abort of lanes of the open instance with a code (R246): every lane of it when WW = 1. -/
def txAbort (s : State) (k : Nat) (m : Word) (code imm : Nat) : State :=
  let w := warpAt s k
  match w.tx with
  | none => s
  | some t =>
    let m := if t.ww then txLanes w else m &&& txLanes w
    if m = 0#64 then s
    else
      let w := setTstat w m fun l => tstatVal code imm (aget 0 t.depth l)
      let w := leaveRep (aclkAt s (teamAt s w.team).core) m (restoreLanes t m w)
      let t' := { t with
        depth := t.depth.filter (fun d => !bit m d.1), reached := t.reached &&& ~~~m
        stores := t.stores.filter (fun e => !bit m e.lane), reads := t.reads.filter (fun e => !bit m e.lane) }
      let starved := t.global && (code = 2 || code = 3 || code = 10)
      let n := if starved then w.txAborts + 1 else 0
      let w := { w with
        tx := some t', pcs := moveLanes m t.target w.pcs, holds := unhold m w.holds, undo := [], undoLost := true
        txAborts := if n = 256 then 0 else n
        handler := w.handler.map fun h => if m &&& h.f = 0#64 then h else { h with gone := true } }
      let out := t.inst &&& ~~~maskOf fun l => (afind t'.depth l).isSome
      let s := discardLanes (putWarp s k w) k fun a l =>
        if l = 64 then decide (t.opened ≤ a.id) && a.run &&& ~~~out = 0#64 else bit m l
      let s := if t'.depth = [] then restoreWarp s k t else s
      if n = 256 then
        let tm := teamAt s w.team
        report s { cause := 0x4D, sev := 1, flags := 2, engine := coreEngine 0 tm.core, ctx := tm.ctx, grid := tm.grid,
                   team := tm.index, warp := w.wid, lane := lowBit m, pc := t.target.toNat, syn := w64 code }
      else s

/-! ### Faults -/

/-- Kinds of cause (Table 20-1). -/
inductive CauseKind | p | ph | dh | w | u | x
  deriving DecidableEq, Repr

/-- The kind of each cause (Tables 20-3 to 20-14). -/
def causeKind (c : Nat) : CauseKind :=
  if c ≤ 0x0D then .ph
  else if c ≤ 0x0F then .x
  else if c ≤ 0x18 then .ph
  else if c = 0x19 || c = 0x1C then .u
  else if c = 0x1B || c = 0x1F then .x
  else if c ≤ 0x1E then .dh
  else if c = 0x24 || c = 0x25 || (0x28 ≤ c && c ≤ 0x2A) then .dh
  else if c ≤ 0x2E then .ph
  else if c = 0x2F then .x
  else if c = 0x30 then .w
  else if c ≤ 0x33 || c = 0x36 then .ph
  else if c = 0x34 || c = 0x35 || c = 0x3F then .p
  else if c = 0x37 || c = 0x3B || c = 0x3D then .x
  else if c ≤ 0x3E then .u
  else if c = 0x40 || c = 0x41 || c = 0x43 || c = 0x4A then .ph
  else if c ≤ 0x47 || c = 0x4B then .dh
  else if c = 0x4E || c = 0x4F then .x
  else if c ≤ 0x4D then .u
  else if c ≤ 0x58 || c = 0x5C || c = 0x5D then .dh
  else if c = 0x5A then .x
  else if c ≤ 0x5F then .u
  else if c = 0x69 || c = 0x6B then .ph
  else if c ≤ 0x66 || c = 0x68 || c = 0x6A || c = 0x6C || c = 0x6F then .dh
  else if c = 0x8F || c = 0xA9 || c = 0xAA then .dh
  else if c = 0x8B || c = 0xB8 || c = 0xB9 then .x
  else .u

/-- A cause may enter a handler (R352): kind Ph or Dh, and an access's own cause when it is deferred (R404). -/
def handlerKind (c : Nat) : Bool := causeKind c = .ph || causeKind c = .dh

/-- The trap configuration names a handler (R351). -/
def trapValid (c : Ctx) : Bool :=
  c.hentry ≠ 0 && c.hentry % 16 = 0 && c.tarea % 8192 = 0 && c.tasize ≠ 0 && c.tasize % 8192 = 0

/-- Every lane's cause may enter the handler of the context (R352, R363). -/
def entersHandler (c : Ctx) (ls : List LaneCause) : Bool :=
  trapValid c && ls.all fun l => handlerKind l.cause && c.hmask / 2 ^ (l.cause / 16) % 2 = 1

/-- The mask of the lanes of a fault: the set F. -/
def faultMask (d : Detected) : Word := d.lanes.foldl (fun m l => m ||| laneBit l.lane) 0#64

/-- The lowest lane of F with its cause. -/
def lowestLane (ls : List LaneCause) : LaneCause :=
  ls.foldl (fun a b => if b.lane < a.lane then b else a) (ls.headD ⟨0, 0, none, 0#64⟩)

/-- The record of a lane fault (R348, R363): FLAGS ADDRV, PCV, INTRY, HANDLED and DEFER. -/
def faultRecord (s : State) (k : Nat) (d : Detected) (sev action : Nat) (inTry handled : Bool) : Record :=
  let w := warpAt s k
  let tm := teamAt s w.team
  let l := lowestLane d.lanes
  { seq := d.seq, time := d.time, cause := l.cause, sev := sev, action := action
    flags := b2n l.addr.isSome + 2 + 4 * b2n inTry + 16 * b2n handled + 32 * b2n d.deferred
    engine := d.engine, ctx := tm.ctx, warp := w.wid, lane := l.lane, grid := tm.grid, team := tm.index
    pc := d.pc.toNat, addr := l.addr.getD 0, syn := l.syn }

/-- A fault is detected on lanes of a warp; its record takes its SEQ now (R345, R349). -/
def detect (s : State) (k : Nat) (d : Detected) : State :=
  let w := warpAt s k
  putWarp { s with seqNext := s.seqNext + 1 } k
    { w with detected := w.detected ++ [{ d with seq := s.seqNext, time := s.time }] }

/-- Bytes of a section of a team image (R307). -/
def sectionBytes (n : Nat) : Nat := cdiv n 256 * 256

/-- Bytes of a team image (Table 14-3). -/
def imageBytes (s : State) (t : Nat) : Nat :=
  let x := teamAt s t
  let warps := (teamWarps t x).map fun k => warpAt s k
  256 + sectionBytes (warps.foldl (fun n w => n + 12288 + 2048 * w.blocks) 0) + sectionBytes x.tileb
    + sectionBytes (16 * x.tabImage.length) + sectionBytes (98304 * x.accImage.length)
    + sectionBytes (16 * x.bars.length) + sectionBytes (if x.latch = [] then 0 else 64 + 3072 * x.latch.length)

/-- The teams of a context whose images stand in the shed. -/
def savedTeams (s : State) (c : Nat) : List Nat :=
  (s.teams.filter fun t => t.2.ctx = c && t.2.status = .saved).map (·.1)

/-- The teams of a context that are on a core, restoring ones among them. -/
def residentTeams (s : State) (c : Nat) : List Nat :=
  (s.teams.filter fun t =>
    t.2.ctx = c && (t.2.status = .resident || t.2.status = .saving || t.2.status = .restoring)).map (·.1)

/-- A shed that can be written: non-zero, in the device's own HBM, at least a header (R306). -/
def shedOk (c : Ctx) : Bool := c.shed ≠ 0 && 4096 ≤ c.shedsz && tierOf (c.shed + c.shedsz - 1) = .hbm

/-- A 4 KiB block within n bytes from an address lies in a stack that has failed or stopped (R113, R405). -/
def stacksDead (s : State) (a n : Nat) : Bool :=
  (s.hbmOut.map (· % 64) ++ s.hbmHot).any fun k => (k + 48 - a / 4096 % 48) % 48 < cdiv (a % 4096 + n) 4096

/-- The header of a shed can be written: SHED is not 0, and its first 4 KiB are writable (R306). -/
def shedHead (s : State) (c : Ctx) : Bool :=
  c.shed ≠ 0 && 4096 ≤ c.shedsz && tierOf (c.shed + 4095) = .hbm && !stacksDead s c.shed 4096

/-- The shed header written with a STATE, a FLAGS and CAUSE (Table 14-2). -/
def writeShed (s : State) (cn : Nat) (state flags cause : Nat) (dispOff : Nat) : State :=
  let c := ctxAt s cn
  if !shedHead s c then s
  else
    let ts := savedTeams s cn
    let bytes := 4096 + (if dispOff = 0 then 0 else 65536 + 8192) + ts.foldl (fun n t => n + imageBytes s t) 0
    let img := bytesOf 4 0x44454853 ++ bytesOf 2 1 ++ bytesOf 1 state ++ bytesOf 1 flags ++ bytesOf 4 cause
      ++ bytesOf 4 ts.length ++ bytesOf 8 c.savedAt ++ bytesOf 8 c.gen ++ bytesOf 8 bytes ++ bytesOf 8 dispOff
      ++ bytesOf 8 (if dispOff = 0 then 4096 else 4096 + 65536 + 8192) ++ bytesOf 8 0
    freshLines { s with mem := memWrite s.mem c.shed img } c.shed img.length

/-- The last two steps of faulting a context: its shed header and its record (R352), once the microsecond is over in which a cause of a
lower number may take the record over (R415). -/
def finishCtxFault (s : State) (cn : Nat) : State :=
  let c := ctxAt s cn
  match c.faultRec, residentTeams s cn with
  | some r, [] =>
    if c.faultAt / 1000 = s.time / 1000 then s
    else
      let s := writeShed s cn 2 1 r.cause 0
      let s := putCtx s cn { ctxAt s cn with
        faultRec := none, resident := false, inSwitch := false, dbgBusy := false, dbgHalt := false, stepping := none }
      publish s r
  | _, _ => s

/-- A context is faulted with a record (R352): dispatch stops at once and its teams are pre-empted; the first cause of a
microsecond gives way to a lower one, and a later one finds the context faulted (R415). -/
def faultCtx (s : State) (cn : Nat) (r : Record) : State :=
  let c := ctxAt s cn
  match c.faulted with
  | none => putCtx s cn { c with faulted := some r.cause, faultRec := some r, faultAt := s.time, stopped := true }
  | some old =>
    if c.faultRec.isSome && c.faultAt / 1000 = s.time / 1000 && r.cause < old then
      putCtx s cn { c with faulted := some r.cause, faultRec := some r }
    else s

/-- A cause of kind X of a context, with its record stamped now (R361). -/
def faultCtxWith (s : State) (cn : Nat) (r : Record) : State :=
  let x := stampRecord s { r with ctx := cn, sev := 2, action := 3 }
  faultCtx x.2 cn x.1

/-- The bytes of a trap frame at entry (Table 19-7). -/
def frameBytes (r : Record) (d : Detected) (w : Warp) (held : Bool) (depth : Nat) : List Byte :=
  let f := faultMask d
  recordBytes { r with engine := r.engine ||| 0x0FFFFFFF }
    ++ bytesOf 8 f.toNat ++ bytesOf 8 d.resume.toNat ++ bytesOf 4 d.pix.toNat
    ++ bytesOf 1 (b2n held + 2 * depth) ++ bytesOf 43 0
    ++ (List.range 8).flatMap (fun k => bytesOf 8 (greg w (56 + k)).toNat) ++ bytesOf 64 0
    ++ lanes.flatMap (fun l => bytesOf 8 ((d.lanes.find? fun x => x.lane = l).bind (·.addr) |>.getD 0))
    ++ lanes.flatMap (fun l => bytesOf 1 (match d.lanes.find? fun x => x.lane = l with
        | some x => x.cause | none => 0xFF))

/-- The latches as the frame holds them, from offset 0x1000 (Table 19-7). -/
def frameLatches (w : Warp) : List Byte :=
  (List.range 8).flatMap fun k =>
    lanes.flatMap fun l => bytesOf 8 ((w.latches.getD k ⟨[], 0, 0⟩).vals.getD l 0#64).toNat

/-- The virtual address of a frame (Table 19-6). -/
def frameVa (c : Ctx) (n : Nat) : Word := w64 (c.tarea + 8192 * n)

/-- The lowest frame of a context that is free. -/
def freeFrame (c : Ctx) : Option Nat :=
  (List.range (Nat.min (c.tasize / 8192) (c.frames.length + 1))).find? fun n => !c.frames.contains n

/-- A double fault of a warp's handler run (R355): the context is faulted, with the handler's PC. -/
def doubleFault (s : State) (k : Nat) (pc : Word) (lane second : Nat) : State :=
  let w := warpAt s k
  let tm := teamAt s w.team
  faultCtxWith s tm.ctx { cause := 0x0E, flags := 2, engine := coreEngine 0 tm.core, warp := w.wid, lane := lane,
                          grid := tm.grid, team := tm.index, pc := pc.toNat, syn := w64 second }

/-- Every load, ATOM and WAITADD of the warp has written or been discarded (R346). -/
def loadsDone (s : State) (k : Nat) : Bool :=
  (accsOf s k).all fun a => !returns a.kind || a.lanes.all fun l => !l.live || l.mute

/-- TAKING AN EXCEPTION: handler entry (R353). The warp waits, unchanged, while a load is outstanding or no frame is
free; a frame write that faults is a double fault. -/
def enterHandler (s : State) (k : Nat) (d : Detected) (inTry : Bool) : State :=
  let w := settleAll (warpAt s k)
  let tm := teamAt s w.team
  let c := ctxAt s tm.ctx
  if !loadsDone s k then s
  else
    match freeFrame c with
    | none => s
    | some n =>
      let d := { d with pix := pixAt w d }
      let l := lowestLane d.lanes
      let sev := if l.cause = 0x47 then 1 else b2n (handlerKind l.cause)
      let r := faultRecord s k d sev (if l.cause = 0x47 then 1 else 0) inTry true
      let depth := match w.tx with | some t => aget 0 t.depth l.lane | none => 0
      let va := frameVa c n
      match storeVa s tm.ctx va (frameBytes r d w inTry depth) with
      | .error _ => doubleFault s k d.pc l.lane 0x0E
      | .ok s1 =>
        match storeVa s1 tm.ctx (va + 0x1000#64) (frameLatches w) with
        | .error _ => doubleFault s k d.pc l.lane 0x0E
        | .ok s2 =>
          let s2 := putCtx s2 tm.ctx { ctxAt s2 tm.ctx with frames := n :: c.frames }
          let w := setG (setG (setG (settleAll (warpAt s2 k)) 60 va) 61 (w64 l.cause)) 62 (faultMask d)
          let w := { w with
            handler := some { f := faultMask d, frame := n, runs := [{ pc := slotPc (w64 c.hentry) 0, mask := faultMask d }], depth := w.latches.length
                              held := inTry, pix := d.pix }
            latches := [], detected := w.detected.drop 1, undo := [], undoLost := true
            tx := w.tx.map fun t => { t with held := inTry } }
          publish (putWarp s2 k w) r

/-- A detected fault as two: its lanes in the open instance, then the others. -/
def splitDetected (m : Word) (d : Detected) : List Detected :=
  let a := d.lanes.filter fun l => bit m l.lane
  let b := d.lanes.filter fun l => !bit m l.lane
  if a = [] || b = [] then [d] else [{ d with lanes := a }, { d with lanes := b }]

/-- TAKING A FAULT (R346): the oldest detected fault of the warp aborts lanes of a TRY region (R356), enters the handler
(R353), or faults the context (R352, R355). In handler mode a fault of the handler's threads is a double fault, and a
deferred fault of other lanes waits. -/
def takeFault (s : State) (k : Nat) : State :=
  let w := warpAt s k
  match w.detected with
  | [] => s
  | d0 :: rest =>
    match splitDetected (txLanes w) d0 with
    | [] => s
    | d :: more =>
      let w := { w with detected := d :: more ++ rest }
      let drop := fun s : State => let w := warpAt s k; putWarp s k { w with detected := w.detected.drop 1 }
      let s := putWarp s k w
      let tm := teamAt s w.team
      let c := ctxAt s tm.ctx
      let l := lowestLane d.lanes
      if (ctxAt s tm.ctx).faulted.isSome then drop s
      else if w.handler.isSome then
        if d.deferred && faultMask d &&& (match w.handler with | some h => h.f | none => 0#64) = 0#64 then s
        else doubleFault (drop s) k d.pc l.lane l.cause
      else if d.lanes.any fun x => causeKind x.cause = .x then
        faultCtx (drop s) tm.ctx (faultRecord s k d 2 3 (faultMask d &&& txLanes w ≠ 0#64) false)
      else if faultMask d &&& txLanes w ≠ 0#64 then
        if (match w.tx with | some t => t.tt | none => false) && entersHandler c d.lanes then enterHandler s k d true
        else publish (txAbort (drop s) k (faultMask d) 6 0) (faultRecord s k d 1 1 true false)
      else if entersHandler c d.lanes then enterHandler s k d false
      else faultCtx (drop s) tm.ctx (faultRecord s k d 2 3 false false)

/-- A frame is freed (R353, R354). -/
def freeHandlerFrame (s : State) (k n : Nat) : State :=
  let cn := (teamAt s (warpAt s k).team).ctx
  let c := ctxAt s cn
  putCtx s cn { c with frames := c.frames.erase n }

/-- A row of latch values read back from the frame (Table 19-7). -/
def latchFrom (bs : List Byte) (k : Nat) : List Word :=
  lanes.map fun l => w64 (leVal ((bs.drop (512 * k + 8 * l)).take 8))

/-- THE RETURN FROM A HANDLER (R354): g56 to g63 and the latches as the frame holds them, the lanes of F to RESUME when it
is not 0, PIX reinstated, the frame free and the table unfrozen. Lanes whose held instance has aborted stay at its target
with empty latches. A frame read that faults is a double fault. -/
def leaveHandler (s : State) (k : Nat) : State :=
  let w := settleAll (warpAt s k)
  let tm := teamAt s w.team
  let c := ctxAt s tm.ctx
  match w.handler with
  | none => s
  | some h =>
    let va := frameVa c h.frame
    match readVa s tm.ctx va 0x100, readVa s tm.ctx (va + 0x1000#64) 4096 with
    | .ok bs, .ok ls =>
      let f := fun o n => leVal ((bs.drop o).take n)
      let w := (List.range 8).foldl (fun w j => setG w (56 + j) (w64 (f (0x80 + 8 * j) 8))) w
      let resume := w64 (f 0x48 8)
      let moves := !(resume = 0#64 || h.gone)
      let pcs := if moves then moveLanes h.f resume w.pcs else w.pcs
      let w := { w with
        latches := if h.gone then [] else (List.range h.depth).map (fun j => ⟨latchFrom ls j, 0, 0⟩)
        pcs := normPcs pcs, holds := if moves then unhold h.f w.holds else w.holds, pix := w32 (f 0x50 4), handler := none
        pixPc := if (w.rep.filter (·.stopped)).isSome then 0#64 else resume, rep := w.rep.bind (repFrom (w32 (f 0x50 4)))
        undo := [], undoLost := true
        tx := w.tx.map fun t => { t with held := false } }
      freeHandlerFrame (putWarp s k w) k h.frame
    | .error e, _ => doubleFault s k ((h.runs.head?.map (·.pc)).getD 0#64) (lowBit h.f) e.1
    | _, .error e => doubleFault s k ((h.runs.head?.map (·.pc)).getD 0#64) (lowBit h.f) e.1

/-! ### The issue of an instruction -/

/-- How an instruction is met inside a TRY region and in a handler (R244, R186, R355). -/
structure Ban where
  inTry : Bool := false
  inHandler : Bool := false
  deriving DecidableEq, Repr

/-- Causes of stage 1, native mode only (Table 21-2): reserved control bits, distances of empty and extension slots. -/
def stage1 (s : State) : List (Nat × Word) :=
  let c := s.cur
  if !(me s).native then []
  else
    let syn := zx64 c.ctl
    let idle := (List.range 3).any fun k =>
      (fld c.ctl (12 + 3 * k) 3) ≠ 0#3 && !startsAt c.slots k
    let rep := (List.range 2).any fun k =>
      startsAt c.slots k && fld (slotWord c k) 24 8 = 0x2C#8 && startsAt c.slots (k + 1)
        && (fld c.ctl (15 + 3 * k) 3) ≠ 0#3
    (if fld c.ctl 23 9 ≠ 0#9 then [(3, syn)] else []) ++ (if idle then [(5, syn)] else [])
      ++ (if rep then [(6, syn)] else [])

/-- Writes due by the issue have taken place (R437). -/
def settleMe (s : State) : State := setMe s (settle (now s) (me s))

/-- A fault of the whole issuing run, found in stage 1 or 2 or by an instruction without lanes of its own (R379). -/
def faultRun (s : State) (kind : Nat) (cause : Nat) (syn : Word) (addr : Option Nat) : State :=
  detect s s.cur.warp
    { pc := curPc s, resume := curPc s, engine := coreEngine kind s.cur.core, pix := (me s).pix
      lanes := (lanesOf s.cur.mask).map fun l => { lane := l, cause := cause, addr := addr, syn := syn } }

/-- Lanes of the run that meet causes of stage 4: they stop at the instruction (R345). -/
def faultLanes (s : State) (ls : List LaneCause) : State :=
  if ls = [] then s
  else detect s s.cur.warp { pc := curPc s, resume := curPc s, engine := coreEngine 0 s.cur.core, lanes := ls }

/-- Lanes of the run go on to an address. -/
def goLanes (s : State) (m : Word) (pc : Word) : State := setMe s (goto m pc (me s))

/-- Lanes of the run go on to the next instruction after one of `width` slots (R38, R158). -/
def advance (s : State) (width : Nat) (m : Word) : State := goLanes s m (nextPc s.cur width)

/-- Stages 1 to 3 ended the instruction before its effect: it is not charged (Table 21-1). -/
def endEarly (s : State) : State := { s with cur := { s.cur with early := true } }

/-- The checks of stages 1 to 3 (Table 21-1), then the effect. A cause of stage 1 or 2 strikes the whole run, the lowest
first (R378, R379); what a TRY region forbids aborts its lanes with code 9 (R244), and the instruction has its effect in the rest of the run (DEDUCED, log 12: R244 speaks of
lanes inside an instance); what a handler forbids is a double fault (R387). -/
def checked (s : State) (ban : Ban) (causes : List (Nat × Word)) (eff : State → State) : State :=
  let s := settleMe s
  match lowest (stage1 s ++ causes) with
  | some c => endEarly (if s.cur.inHandler then doubleFault s s.cur.warp (curPc s) (lowBit s.cur.mask) c.1
              else faultRun s (if c.1 = 0x6B then 1 else 0) c.1 c.2 none)
  | none =>
    if s.cur.inHandler then
      if ban.inHandler then endEarly (doubleFault s s.cur.warp (curPc s) (lowBit s.cur.mask) 0x0E) else eff s
    else
      let t := txLanes (me s) &&& s.cur.mask
      if ban.inTry && t ≠ 0#64 then
        let s' := txAbort s s.cur.warp t 9 0
        let m := s.cur.mask &&& ~~~t
        if m = 0#64 then endEarly s' else eff { s' with cur := { s'.cur with mask := m } }
      else eff s

/-- The checks of a uniform instruction that a TRY region forbids: where some lanes of its run are in the region, they abort with code 9
and it takes no other effect, the rest of the run going past it (R186). -/
def checkedU (s : State) (ban : Ban) (causes : List (Nat × Word)) (eff : State → State) : State :=
  checked s ban causes fun t =>
    if t.cur.mask = s.cur.mask then eff t
    else advance t (if bit (slotWord t.cur t.cur.slot) 30 then 2 else 1) t.cur.mask

/-- The instruction is not eligible at this opportunity (R74, R386): it has not issued. -/
def notEligible (s : State) : State := { s with cur := { s.cur with held := true } }

/-- The undo log takes an entry for a logged instruction (R432). -/
def undoAppend (s : State) (ws : List PWrite) (push seed : Bool) : State :=
  let c := myCtx s
  let w := me s
  if !undoOn c then s
  else
    let full := settleAll w
    let u : Undo := { pc := curPc s, regs := ws.map (oldOf full), latch := if push then some w.latches else none
                      pcs := runsOf w, seed := w.seed, mark := seed }
    let l := undoFit (dbgReg c 0x6C) (u :: w.undo)
    setMe s { w with undo := l, undoLost := l.length ≤ w.undo.length }

/-- The undo log is emptied by an instruction that is not logged (R432). -/
def undoClear (s : State) : State := setMe s { me s with undo := [], undoLost := true }

/-- A fixed-latency instruction completes in the lanes `m` of its run: its writes land `lat` aclk after the issue (R437),
its push takes place (R81), and the lanes go on to `pc`. -/
def retireTo (s : State) (ws : List PWrite) (push : Option (List Word)) (lat : Nat) (seed : Option Word) (m pc : Word) :
    State :=
  let s := undoAppend s ws push.isSome seed.isSome
  let w := addPend (me s) (now s + lat) ws
  let w := match push with
    | none => w
    | some vals => pushLatch w (now s) lat vals (s.cur.mask &&& ~~~m)
  let w := match seed with
    | none => w
    | some x => { w with seed := x }
  goLanes (setMe s w) m pc

/-- A fixed-latency instruction of `width` slots completes in the lanes `m`. -/
def retire (s : State) (width : Nat) (ws : List PWrite) (push : Option (List Word)) (lat : Nat) (seed : Option Word)
    (m : Word) : State :=
  retireTo s ws push lat seed m (nextPc s.cur width)

end Sys2Proof.Machine
end

