-- ==== Sys2Proof/Machine/Operands.lean ====
section
/-!
DEFINITION. Operand forms: v registers, latches and their pairs and quads with the checks of stage 2 (R78, R80, R82,
R163), the fields of a lane extension word (R164 to R166), lane patterns (R167), g operands and immediates of the uniform
set (R186, R187), and the integer functions of Tables 9-2 and 10-2.
-/
namespace Sys2Proof.Machine
open Sys2Proof

/-- A v operand: its field, how many registers it takes, whether it may name a latch, its alignment, and whether it names a register
whatever its number, as a group after another does (R169). -/
structure VOp where
  f     : Nat
  n     : Nat := 1
  src   : Bool := true
  align : Nat := 1
  reg   : Bool := false
  deriving DecidableEq, Repr

/-- A source of n registers, aligned to n (R78). -/
def vsrc (f : BitVec 7) (n : Nat) : VOp := { f := f.toNat, n := n, align := n }
/-- A destination of n registers, aligned to n (R78). -/
def vdst (f : BitVec 7) (n : Nat) : VOp := { f := f.toNat, n := n, src := false, align := n }
/-- A group of n registers with no alignment of its own, no latch (R232, R240, Table 8-7). -/
def vgroup (f : Nat) (n : Nat) : VOp := { f := f, n := n, src := false }
/-- The source group of n registers after one that starts at f (R169): from a register the registers that follow, v120 and on held by no
warp; from a latch the latch n further on, none beyond b7 (log 12). -/
def vnext (f : BitVec 7) (n : Nat) : VOp :=
  { f := f.toNat + n, n := n, src := decide (f.toNat + n < 128), align := n, reg := decide (f.toNat < 120) }

/-- Stage-2 causes of a v operand (Table 21-5): field, latch state (R385), alignment, held blocks. -/
def vopCauses (t : Nat) (w : Warp) (x : VOp) : List (Nat × Word) :=
  if 120 ≤ x.f && !x.reg then
    if !x.src || x.n = 4 then [(0x13, w64 x.f)]
    else
      match w.latches[x.f - 120]? with
      | none => [(0x11, w64 (x.f - 120))]
      | some l => if w.native && t < l.born + l.lat then [(0x12, w64 (x.f - 120 + 256 * (t - l.born)))] else []
  else
    (if 8 * w.blocks < x.f + x.n then [(0x10, w64 (Nat.max x.f (8 * w.blocks)))] else [])
      ++ (if x.f % x.align ≠ 0 then [(0x14, w64 x.f)] else [])

/-- Stage-2 causes of the v operands of the current instruction. -/
def regCauses (s : State) (xs : List VOp) : List (Nat × Word) := xs.flatMap fun x => vopCauses (now s) (me s) x

/-- Stage-2 cause of a g pair that starts at an odd register (R78). -/
def gpairCauses (g : BitVec 6) : List (Nat × Word) := if g.toNat % 2 = 1 then [(0x14, w64 g.toNat)] else []

/-! ### Lane operands -/

/-- The governing predicate: p0 without an extension word (R165). -/
def laGov (o : LaOp) : Gov :=
  match o.ext with
  | none => ⟨false, 0#6⟩
  | some (.op g _ _ _ _ _ _ _) => g
  | some (.imm g _ _) => g
  | some (.conv g _ _ _ _ _) => g
/-- NOWB (Table 8-3). -/
def laNowb (o : LaOp) : Bool :=
  match o.ext with
  | none => false
  | some (.op _ n _ _ _ _ _ _) => n
  | some (.imm _ n _) => n
  | some (.conv _ n _ _ _ _) => n
/-- Source C (Table 8-4). -/
def laC (o : LaOp) : BitVec 7 :=
  match o.ext with
  | some (.op _ _ c _ _ _ _ _) => c
  | _ => 0#7
/-- RM of an operand or conversion form; 0 otherwise (R165, R206). -/
def laRm (o : LaOp) : BitVec 3 :=
  match o.ext with
  | some (.op _ _ _ _ _ _ rm _) => rm
  | some (.conv _ _ _ _ rm _) => rm
  | _ => 0#3
/-- SAT (R165). -/
def laSat (o : LaOp) : Bool :=
  match o.ext with
  | some (.op _ _ _ _ _ _ _ s) => s
  | some (.conv _ _ _ _ _ s) => s
  | _ => false
/-- The immediate of the EXK 1 form. -/
def laImm (o : LaOp) : Option (BitVec 22) :=
  match o.ext with
  | some (.imm _ _ i) => some i
  | _ => none
/-- Slots of a lane instruction: 2 with an extension word (R159). -/
def laWidth (o : LaOp) : Nat := if o.ext.isSome then 2 else 1

/-- The lanes at which a governing predicate is true (R84). -/
def govMask (w : Warp) (g : Gov) : Word := if g.neg then ~~~prow w g.pn.toNat else prow w g.pn.toNat

/-- The values that a register or latch field holds in every lane, 32 bits or a pair of 64 (R78, R82). -/
def srcRow (w : Warp) (f : BitVec 7) (wide : Bool) : List Word :=
  if 120 ≤ f.toNat then
    let l := w.latches.getD (f.toNat - 120) ⟨[], 0, 0⟩
    lanes.map fun k => let x := l.vals.getD k 0#64; if wide then x else zx64 (w32 x.toNat)
  else if wide then
    lanes.map fun k => zx64 (vreg w f.toNat k) ||| (zx64 (vreg w (f.toNat + 1) k) <<< 32)
  else (vrow w f.toNat).map zx64

/-- The lane that supplies lane l under a pattern (R167). -/
def patLane (pat : Pat) (pv l : Nat) : Nat :=
  let blk := l - l % 32
  match pat with
  | .none => l
  | .rot => blk + (l % 32 + pv) % 32
  | .rev => blk + 31 - l % 32
  | .xor8 => l ^^^ pv
  | .bc => blk + pv

/-- A row under a pattern; a lane at or beyond W supplies 0 (R167). -/
def patRow (pat : Pat) (pv : Nat) (row : List Word) : List Word :=
  match pat with
  | .none => row
  | _ => lanes.map fun l => row.getD (patLane pat pv l) 0#64

/-- Source A after its pattern (R206). -/
def srcA (w : Warp) (o : LaOp) (wide : Bool) : List Word :=
  let row := srcRow w o.a wide
  match o.ext with
  | some (.op _ _ _ false pat pv _ _) => patRow pat pv.toNat row
  | _ => row

/-- How an immediate reads (R166). -/
inductive ImmUse | int (n : Nat) | fp32 | half
  deriving DecidableEq, Repr

/-- The immediate as an operand (R166, R210). -/
def immVal (u : ImmUse) (i : BitVec 22) : Word :=
  match u with
  | .int n => if n = 16 then let h := (i.toNat % 65536); w64 (h + 65536 * h) else w64 ((sx64 i).toNat % 2 ^ n)
  | .fp32 => w64 (i.toNat * 1024)
  | .half => let h := (i.toNat % 65536); w64 (h + 65536 * h)

/-- Source B after its pattern, or the immediate in every lane (R206). -/
def srcB (w : Warp) (o : LaOp) (wide : Bool) (u : ImmUse) : List Word :=
  match o.ext with
  | some (.imm _ _ i) => List.replicate 64 (immVal u i)
  | some (.op _ _ _ true pat pv _ _) => patRow pat pv.toNat (srcRow w o.b wide)
  | _ => srcRow w o.b wide

/-- Source C. -/
def srcC (w : Warp) (o : LaOp) (wide : Bool) : List Word := srcRow w (laC o) wide

/-- The result of a lane instruction over its active lanes: rows of registers from D on, or a predicate, and the generator
state after it. -/
structure LaneOut where
  rows : List (List W32) := []
  mask : Word := 0#64
  seed : Option Word := none
  deriving DecidableEq, Repr

/-- A lane instruction of fixed latency: its sources, its destination in v registers (D and how many) or in a predicate,
its latency, further stage-2 causes, the stage-4 cause of a lane, and its result over the active lanes. -/
structure LaneOp where
  gov  : Gov
  srcs : List VOp
  d    : BitVec 7
  n    : Nat := 1
  pred : Bool := false
  nowb : Bool := false
  lat  : Nat
  more : Warp → List (Nat × Word) := fun _ => []
  bad  : Warp → Nat → Option (Nat × Word) := fun _ _ => none
  val  : Warp → Word → LaneOut

/-- Stage-2 operands of a lane instruction. -/
def laneVops (x : LaneOp) : List VOp := x.srcs ++ (if x.pred then [] else [vdst x.d x.n])

/-- The writes of a lane instruction in the lanes `act` (R79, R207). -/
def laneWrites (x : LaneOp) (act : Word) (r : LaneOut) : List PWrite :=
  if x.pred then [.p (x.d.toNat % 64) act r.mask]
  else if x.nowb then []
  else (List.range x.n).map fun k => .v (x.d.toNat + k) act (r.rows.getD k zeroRow)

/-- What the latches take: in active lanes the lowest pair of the result, in others what D holds (R81). A result of 32 bits leaves the
high half of the entry 0, which is what a pair operand then reads (log 11). -/
def lanePush (w : Warp) (x : LaneOp) (act : Word) (r : LaneOut) : Option (List Word) :=
  if x.pred then none
  else
    let lo := r.rows.getD 0 zeroRow
    let hi := if x.n = 1 then zeroRow else r.rows.getD 1 zeroRow
    let dlo := vrow w x.d.toNat
    let dhi := if x.n = 1 then zeroRow else vrow w (x.d.toNat + 1)
    some (lanes.map fun l =>
      if bit act l then zx64 (laneAt lo l) ||| (zx64 (laneAt hi l) <<< 32)
      else zx64 (laneAt dlo l) ||| (zx64 (laneAt dhi l) <<< 32))

/-- The lanes of `act` that meet a stage-4 cause. -/
def badLanes (w : Warp) (x : LaneOp) (act : Word) : List LaneCause :=
  (lanesOf act).filterMap fun l => (x.bad w l).map fun c => ⟨l, c.1, none, c.2⟩

/-- Lanes of a list of causes as a mask. -/
def causeMask (ls : List LaneCause) : Word := ls.foldl (fun m l => m ||| laneBit l.lane) 0#64

/-- The issue of a fixed-latency lane instruction (R207, R378), with what else its issue does to the core. -/
def runLaneVia (s : State) (width : Nat) (x : LaneOp) (pre : State → State) : State :=
  checked s {} (regCauses s (laneVops x) ++ x.more (me s)) fun s =>
    let s := pre s
    let w := me s
    let act := s.cur.mask &&& govMask w x.gov
    let bad := badLanes w x act
    let ok := act &&& ~~~causeMask bad
    let r := x.val w ok
    retire (faultLanes s bad) width (laneWrites x ok r) (lanePush w x ok r) x.lat r.seed
      (s.cur.mask &&& ~~~causeMask bad)

/-- The issue of a fixed-latency lane instruction (R207, R378). -/
def runLane (s : State) (width : Nat) (x : LaneOp) : State := runLaneVia s width x fun s => s

/-- A predicate source with its negation in bit 6 of the field (R213, R223). -/
def predSrc (w : Warp) (f : BitVec 7) : Word :=
  let m := prow w (f.toNat % 64)
  if bit f 6 then ~~~m else m

/-- Rows of n registers from a row of 64-bit results. -/
def splitRows (n : Nat) (row : List Word) : List (List W32) :=
  if n = 1 then [row.map fun x => w32 x.toNat]
  else [row.map fun x => w32 x.toNat, row.map fun x => w32 (x.toNat / 2 ^ 32)]

/-- A result computed lane by lane from three sources. -/
def map3 (f : Word → Word → Word → Word) (a b c : List Word) : List Word :=
  (List.zip a (List.zip b c)).map fun x => f x.1 x.2.1 x.2.2

/-- A result computed lane by lane from two sources. -/
def map2 (f : Word → Word → Word) (a b : List Word) : List Word := (List.zip a b).map fun x => f x.1 x.2

/-! ### Integer functions -/

/-- sat_i or sat_n to n bits (R8). -/
def satInt (sg : Bool) (n : Nat) (x : Int) : Int :=
  let lo : Int := if sg then -(2 ^ (n - 1) : Nat) else 0
  let hi : Int := if sg then (2 ^ (n - 1) : Nat) - 1 else (2 ^ n : Nat) - 1
  if x < lo then lo else if hi < x then hi else x

/-- An integer function: signedness, width, the bits of a, b and c or the old destination, and its exact value. -/
abbrev IntF := Bool → Nat → Nat → Nat → Nat → Int

/-- a + b. -/
def fnAdd : IntF := fun sg n a b _ => ival sg n a + ival sg n b
/-- a - b. -/
def fnSub : IntF := fun sg n a b _ => ival sg n a - ival sg n b
/-- a * b. -/
def fnMul : IntF := fun sg n a b _ => ival sg n a * ival sg n b
/-- floor(a * b / 2^n). -/
def fnMulh : IntF := fun sg n a b _ => (ival sg n a * ival sg n b) / (2 ^ n : Nat)
/-- a * b + c. -/
def fnMad : IntF := fun sg n a b c => ival sg n a * ival sg n b + ival sg n c
/-- a / b toward zero; all ones for b = 0. -/
def fnDiv : IntF := fun sg n a b _ => if b % 2 ^ n = 0 then -1 else (ival sg n a).tdiv (ival sg n b)
/-- The remainder with the sign of a; a for b = 0. -/
def fnRem : IntF := fun sg n a b _ => if b % 2 ^ n = 0 then ival sg n a else (ival sg n a).tmod (ival sg n b)
/-- The smaller. -/
def fnMin : IntF := fun sg n a b _ => if ival sg n a ≤ ival sg n b then ival sg n a else ival sg n b
/-- The larger. -/
def fnMax : IntF := fun sg n a b _ => if ival sg n a ≤ ival sg n b then ival sg n b else ival sg n a
/-- abs(a), or a for an unsigned type. -/
def fnAbs : IntF := fun sg n a _ _ => if ival sg n a < 0 then -ival sg n a else ival sg n a
/-- a and b. -/
def fnAnd : IntF := fun _ n a b _ => ((a % 2 ^ n &&& b % 2 ^ n : Nat) : Int)
/-- a or b. -/
def fnOr : IntF := fun _ n a b _ => ((a % 2 ^ n ||| b % 2 ^ n : Nat) : Int)
/-- a xor b. -/
def fnXor : IntF := fun _ n a b _ => ((a % 2 ^ n ^^^ b % 2 ^ n : Nat) : Int)
/-- a and not b. -/
def fnAndn : IntF := fun _ n a b _ => ((a % 2 ^ n &&& (2 ^ n - 1 - b % 2 ^ n) : Nat) : Int)
/-- not a. -/
def fnNot : IntF := fun _ n a _ _ => ((2 ^ n - 1 - a % 2 ^ n : Nat) : Int)
/-- Leading zero bits of a. -/
def fnClz : IntF := fun _ n a _ _ => ((n - bitLenFrom (a % 2 ^ n) n : Nat) : Int)
/-- One bits of a. -/
def fnPopc : IntF := fun _ n a _ _ => ((popFrom (a % 2 ^ n) n : Nat) : Int)
/-- a * 2^s, 0 from s = n on. -/
def fnShl : IntF := fun _ n a b _ => if n ≤ b then 0 else ((a % 2 ^ n * 2 ^ b : Nat) : Int)
/-- floor(a / 2^s), a unsigned. -/
def fnShr : IntF := fun _ n a b _ => if n ≤ b then 0 else ((a % 2 ^ n / 2 ^ b : Nat) : Int)
/-- floor(a / 2^s), a signed. -/
def fnSar : IntF := fun _ n a b _ => sval n a / (2 ^ (Nat.min b n) : Nat)
/-- USAR for signed types, USHR for unsigned ones (VSHR, Table 10-2). -/
def fnVshr : IntF := fun sg n a b c => if sg then fnSar sg n a b c else fnShr sg n a b c
/-- a rotated left by s mod n. -/
def fnRot : IntF := fun _ n a b _ =>
  ((a % 2 ^ n * 2 ^ (b % n) % 2 ^ n + a % 2 ^ n / 2 ^ (n - b % n) : Nat) : Int)
/-- Field of a at pos of len bits (Table 9-2). -/
def fnBfx : IntF := fun sg n a b _ =>
  let pos := b % 256
  let len := Nat.min (b / 256 % 256) n
  if len = 0 then 0 else ival sg len (((ival sg n a / (2 ^ pos : Nat)) % (2 ^ len : Nat)).toNat)
/-- d with its field at pos replaced by the low len bits of a (Table 9-2). -/
def fnBfi : IntF := fun _ n a b d =>
  let pos := b % 256
  let len := Nat.min (b / 256 % 256) n
  let mask := (2 ^ len - 1) * 2 ^ pos % 2 ^ n
  (((d % 2 ^ n &&& (2 ^ n - 1 - mask)) ||| ((a * 2 ^ pos) &&& mask) : Nat) : Int)

/-- The low n bits of an exact value, saturated first when SAT = 1 (R210). -/
def finish (sg sat : Bool) (n : Nat) (x : Int) : Nat := wrapN n (if sat then satInt sg n x else x)

/-- The target of a packet offset (R160). -/
def pktTarget {n : Nat} (pkt : Word) (off : BitVec n) : Word := slotPc (pkt + 16#64 * sx64 off) 0

/-! ### Uniform operands -/

/-- Slots of a uniform instruction with an optional extension word. -/
def extWidth {α : Type} (x : Option α) : Nat := if x.isSome then 2 else 1

/-- A uniform governing predicate holds (R84, R186). -/
def qgovHolds (w : Warp) : Option QGov → Bool
  | none => true
  | some g => qreg w g.qn.toNat != g.neg

/-- The predicate of a "predicate only" form. -/
def qpredHolds (w : Warp) (q : QPred) : Bool :=
  match q with
  | none => true
  | some g => qgovHolds w g

/-- The predicate of a layout-UA form. -/
def uaHolds (w : Warp) (o : UaOp) : Bool :=
  match o.ext with
  | none => true
  | some e => qgovHolds w e.gov

/-- Source B of a layout-UA form: gr(B), or the immediate when I = 1 (R186, R187). -/
def uaB (w : Warp) (o : UaOp) : Word :=
  match o.ext with
  | some e => if e.i then sx64 e.imm else greg w o.b.toNat
  | none => greg w o.b.toNat

/-- Width of a uniform type (R187). -/
def utyBits : UType → Nat | .n64 => 64 | .i64 => 64 | .n32 => 32 | .i32 => 32
/-- Signedness of a uniform type. -/
def utySigned : UType → Bool | .i64 => true | .i32 => true | _ => false

end Sys2Proof.Machine
end

