-- ==== Sys2Proof/Machine/LaneInt.lean ====
section
/-!
DEFINITION. Lane integer instructions, moves, compares and predicate logic (chapter 10, R210 to R213).
-/
namespace Sys2Proof.Machine
open Sys2Proof

/-- Registers of an integer type: 2 for the 64-bit types (R207). -/
def ityRegs : IType → Nat | .i64 => 2 | .n64 => 2 | _ => 1
/-- Bits of an element (R210). -/
def ityBits : IType → Nat | .i32 => 32 | .n32 => 32 | .i64 => 64 | .n64 => 64 | _ => 16
/-- Signedness (R210). -/
def itySigned : IType → Bool | .i32 => true | .i64 => true | .i16x2 => true | _ => false

/-- One lane of an integer instruction: one element, or two of 16 bits (R210). -/
def intWord (ty : IType) (sat : Bool) (f : IntF) (a b c : Word) : Word :=
  let sg := itySigned ty
  let n := ityBits ty
  let r := finish sg sat n (f sg n (a.toNat % 2 ^ n) (b.toNat % 2 ^ n) (c.toNat % 2 ^ n))
  if n = 16 then
    let h := fun x : Word => x.toNat / 65536 % 65536
    w64 (r + 65536 * finish sg sat n (f sg n (h a) (h b) (h c)))
  else w64 r

/-- Which sources an integer instruction reads: A; A and B; A, B and C; A and a single-register B; those and D. -/
inductive IntSrc | a | ab | abc | ashift | afield
  deriving DecidableEq, Repr

/-- A lane integer instruction (R210, Table 10-1). -/
def intOp (ty : IType) (o : LaOp) (lat lat64 : Nat) (u : IntSrc) (f : IntF) : LaneOp :=
  let n := ityRegs ty
  let nb := if u = .ashift || u = .afield then 1 else n
  let imm := (laImm o).isSome
  { gov := laGov o
    srcs := [vsrc o.a n] ++ (if u = .a || imm then [] else [vsrc o.b nb]) ++ (if u = .abc then [vsrc (laC o) n] else [])
    d := o.d
    n := n
    nowb := laNowb o
    lat := if n = 2 then lat64 else lat
    val := fun w _ =>
      let a := srcA w o (n = 2)
      let b := if u = .a then List.replicate 64 0#64 else srcB w o (nb = 2) (.int (ityBits ty))
      let c := match u with
        | .abc => srcC w o (n = 2)
        | .afield => srcRow w o.d (n = 2)
        | _ => List.replicate 64 0#64
      { rows := splitRows n (map3 (intWord ty (laSat o) f) a b c) } }

/-- VADD (R210). -/
def vaddOp (ty : IType) (o : LaOp) : LaneOp := intOp ty o 2 3 .ab fnAdd
/-- VADD (R210). -/
def execVadd (ty : IType) (o : LaOp) (s : State) : Host.Outcome State Fault Refusal :=
  .next (runLane s (laWidth o) (vaddOp ty o))

/-- VSUB (R210). -/
def vsubOp (ty : IType) (o : LaOp) : LaneOp := intOp ty o 2 3 .ab fnSub
/-- VSUB (R210). -/
def execVsub (ty : IType) (o : LaOp) (s : State) : Host.Outcome State Fault Refusal :=
  .next (runLane s (laWidth o) (vsubOp ty o))

/-- VMUL (R210). -/
def vmulOp (ty : IType) (o : LaOp) : LaneOp := intOp ty o 4 6 .ab fnMul
/-- VMUL (R210). -/
def execVmul (ty : IType) (o : LaOp) (s : State) : Host.Outcome State Fault Refusal :=
  .next (runLane s (laWidth o) (vmulOp ty o))

/-- VMULH (R210). -/
def vmulhOp (ty : IType) (o : LaOp) : LaneOp := intOp ty o 4 6 .ab fnMulh
/-- VMULH (R210). -/
def execVmulh (ty : IType) (o : LaOp) (s : State) : Host.Outcome State Fault Refusal :=
  .next (runLane s (laWidth o) (vmulhOp ty o))

/-- VMAD (R210). -/
def vmadOp (ty : IType) (o : LaOp) : LaneOp := intOp ty o 4 6 .abc fnMad
/-- VMAD (R210). -/
def execVmad (ty : IType) (o : LaOp) (s : State) : Host.Outcome State Fault Refusal :=
  .next (runLane s (laWidth o) (vmadOp ty o))

/-- VMIN (R210). -/
def vminOp (ty : IType) (o : LaOp) : LaneOp := intOp ty o 2 3 .ab fnMin
/-- VMIN (R210). -/
def execVmin (ty : IType) (o : LaOp) (s : State) : Host.Outcome State Fault Refusal :=
  .next (runLane s (laWidth o) (vminOp ty o))

/-- VMAX (R210). -/
def vmaxOp (ty : IType) (o : LaOp) : LaneOp := intOp ty o 2 3 .ab fnMax
/-- VMAX (R210). -/
def execVmax (ty : IType) (o : LaOp) (s : State) : Host.Outcome State Fault Refusal :=
  .next (runLane s (laWidth o) (vmaxOp ty o))

/-- VABS (R210). -/
def vabsOp (ty : IType) (o : LaOp) : LaneOp := intOp ty o 2 3 .a fnAbs
/-- VABS (R210). -/
def execVabs (ty : IType) (o : LaOp) (s : State) : Host.Outcome State Fault Refusal :=
  .next (runLane s (laWidth o) (vabsOp ty o))

/-- VAND (R210). -/
def vandOp (ty : IType) (o : LaOp) : LaneOp := intOp ty o 2 3 .ab fnAnd
/-- VAND (R210). -/
def execVand (ty : IType) (o : LaOp) (s : State) : Host.Outcome State Fault Refusal :=
  .next (runLane s (laWidth o) (vandOp ty o))

/-- VOR (R210). -/
def vorOp (ty : IType) (o : LaOp) : LaneOp := intOp ty o 2 3 .ab fnOr
/-- VOR (R210). -/
def execVor (ty : IType) (o : LaOp) (s : State) : Host.Outcome State Fault Refusal :=
  .next (runLane s (laWidth o) (vorOp ty o))

/-- VXOR (R210). -/
def vxorOp (ty : IType) (o : LaOp) : LaneOp := intOp ty o 2 3 .ab fnXor
/-- VXOR (R210). -/
def execVxor (ty : IType) (o : LaOp) (s : State) : Host.Outcome State Fault Refusal :=
  .next (runLane s (laWidth o) (vxorOp ty o))

/-- VNOT (R210). -/
def vnotOp (ty : IType) (o : LaOp) : LaneOp := intOp ty o 2 3 .a fnNot
/-- VNOT (R210). -/
def execVnot (ty : IType) (o : LaOp) (s : State) : Host.Outcome State Fault Refusal :=
  .next (runLane s (laWidth o) (vnotOp ty o))

/-- VSHL (R210). -/
def vshlOp (ty : IType) (o : LaOp) : LaneOp := intOp ty o 2 3 .ashift fnShl
/-- VSHL (R210). -/
def execVshl (ty : IType) (o : LaOp) (s : State) : Host.Outcome State Fault Refusal :=
  .next (runLane s (laWidth o) (vshlOp ty o))

/-- VSHR (R210). -/
def vshrOp (ty : IType) (o : LaOp) : LaneOp := intOp ty o 2 3 .ashift fnVshr
/-- VSHR (R210). -/
def execVshr (ty : IType) (o : LaOp) (s : State) : Host.Outcome State Fault Refusal :=
  .next (runLane s (laWidth o) (vshrOp ty o))

/-- VBFX (R210). -/
def vbfxOp (ty : IType) (o : LaOp) : LaneOp := intOp ty o 2 3 .ashift fnBfx
/-- VBFX (R210). -/
def execVbfx (ty : IType) (o : LaOp) (s : State) : Host.Outcome State Fault Refusal :=
  .next (runLane s (laWidth o) (vbfxOp ty o))

/-- VBFI (R210). -/
def vbfiOp (ty : IType) (o : LaOp) : LaneOp := intOp ty o 2 3 .afield fnBfi
/-- VBFI (R210). -/
def execVbfi (ty : IType) (o : LaOp) (s : State) : Host.Outcome State Fault Refusal :=
  .next (runLane s (laWidth o) (vbfiOp ty o))

/-- VCLZ (R210). -/
def vclzOp (ty : IType) (o : LaOp) : LaneOp := intOp ty o 2 3 .a fnClz
/-- VCLZ (R210). -/
def execVclz (ty : IType) (o : LaOp) (s : State) : Host.Outcome State Fault Refusal :=
  .next (runLane s (laWidth o) (vclzOp ty o))

/-- VPOPC (R210). -/
def vpopcOp (ty : IType) (o : LaOp) : LaneOp := intOp ty o 2 3 .a fnPopc
/-- VPOPC (R210). -/
def execVpopc (ty : IType) (o : LaOp) (s : State) : Host.Outcome State Fault Refusal :=
  .next (runLane s (laWidth o) (vpopcOp ty o))

/-- VMOV of a register (R211). -/
def vmovOp (o : LaOp) : LaneOp :=
  { gov := laGov o, srcs := [vsrc o.a 1], d := o.d, nowb := laNowb o, lat := 2
    val := fun w _ => { rows := splitRows 1 (srcA w o false) } }
/-- VMOV of a register (R211). -/
def execVmov (o : LaOp) (s : State) : Host.Outcome State Fault Refusal := .next (runLane s (laWidth o) (vmovOp o))

/-- VMOV of an immediate (R211). -/
def vmovImmOp (o : LaOp) : LaneOp :=
  { gov := laGov o, srcs := [], d := o.d, nowb := laNowb o, lat := 2
    val := fun w _ => { rows := splitRows 1 (srcB w o false (.int 32)) } }
/-- VMOV of an immediate (R211). -/
def execVmovImm (o : LaOp) (s : State) : Host.Outcome State Fault Refusal :=
  .next (runLane s (laWidth o) (vmovImmOp o))

/-- VMOVH: bits 31:22 of D replaced by bits 9:0 of the immediate (R166, R211). -/
def vmovhOp (o : LaOp) : LaneOp :=
  { gov := laGov o, srcs := [], d := o.d, nowb := laNowb o, lat := 2
    val := fun w _ => { rows := [(vrow w o.d.toNat).map fun x =>
      setFld x 22 10 (match laImm o with | some i => i.toNat | none => 0)] } }
/-- VMOVH (R211). -/
def execVmovh (o : LaOp) (s : State) : Host.Outcome State Fault Refusal := .next (runLane s (laWidth o) (vmovhOp o))

/-- VSEL: A where the predicate of field C holds, B elsewhere (R211). -/
def vselOp (o : LaOp) : LaneOp :=
  { gov := laGov o, srcs := [vsrc o.a 1, vsrc o.b 1], d := o.d, nowb := laNowb o, lat := 2
    val := fun w _ =>
      let p := predSrc w (laC o)
      let a := srcA w o false
      let b := srcB w o false (.int 32)
      { rows := [lanes.map fun l => w32 ((if bit p l then a.getD l 0#64 else b.getD l 0#64)).toNat] } }
/-- VSEL (R211). -/
def execVsel (o : LaOp) (s : State) : Host.Outcome State Fault Refusal := .next (runLane s (laWidth o) (vselOp o))

/-- The lanes at which a relation of two rows holds. -/
def rowMask (f : Word → Word → Bool) (a b : List Word) : Word :=
  maskOf fun l => f (a.getD l 0#64) (b.getD l 0#64)

/-- VCMP (R212). -/
def vcmpOp (cond : VCond) (o : LaOp) : LaneOp :=
  { gov := laGov o, srcs := [vsrc o.a 1] ++ (if (laImm o).isSome then [] else [vsrc o.b 1])
    d := o.d, pred := true, lat := 2
    val := fun w _ =>
      let f := fun a b : Word => vcondHolds cond (w32 a.toNat) (w32 b.toNat)
      { mask := rowMask f (srcA w o false) (srcB w o false (.int 32)) } }
/-- VCMP (R212). -/
def execVcmp (cond : VCond) (o : LaOp) (s : State) : Host.Outcome State Fault Refusal :=
  .next (runLane s (laWidth o) (vcmpOp cond o))

/-- An FCMP condition on two fp32 codes (R212). -/
def fcondHolds (c : FCond) (a b : W32) : Bool :=
  let x := ofFp32 a
  let y := ofFp32 b
  let nan := isNan x || isNan y
  match c with
  | .eq => numEq x y
  | .ne => nan || !numEq x y
  | .lt => numLt x y
  | .le => numLt x y || numEq x y
  | .gt => numLt y x
  | .ge => numLt y x || numEq x y
  | .num => !nan
  | .nan => nan

/-- FCMP (R212). -/
def fcmpOp (cond : FCond) (o : LaOp) : LaneOp :=
  { gov := laGov o, srcs := [vsrc o.a 1, vsrc o.b 1], d := o.d, pred := true, lat := 2
    val := fun w _ =>
      let f := fun a b : Word => fcondHolds cond (w32 a.toNat) (w32 b.toNat)
      { mask := rowMask f (srcA w o false) (srcB w o false .fp32) } }
/-- FCMP (R212). -/
def execFcmp (cond : FCond) (o : LaOp) (s : State) : Host.Outcome State Fault Refusal :=
  .next (runLane s (laWidth o) (fcmpOp cond o))

/-- A PLOG instruction (R213). -/
def plogOp (o : LaOp) (f : Word → Word → Word) : LaneOp :=
  { gov := laGov o, srcs := [], d := o.d, pred := true, lat := 2
    val := fun w _ => { mask := f (predSrc w o.a) (predSrc w o.b) } }

/-- PAND (R213). -/
def pandOp (o : LaOp) : LaneOp := plogOp o fun a b => a &&& b
/-- PAND (R213). -/
def execPand (o : LaOp) (s : State) : Host.Outcome State Fault Refusal := .next (runLane s (laWidth o) (pandOp o))
/-- POR (R213). -/
def porOp (o : LaOp) : LaneOp := plogOp o fun a b => a ||| b
/-- POR (R213). -/
def execPor (o : LaOp) (s : State) : Host.Outcome State Fault Refusal := .next (runLane s (laWidth o) (porOp o))
/-- PXOR (R213). -/
def pxorOp (o : LaOp) : LaneOp := plogOp o fun a b => a ^^^ b
/-- PXOR (R213). -/
def execPxor (o : LaOp) (s : State) : Host.Outcome State Fault Refusal := .next (runLane s (laWidth o) (pxorOp o))
/-- PMOV (R213). -/
def pmovOp (o : LaOp) : LaneOp := plogOp o fun a _ => a
/-- PMOV (R213). -/
def execPmov (o : LaOp) (s : State) : Host.Outcome State Fault Refusal := .next (runLane s (laWidth o) (pmovOp o))

end Sys2Proof.Machine
end

