-- ==== Sys2Proof/Machine/LaneFloat.lean ====
section
/-!
DEFINITION. Lane floating instructions, special functions, the online softmax step, conversions, quantisation, packing and
packed dot products (chapter 10, R214 to R220; chapter 5).
-/
namespace Sys2Proof.Machine
open Sys2Proof

/-! ### Format slots (Table 3-3) -/

/-- Slot k of the warp (R53). -/
def slotReg (w : Warp) (k : Nat) : Word := w.fs.getD k 0#64
/-- The element format of an EF code (Table 3-3). -/
def efDec (c : Nat) : Option EFmt :=
  match c with
  | 0 => some .fp32 | 1 => some .fp16 | 2 => some .bf16 | 3 => some .e4m3 | 4 => some .e5m2 | 5 => some .e2m3
  | 6 => some .e3m2 | 7 => some .e2m1 | 8 => some .i8 | 9 => some .n8 | 10 => some .ob8 | 11 => some .ob4 | _ => none
/-- EF of a slot. -/
def slotEf (x : Word) : Option EFmt := efDec (fld x 0 4).toNat
/-- BLK of a slot. -/
def slotBlk (x : Word) : Nat := (fld x 8 4).toNat
/-- SCF of a slot. -/
def slotScf (x : Word) : Nat := (fld x 12 4).toNat
/-- TS of a slot. -/
def slotTs (x : Word) : Bool := bit x 17
/-- ZPM of a slot. -/
def slotZpm (x : Word) : Nat := (fld x 18 2).toNat
/-- SAT of a slot. -/
def slotSat (x : Word) : Bool := bit x 20
/-- RND of a slot. -/
def slotRnd (x : Word) : Rnd := rndDec (fld x 21 3).toNat
/-- ZPT of a slot. -/
def slotZpt (x : Word) : Nat := (fld x 24 8).toNat
/-- TSCALE of a slot. -/
def slotTscale (x : Word) : W32 := w32 (fld x 32 32).toNat

/-! ### Stochastic rounding -/

/-- The random bits of element e of lane l, for `k` elements a lane, drawn in the order of R102 for the lanes `act`. -/
def randAt (us : List Nat) (act : Word) (k l e : Nat) : Nat := us.getD (popFrom act.toNat l * k + e) 0

/-- The generator steps of an instruction over its active lanes, when it rounds stochastically (R101, R102). -/
def drawRands (w : Warp) (rm : Rnd) (act : Word) (k : Nat) : List Nat × Option Word :=
  if rm = .stochastic then
    let r := srSteps (popCount act * k) w.seed
    (r.1, some r.2)
  else ([], none)

/-! ### FADD to FABS -/

/-- The format of a floating type (R214). -/
def ftyFmt : FType → FlFmt | .fp32 => fp32 | .fp16x2 => fp16 | .bf16x2 => bf16
/-- Bits of an element. -/
def ftyBits : FType → Nat | .fp32 => 32 | _ => 16
/-- Elements of a register. -/
def ftyCount : FType → Nat | .fp32 => 1 | _ => 2
/-- How an immediate of the type reads (R166). -/
def ftyImm : FType → ImmUse | .fp32 => .fp32 | _ => .half

/-- One lane of an instruction on packed elements of n bits: the function of the element's number and bits. -/
def packedWord (n count : Nat) (f : Nat → Nat → Nat → Nat → Nat) (a b c : Word) : W32 :=
  let e := fun (x : Word) k => x.toNat / 2 ^ (n * k) % 2 ^ n
  w32 ((List.range count).foldl (fun r k => r + f k (e a k) (e b k) (e c k) * 2 ^ (n * k)) 0)

/-- A floating instruction that rounds once (R214): `f` is the exact result under the mode. -/
def fltOp (ty : FType) (o : LaOp) (useC : Bool) (f : Bool → Num → Num → Num → Num) : LaneOp :=
  let imm := (laImm o).isSome
  { gov := laGov o
    srcs := [vsrc o.a 1] ++ (if imm then [] else [vsrc o.b 1]) ++ (if useC then [vsrc (laC o) 1] else [])
    d := o.d, nowb := laNowb o, lat := 4
    val := fun w act =>
      let rm := rndDec (laRm o).toNat
      let fm := ftyFmt ty
      let us := drawRands w rm act (ftyCount ty)
      let a := srcA w o false
      let b := srcB w o false (ftyImm ty)
      let c := srcC w o false
      let row := lanes.map fun l =>
        packedWord (ftyBits ty) (ftyCount ty) (fun k x y z =>
          roundNum (.fl fm) rm (laSat o) (f (rm = .towardNeg) (flVal fm x) (flVal fm y) (flVal fm z))
            (randAt us.1 act (ftyCount ty) l k))
          (a.getD l 0#64) (b.getD l 0#64) (c.getD l 0#64)
      { rows := [row], seed := us.2 } }

/-- A floating instruction that never rounds (R214): `f` gives the code of an element. -/
def fcodeOp (ty : FType) (o : LaOp) (useB : Bool) (f : Nat → Nat → Nat) : LaneOp :=
  let imm := (laImm o).isSome
  { gov := laGov o
    srcs := [vsrc o.a 1] ++ (if imm || !useB then [] else [vsrc o.b 1])
    d := o.d, nowb := laNowb o, lat := 2
    val := fun w _ =>
      let a := srcA w o false
      let b := if useB then srcB w o false (ftyImm ty) else List.replicate 64 0#64
      { rows := [lanes.map fun l =>
          packedWord (ftyBits ty) (ftyCount ty) (fun _ x y _ => f x y) (a.getD l 0#64) (b.getD l 0#64) 0#64] } }

/-- FADD (R214). -/
def faddOp (ty : FType) (o : LaOp) : LaneOp := fltOp ty o false fun down a b _ => sumNum down [a, b]
/-- FADD (R214). -/
def execFadd (ty : FType) (o : LaOp) (s : State) : Host.Outcome State Fault Refusal :=
  .next (runLane s (laWidth o) (faddOp ty o))

/-- FSUB (R214). -/
def fsubOp (ty : FType) (o : LaOp) : LaneOp := fltOp ty o false fun down a b _ => sumNum down [a, negNum b]
/-- FSUB (R214). -/
def execFsub (ty : FType) (o : LaOp) (s : State) : Host.Outcome State Fault Refusal :=
  .next (runLane s (laWidth o) (fsubOp ty o))

/-- FMUL (R214). -/
def fmulOp (ty : FType) (o : LaOp) : LaneOp := fltOp ty o false fun _ a b _ => mulNum a b
/-- FMUL (R214). -/
def execFmul (ty : FType) (o : LaOp) (s : State) : Host.Outcome State Fault Refusal :=
  .next (runLane s (laWidth o) (fmulOp ty o))

/-- FFMA: the product is not rounded before the sum (R214). -/
def ffmaOp (ty : FType) (o : LaOp) : LaneOp := fltOp ty o true fun down a b c => sumNum down [mulNum a b, c]
/-- FFMA: the product is not rounded before the sum (R214). -/
def execFfma (ty : FType) (o : LaOp) (s : State) : Host.Outcome State Fault Refusal :=
  .next (runLane s (laWidth o) (ffmaOp ty o))

/-- FMIN (R214). -/
def fminOp (ty : FType) (o : LaOp) : LaneOp := fcodeOp ty o true (fMinMax (ftyFmt ty) false)
/-- FMIN (R214). -/
def execFmin (ty : FType) (o : LaOp) (s : State) : Host.Outcome State Fault Refusal :=
  .next (runLane s (laWidth o) (fminOp ty o))

/-- FMAX (R214). -/
def fmaxOp (ty : FType) (o : LaOp) : LaneOp := fcodeOp ty o true (fMinMax (ftyFmt ty) true)
/-- FMAX (R214). -/
def execFmax (ty : FType) (o : LaOp) (s : State) : Host.Outcome State Fault Refusal :=
  .next (runLane s (laWidth o) (fmaxOp ty o))

/-- The code with its sign bit changed by f; a NaN gives the canonical NaN (R214). -/
def signCode (f : FlFmt) (g : Bool → Bool) (x : Nat) : Nat :=
  if isNan (flVal f x) then nanCode f
  else x % 2 ^ (f.e + f.m) + signBit f (g (x / 2 ^ (f.e + f.m) % 2 = 1))

/-- FNEG (R214). -/
def fnegOp (ty : FType) (o : LaOp) : LaneOp := fcodeOp ty o false fun x _ => signCode (ftyFmt ty) (fun b => !b) x
/-- FNEG (R214). -/
def execFneg (ty : FType) (o : LaOp) (s : State) : Host.Outcome State Fault Refusal :=
  .next (runLane s (laWidth o) (fnegOp ty o))

/-- FABS (R214). -/
def fabsOp (ty : FType) (o : LaOp) : LaneOp := fcodeOp ty o false fun x _ => signCode (ftyFmt ty) (fun _ => false) x
/-- FABS (R214). -/
def execFabs (ty : FType) (o : LaOp) (s : State) : Host.Outcome State Fault Refusal :=
  .next (runLane s (laWidth o) (fabsOp ty o))

/-! ### Special functions -/

/-- A special function of source A (R215). -/
def sfuOp (fn : Nat) (o : LaOp) : LaneOp :=
  { gov := laGov o, srcs := [vsrc o.a 1], d := o.d, nowb := laNowb o, lat := 10
    val := fun w _ => { rows := [(srcA w o false).map fun x => sfu fn (w32 x.toNat)] } }

/-- The core's special-function unit still takes in an instruction (R209). -/
def sfuBusy (s : State) : Bool := now s < (coreAt s s.cur.core).sfuUntil

/-- The unit takes in an instruction for 4 aclk (R209), whose claim of tokens ends (R287). -/
def sfuTakes (s : State) : State :=
  setMe (putCore s s.cur.core { coreAt s s.cur.core with sfuUntil := now s + 4 }) (spendTokens (me s))

/-- The issue of an SFU instruction: held while the unit takes in another, then 4 aclk of intake (R209). -/
def runSfu (s : State) (width : Nat) (x : LaneOp) : State :=
  if sfuBusy s then notEligible s
  else runLaneVia s width x sfuTakes

/-- VRCP (R215). -/
def vrcpOp (o : LaOp) : LaneOp := sfuOp 0 o
/-- VRCP (R215). -/
def execVrcp (o : LaOp) (s : State) : Host.Outcome State Fault Refusal :=
  .next (runSfu s (laWidth o) (vrcpOp o))

/-- VRSQ (R215). -/
def vrsqOp (o : LaOp) : LaneOp := sfuOp 1 o
/-- VRSQ (R215). -/
def execVrsq (o : LaOp) (s : State) : Host.Outcome State Fault Refusal :=
  .next (runSfu s (laWidth o) (vrsqOp o))

/-- VSQRT (R215). -/
def vsqrtOp (o : LaOp) : LaneOp := sfuOp 2 o
/-- VSQRT (R215). -/
def execVsqrt (o : LaOp) (s : State) : Host.Outcome State Fault Refusal :=
  .next (runSfu s (laWidth o) (vsqrtOp o))

/-- VEXP2 (R215). -/
def vexp2Op (o : LaOp) : LaneOp := sfuOp 3 o
/-- VEXP2 (R215). -/
def execVexp2 (o : LaOp) (s : State) : Host.Outcome State Fault Refusal :=
  .next (runSfu s (laWidth o) (vexp2Op o))

/-- VLOG2 (R215). -/
def vlog2Op (o : LaOp) : LaneOp := sfuOp 4 o
/-- VLOG2 (R215). -/
def execVlog2 (o : LaOp) (s : State) : Host.Outcome State Fault Refusal :=
  .next (runSfu s (laWidth o) (vlog2Op o))

/-- VSIN (R215). -/
def vsinOp (o : LaOp) : LaneOp := sfuOp 5 o
/-- VSIN (R215). -/
def execVsin (o : LaOp) (s : State) : Host.Outcome State Fault Refusal :=
  .next (runSfu s (laWidth o) (vsinOp o))

/-- VCOS (R215). -/
def vcosOp (o : LaOp) : LaneOp := sfuOp 6 o
/-- VCOS (R215). -/
def execVcos (o : LaOp) (s : State) : Host.Outcome State Fault Refusal :=
  .next (runSfu s (laWidth o) (vcosOp o))

/-- VTANH (R215). -/
def vtanhOp (o : LaOp) : LaneOp := sfuOp 7 o
/-- VTANH (R215). -/
def execVtanh (o : LaOp) (s : State) : Host.Outcome State Fault Refusal :=
  .next (runSfu s (laWidth o) (vtanhOp o))

/-! ### SMX.STEP -/

/-- One lane of SMX.STEP: the new maximum, the correction, the weight and the new sum (R216). -/
def smxLane (a b c : W32) : W32 × W32 × W32 × W32 :=
  let m := ofFp32 a
  let x := ofFp32 b
  let s := ofFp32 c
  let one := toFp32 (.fin false 1 1)
  let zero := toFp32 (zeroNum false)
  let nan := toFp32 .nan
  let r :=
    if isNan m || isNan x || isNan s then (nan, nan, nan)
    else if x = .inf false then (b, (if m = .inf false then one else zero), one)
    else if m = .inf false then (a, one, zero)
    else if x = .inf true then (a, one, zero)
    else if m = .inf true then (b, zero, one)
    else
      let m2 := if numBelow m x then b else a
      let e2 := fun y : Num => sfuExp2 (toFp32 (sumNum false [y, negNum (ofFp32 m2)]))
      (m2, e2 m, e2 x)
  (r.1, r.2.1, r.2.2, toFp32 (sumNum false [mulNum s (ofFp32 r.2.1), ofFp32 r.2.2]))

/-- SMX.STEP (R216). -/
def smxStepOp (o : LaOp) : LaneOp :=
  { gov := laGov o, srcs := [vsrc o.a 1, vsrc o.b 1, vsrc (laC o) 1], d := o.d, n := 4, lat := 6
    val := fun w _ =>
      let a := srcA w o false
      let b := srcB w o false .fp32
      let c := srcC w o false
      let r := lanes.map fun l =>
        smxLane (w32 (a.getD l 0#64).toNat) (w32 (b.getD l 0#64).toNat) (w32 (c.getD l 0#64).toNat)
      { rows := [r.map (·.1), r.map (·.2.1), r.map (·.2.2.1), r.map (·.2.2.2)] } }
/-- SMX.STEP (R216). -/
def execSmxStep (o : LaOp) (s : State) : Host.Outcome State Fault Refusal :=
  .next (runLane s (laWidth o) (smxStepOp o))

/-! ### Conversion and quantisation -/

/-- Bits of a conversion type (Table 8-5). -/
def cvtBits : CvtType → Nat | .ef f => efBits f | .e8m0 => 8 | _ => 32
/-- The format of a conversion type, zero point 0 (R217). -/
def cvtFmt : CvtType → NFmt | .ef f => nfmt f | .i32 => .si 32 | .n32 => .un 32 | .e8m0 => .e8m0
/-- Elements of n bits in a register (R217, R219). -/
def elemCount (n : Nat) : Nat := if n = 32 then 1 else if n = 16 then 2 else if n = 4 then 8 else 4

/-- DT and ST of a conversion form. -/
def cvtTypes (o : LaOp) : CvtType × CvtType :=
  match o.ext with
  | some (.conv _ _ dt st _ _) => (dt, st)
  | _ => (.i32, .i32)

/-- CVT: element B of A from ST to DT; to the same format the code stays as it is, but for a NaN (R217). -/
def cvtOp (o : LaOp) : LaneOp :=
  let dt := (cvtTypes o).1
  let st := (cvtTypes o).2
  let n := cvtBits st
  let k := o.b.toNat
  { gov := laGov o, srcs := [vsrc o.a 1], d := o.d, nowb := laNowb o, lat := 4
    bad := fun _ _ => if elemCount n ≤ k then some (0x07, w64 k) else none
    val := fun w act =>
      let rm := rndDec (laRm o).toNat
      let us := drawRands w rm act 1
      let a := srcA w o false
      { rows := [lanes.map fun l =>
          let code := (a.getD l 0#64).toNat / 2 ^ (n * k) % 2 ^ n
          let x := numVal (cvtFmt st) code
          if dt = st && !isNan x then w32 code
          else w32 (roundNum (cvtFmt dt) rm (laSat o) x (randAt us.1 act 1 l 0))]
        seed := us.2 } }
/-- CVT (R217). -/
def execCvt (o : LaOp) (s : State) : Host.Outcome State Fault Refusal := .next (runLane s (laWidth o) (cvtOp o))

/-- clamp(round(q, integer, rnd) + z, 0, 2^n - 1), the zero point for NaN (R107, R218, Table 5-5). -/
def roundOb (n z : Nat) (rnd : Rnd) (q : Num) (u : Nat) : Nat :=
  (roundInt rnd (-(z : Int)) ((2 ^ n : Nat) - 1 - (z : Int)) q u + z).toNat

/-- The code of an exact quotient or product under a format slot, with a zero point (R218). -/
def qntCode (x : Word) (f : EFmt) (z : Nat) (q : Num) (u : Nat) : Nat :=
  if isOb f then roundOb (efBits f) z (slotRnd x) q u
  else roundNum (nfmt f) (slotRnd x) (slotSat x) q u

/-- The zero point of a lane under a slot: none, ZPT, or the lane's own (R96, R218). -/
def qntZero (x : Word) (f : EFmt) (own : Nat) : Nat :=
  let z := if slotZpm x = 1 then own % 256 else if slotZpm x = 2 then slotZpt x else 0
  if f = .ob4 then z % 16 else z

/-- QNT.DIV and QNT.MUL (R218, R108). C must be 0 unless the slot's ZPM is 1 (log 12). -/
def qntOp (o : LaOp) (lat : Nat) (f : Num → Num → Num) : LaneOp :=
  { gov := laGov o, srcs := [vsrc o.a 1, vsrc o.b 1], d := o.d, nowb := laNowb o, lat := lat
    more := fun w =>
      if slotZpm (slotReg w (laRm o).toNat) = 1 then []
      else if (laC o).toNat = 0 then []
      else [(3, w64 ((match o.ext with
          | some (.op g nb c onB pat pv rm sat) =>
            (govBits g nb ++ 0#2 ++ c ++ b1 onB ++ BitVec.ofNat 3 (patc pat) ++ pv ++ rm ++ b1 sat ++ 0#2 : W32).toNat
          | _ => 0) + 2 ^ 32 * (15 + lowBit (laC o))))]
    bad := fun w _ =>
      let x := slotReg w (laRm o).toNat
      if (slotEf x).isSome then none else some (0x07, w64 (fld x 0 4).toNat)
    val := fun w act =>
      let x := slotReg w (laRm o).toNat
      let e := (slotEf x).getD .fp32
      let us := drawRands w (slotRnd x) act 1
      let a := srcA w o false
      let b := srcB w o false .fp32
      let c := srcC w o false
      let row := lanes.map fun l =>
        let q := f (ofFp32 (w32 (a.getD l 0#64).toNat)) (ofFp32 (w32 (b.getD l 0#64).toNat))
        w32 (qntCode x e (qntZero x e (c.getD l 0#64).toNat) q (randAt us.1 act 1 l 0))
      { rows := [row], seed := us.2 } }

/-- The zero-point register of QNT is a source when ZPM is 1 (R218). -/
def qntVops (w : Warp) (o : LaOp) : List VOp :=
  if slotZpm (slotReg w (laRm o).toNat) = 1 then [vsrc (laC o) 1] else []

/-- QNT with the sources that the slot gives it. -/
def qntFull (s : State) (o : LaOp) (x : LaneOp) : LaneOp := { x with srcs := x.srcs ++ qntVops (me s) o }

/-- QNT.DIV (R218). -/
def qntDivOp (o : LaOp) : LaneOp := qntOp o 8 divNum
/-- QNT.DIV (R218). -/
def execQntDiv (o : LaOp) (s : State) : Host.Outcome State Fault Refusal :=
  .next (runLane s (laWidth o) (qntFull s o (qntDivOp o)))
/-- QNT.MUL (R218). -/
def qntMulOp (o : LaOp) : LaneOp := qntOp o 4 mulNum
/-- QNT.MUL (R218). -/
def execQntMul (o : LaOp) (s : State) : Host.Outcome State Fault Refusal :=
  .next (runLane s (laWidth o) (qntFull s o (qntMulOp o)))

/-- Bits of an element width (R219). -/
def ewBits : EWidth → Nat | .w4 => 4 | .w8 => 8 | .w6 => 6 | .w16 => 16
/-- The element index of PACK and UNPK. -/
def packIndex (o : LaOp) : Nat := match laImm o with | some i => i.toNat % 8 | none => 0

/-- PACK: element k of D takes the low bits of A (R219). -/
def packOp (ew : EWidth) (o : LaOp) : LaneOp :=
  let n := ewBits ew
  { gov := laGov o, srcs := [vsrc o.a 1], d := o.d, nowb := laNowb o, lat := 2
    bad := fun _ _ => if elemCount n ≤ packIndex o then some (0x07, w64 (packIndex o)) else none
    val := fun w _ =>
      let a := srcA w o false
      { rows := [lanes.map fun l =>
          setFld (vreg w o.d.toNat l) (n * packIndex o) n (a.getD l 0#64).toNat] } }
/-- PACK (R219). -/
def execPack (ew : EWidth) (o : LaOp) (s : State) : Host.Outcome State Fault Refusal :=
  .next (runLane s (laWidth o) (packOp ew o))

/-- UNPK: element k of A, zero-extended (R219). -/
def unpkOp (ew : EWidth) (o : LaOp) : LaneOp :=
  let n := ewBits ew
  { gov := laGov o, srcs := [vsrc o.a 1], d := o.d, nowb := laNowb o, lat := 2
    bad := fun _ _ => if elemCount n ≤ packIndex o then some (0x07, w64 (packIndex o)) else none
    val := fun w _ => { rows := [(srcA w o false).map fun x =>
      w32 (x.toNat / 2 ^ (n * packIndex o) % 2 ^ n)] } }
/-- UNPK (R219). -/
def execUnpk (ew : EWidth) (o : LaOp) (s : State) : Host.Outcome State Fault Refusal :=
  .next (runLane s (laWidth o) (unpkOp ew o))

/-! ### DOT -/

/-- EF accepted by DOT (R220). -/
def dotAccepts (f : EFmt) : Bool :=
  match f with
  | .e2m1 | .ob4 | .e4m3 | .e5m2 | .i8 | .n8 | .ob8 => true
  | _ => false
/-- Integer and offset-binary formats. -/
def intFmt (f : EFmt) : Bool :=
  match f with
  | .i8 | .n8 | .ob8 | .ob4 => true
  | _ => false

/-- The exact products of a lane of DOT (R220). -/
def dotTerms (f : EFmt) (z : Nat) (a b : Word) : List Num :=
  let n := efBits f
  (List.range (32 / n)).map fun k =>
    let v := fun x : Word => elemVal f z (x.toNat / 2 ^ (n * k) % 2 ^ n)
    mulNum (v a) (v b)

/-- The integer value of an exact sum of integers. -/
def numInt : Num → Int
  | .fin s n d => let m : Int := (n / d : Nat); if s then -m else m
  | _ => 0

/-- DOT (R220). -/
def dotOp (toI32 : Bool) (o : LaOp) : LaneOp :=
  { gov := laGov o, srcs := [vsrc o.a 1, vsrc o.b 1, vsrc (laC o) 1], d := o.d, nowb := laNowb o, lat := 6
    bad := fun w _ =>
      let x := slotReg w (laRm o).toNat
      let e := (slotEf x).getD .fp32
      if !dotAccepts e || slotZpm x = 1 || (toI32 && !intFmt e) then some (0x07, w64 (fld x 0 4).toNat) else none
    val := fun w _ =>
      let x := slotReg w (laRm o).toNat
      let e := (slotEf x).getD .fp32
      let z := if slotZpm x = 2 then slotZpt x else 0
      let a := srcA w o false
      let b := srcB w o false .fp32
      let c := srcC w o false
      { rows := [lanes.map fun l =>
          let ts := dotTerms e z (a.getD l 0#64) (b.getD l 0#64)
          let cv := w32 (c.getD l 0#64).toNat
          if toI32 then
            w32 (finish true (slotSat x) 32 (ts.foldl (fun acc t => acc + numInt t) (sval 32 cv.toNat)))
          else toFp32 (sumNum false (ofFp32 cv :: ts))] } }
/-- DOT (R220). -/
def execDot (toI32 : Bool) (o : LaOp) (s : State) : Host.Outcome State Fault Refusal :=
  .next (runLaneVia s (laWidth o) (dotOp toI32 o) spendMe)

end Sys2Proof.Machine
end

