-- ==== Sys2Proof/Machine/Team.lean ====
section
/-!
DEFINITION. What warps of one team share: rendezvous points (R45, R46, R240, R416), gangs (R41 to R43, R370), the end of a
token claim (R287, R289), parking and holding, and the exit of lanes, warps and teams (R30, R196, R354).
-/
namespace Sys2Proof.Machine
open Sys2Proof

/-! ### Eligibility, parking and holding -/

/-- The run goes on to the next instruction and is parked there (R38, R44). -/
def parkRun (s : State) (width : Nat) (m : Word) (p : Park) : State :=
  setMe s (gotoPark m (nextPc s.cur width) (some p) (me s))

/-- The run goes on to the next instruction and waits there, held, for a request (R176). -/
def holdRun (s : State) (width : Nat) (m : Word) (id : Nat) : State :=
  let s := advance s width m
  setMe s (mapHolds (fun hs => hs ++ [(id, m)]) (me s))

/-- The lanes that a request holds go on, in the frozen table too. -/
def releaseHold (id : Nat) (w : Warp) : Warp :=
  let f := fun hs : List (Nat × Word) => hs.filter fun h => h.1 ≠ id
  { w with holds := f w.holds, handler := w.handler.map fun h => { h with holds := f h.holds } }

/-- A reservation leaves its cluster's queue; tokens held for a head that goes become ordinary ones, and the next head's price is wanted
(R289). -/
def dropResv (x : Cluster) (k : Nat) : Cluster :=
  let rest := x.resv.erase k
  { x with
    resv := rest, prices := aerase x.prices k, held := if x.resv.head? = some k then 0 else x.held
    want := match rest with | [] => 0 | y :: _ => aget 0 x.prices y }

/-- A token claim of a warp ends without an issue (R287, R289): its reservation goes, tokens held for it become ordinary
ones, and its pass count returns to 0. -/
def endClaim (s : State) (k : Nat) : State :=
  let w := warpAt s k
  let c := clusterOf (teamAt s w.team).core
  let cl := clusterAt s c
  let s := if cl.resv.contains k then putCluster s c (dropResv cl k) else s
  putWarp s k { w with standing := false, queued := false, claimAt := none, wpass := 0 }

/-- A port without a warp that leaves its core: its bind, hold, yield and run of bound packets end, and the warp is no more the one
that last issued there, so that its saved latches stay (R69, R72, R83). -/
def portWithout (k : Nat) (p : Port) : Port :=
  let mine := p.last = some k || p.bound = some k || p.hold = some k
  { p with
    last := if p.last = some k then none else p.last, bound := if p.bound = some k then none else p.bound
    nbound := if mine then 0 else p.nbound, hold := if p.hold = some k then none else p.hold
    yielded := if p.yielded = some k then none else p.yielded }

/-- The ports of its core without a warp. -/
def freePorts (s : State) (k : Nat) : State :=
  let c := (teamAt s (warpAt s k).team).core
  let x := coreAt s c
  putCore s c { x with ports := x.ports.map (portWithout k) }

/-! ### Rendezvous points -/

/-- Lanes of a warp at a point: parked at a BAR on it, or marked by BAR.arv (R240). -/
def atPoint (w : Warp) (b : BarPoint) (k : Nat) : Word :=
  w.pcs.foldl (fun m e => match e.park with
    | some (.bar j _) => if j = k then m ||| e.mask else m
    | _ => m) (aget 0#64 b.marked w.wid)

/-- A warp has arrived at a point (R46); not in handler mode (R355). -/
def warpArrived (w : Warp) (b : BarPoint) (k : Nat) : Bool :=
  !w.exited && w.handler.isNone && liveLanes w.pcs &&& ~~~atPoint w b k = 0#64

/-- The point of a team. -/
def barPoint (t : Team) (k : Nat) : BarPoint := t.bars.getD k {}
/-- The team with a point replaced. -/
def setPoint (t : Team) (k : Nat) (b : BarPoint) : Team :=
  { t with bars := (List.range t.bars.length).map fun j => if j = k then b else barPoint t j }

/-- Whether a park is a wait at point k. -/
def parkedAt (k : Nat) : Park → Bool
  | .bar j _ => j = k
  | _ => false

/-- The bound ql registers of a warp take the CLEN that a read of the descriptor gives (R86, R256). -/
def refreshQl (s : State) (k : Nat) : State :=
  let w := warpAt s k
  putWarp s k { w with ql := w.ql.map fun q =>
    match q.desc with
    | none => q
    | some d => { q with value := w64 (Nat.max q.value.toNat (aget ({} : Seq) s.seqs d).clen) } }

/-- Point k of a team completes when the arrived warps reach the phase's count (R46, R416): runs parked on it wake, with
an acquire, and the next phase begins. A count that cannot be reached strikes the parked runs, once until a handler returns (R416). -/
def checkPoint (s : State) (t k : Nat) : State :=
  let x := teamAt s t
  let b := barPoint x k
  match b.count with
  | none => s
  | some (n, dflt) =>
    let ks := teamWarps t x
    let arrived := ks.filter fun i => warpArrived (warpAt s i) b k || (dflt && (warpAt s i).exited)
    let hope := ks.filter fun i => !(warpAt s i).exited || warpArrived (warpAt s i) b k
    if n ≤ arrived.length then
      let s := putTeam s t (setPoint x k { phase := b.phase + 1 })
      ks.foldl (fun s i =>
        let w := warpAt s i
        if w.pcs.any fun e => (e.park.map (parkedAt k)).getD false then
          refreshQl (putWarp s i (wakeWarp (BitVec.allOnes 64) (parkedAt k) w)) i
        else s) s
    else if !dflt && hope.length < n then
      ks.foldl (fun s i =>
        let w := warpAt s i
        let told := w.handler.isSome || w.detected.any fun d => d.lanes.any fun l => l.cause = 0x46
        (w.pcs.filter fun e => (e.park.map (parkedAt k)).getD false && !told).foldl (fun s e =>
          detect s i { pc := (match e.park with | some (.bar _ pc) => pc | _ => e.pc), deferred := true
                       engine := coreEngine 0 x.core
                       lanes := (lanesOf e.mask).map fun l => { lane := l, cause := 0x46, syn := w64 k } }) s) s
    else s

/-- Every point of a team is looked at again. -/
def checkPoints (s : State) (t : Nat) : State :=
  (List.range (teamAt s t).bars.length).foldl (fun s k => checkPoint s t k) s

/-! ### Gangs -/

/-- SIZE of a GANG register (Table 2-2). -/
def gangSize (g : W32) : Nat := (fld g 24 3).toNat
/-- The members of a GANG register, in their positions. -/
def gangMembers (g : W32) : List Nat := (List.range (gangSize g)).map fun k => (fld g (4 * k) 4).toNat
/-- POS of a GANG register. -/
def gangPos (g : W32) : Nat := (fld g 27 3).toNat
/-- Two GANG registers describe one gang (R41). -/
def sameGang (a b : W32) : Bool := fld a 0 27 = fld b 0 27

/-- A gang is formed: every listed warp holds the same list (R41). -/
def gangFormed (s : State) (t : Nat) (g : W32) : Bool :=
  (gangMembers g).all fun m => let w := warpAt s (warpKey t m); sameGang w.gang g && !w.exited

/-- The tile that a gang's first held MMA names counts one reader fewer (R266). -/
def unreadTile (s : State) (core : Nat) : List Held → State
  | [] => s
  | h :: _ =>
    let c := coreAt s core
    let x := aget 0#128 c.table h.tile
    putCore s core { c with table := aset 0#128 c.table h.tile (if fld x 0 12 = 0#12 then x else x - 1#128) }

/-- MMAs held in a latch are struck by a deferred cause; the latch loses them, their flags count down and the tile's count
falls (R266, R370). -/
def strikeLatch (s : State) (t : Nat) (wids : List Nat) (cause : Nat) (syn : Word) : State :=
  let x := teamAt s t
  let hit := x.latch.filter fun h => wids.contains h.wid
  let s := unreadTile (putTeam s t { x with latch := x.latch.filter fun h => !wids.contains h.wid }) x.core hit
  hit.foldl (fun s h =>
    let k := warpKey t h.wid
    let s := putWarp s k (flagDown (warpAt s k) (flagOf h.op.flag))
    detect s k { pc := h.pc, deferred := true, engine := coreEngine 1 x.core
                 lanes := (lanesOf h.run).map fun l => { lane := l, cause := cause, syn := syn } }) s

/-- A warp leaves its gang while others hold MMAs in the latch: GANG_DISSOLVED (R43, R370). An exit strikes every MMA whose gang
lists the warp; a GANG instruction those of the gang that the warp's own register describes, since a first write rewrites none. -/
def leaveGang (s : State) (t wid : Nat) (exits : Bool) : State :=
  let x := teamAt s t
  let hit := x.latch.filter fun h =>
    let g := (warpAt s (warpKey t h.wid)).gang
    h.wid ≠ wid && (gangMembers g).contains wid && (exits || sameGang (warpAt s (warpKey t wid)).gang g)
  if hit = [] then s else strikeLatch s t (hit.map (·.wid)) 0x45 (w64 wid)

/-! ### Exit -/

/-- Every warp of a team has exited (R30). -/
def teamOver (s : State) (t : Nat) : Bool := (teamWarps t (teamAt s t)).all fun k => (warpAt s k).exited

/-- A warp whose last lane has left (R30, R43, R46, R289). -/
def warpEnd (s : State) (k : Nat) : State :=
  let w := warpAt s k
  let t := w.team
  let s := endClaim (freePorts s k) k
  let s := leaveGang s t w.wid true
  let x := teamAt s t
  let s := putTeam s t { x with latch := x.latch.filter fun h => h.wid ≠ w.wid }
  let w := warpAt s k
  let s := putWarp s k { w with
    exited := true, pcs := [], holds := [], handler := none, latches := [], undo := [], tx := none, walks := [], walkBad := [], walked := []
    detected := [] }
  let s := discardLanes s k fun _ _ => true
  let s := { s with watches := s.watches.filter fun x => x.warp ≠ k }
  let s := checkPoints s t
  if teamOver s t && (teamAt s t).status = .resident then putTeam s t { teamAt s t with status := .exited } else s

/-- Lanes leave their warp (R30, R196): their loads are discarded; the warp ends with its last lane. -/
def exitLanes (s : State) (k : Nat) (m : Word) : State :=
  let left := liveLanes (warpAt s k).pcs &&& ~~~m
  let s := discardLanes s k fun a l => if l = 64 then a.run &&& left = 0#64 else bit m l
  let s := { s with watches := s.watches.filter fun x => !(x.warp = k && bit m x.lane) }
  let w := warpAt s k
  let s := putWarp s k { w with pcs := removeLanes m w.pcs, holds := unhold m w.holds }
  if liveLanes (warpAt s k).pcs = 0#64 then warpEnd s k else checkPoints s w.team

/-- EXIT of the issuing run (R196); in handler mode it removes F, ends the mode and frees the frame (R354). -/
def exitRun (s : State) (k : Nat) (m : Word) : State :=
  let w := warpAt s k
  match w.handler with
  | none => exitLanes s k m
  | some h =>
    let s := freeHandlerFrame s k h.frame
    let w := { w with
      handler := none, latches := [], undo := [], undoLost := true
      tx := w.tx.bind fun t =>
        let d := t.depth.filter fun d => !bit h.f d.1
        if d = [] then none
        else some { t with
          held := false, depth := d, reached := t.reached &&& ~~~h.f
          stores := t.stores.filter fun e => !bit h.f e.lane
          reads := t.reads.filter fun e => !bit h.f e.lane } }
    exitLanes (putWarp s k w) k h.f

end Sys2Proof.Machine
end

