-- ==== Sys2Proof/Machine/Cache.lean ====
section
/-!
DEFINITION. The wafer cache and memory behind it: anchors and homes (R124, R125), use counting and the Yardmaster's action
(R126), replicas and their invalidation (R127, R128), eviction (R129), writes with their waiters (R139, R239), and poisoned
lines (R373).
-/
namespace Sys2Proof.Machine
open Sys2Proof

/-! ### Parts -/

/-- The key of a part among the statuses: its node kind and its number on the device. -/
def partKey (kind index : Nat) : Nat := kind * 2 ^ 20 + index
/-- The status of a part (Table 1-6). -/
def partStatus (s : State) (kind index : Nat) : Nat := aget 0 s.tree (partKey kind index)
/-- A part's status changes, and with it the tree (R25). -/
def setPart (s : State) (kind index status : Nat) : State :=
  { s with tree := aset 0 s.tree (partKey kind index) status, treeDirty := true }
/-- A status that takes a part out of use (R24). -/
def outOfUse (status : Nat) : Bool := status = 2 || status = 3 || status = 4

/-- Slices of a group that are healthy (Table 1-5). -/
def groupHealthy (s : State) (g : Nat) : Nat :=
  ((List.range 16).filter fun k => !outOfUse (partStatus s 6 (16 * g + k))).length
/-- Ways in service of a set of a group with h healthy slices (R394). -/
def waysOf (h : Nat) : Nat := Nat.min 16 (128 * (h - 2) / (7 * h))
/-- The group of a slice. -/
def groupOf (slice : Nat) : Nat := slice / 16

/-! ### Slices -/

/-- Slices of the wafer. -/
def sliceCount : Nat := Config.reticles * Config.slicesPerReticle
/-- The first slice outside a list at or after one, in a cycle of n slices from a base (R124). -/
def nextSlice (out : List Nat) (base n : Nat) : Nat → Nat → Option Nat
  | 0, _ => none
  | fuel + 1, k =>
    let c := base + k % n
    if out.contains c then nextSlice out base n fuel (k + 1) else some c
/-- The slices that take no new line: those outside the map and those that are closing (R124, R393). -/
def shutSlices (s : State) : List Nat := s.slicesOut ++ s.closing.map (·.1)
/-- The anchor slice of a line: a hash over the slices of the map, closing ones among them (R124, R393, log 7). -/
def anchorOf (s : State) (line : Nat) : Nat :=
  (nextSlice s.slicesOut 0 sliceCount (s.slicesOut.length + 1) (Config.anchorHash line)).getD 0
/-- The slice that the hash chooses within a reticle, if one is in the map and not closing (R126, R393). -/
def sliceIn (s : State) (reticle line : Nat) : Option Nat :=
  nextSlice (shutSlices s) (reticle * Config.slicesPerReticle) Config.slicesPerReticle
    (Nat.min Config.slicesPerReticle ((shutSlices s).length + 1)) (Config.anchorHash line)

/-- Ways in service of the sets of a slice (R123, R394). -/
def waysIn (s : State) (slice : Nat) : Nat := if s.tree = [] then 16 else waysOf (groupHealthy s (groupOf slice))

/-- A line takes a way of a slice: as its home, as the home that it moves to, or as a replica. -/
def takesWay (slice : Nat) (x : Line) : Bool :=
  x.home = slice || (x.state = .moving && x.moveTo = slice) || x.replicas.any fun r => r.2.1 = slice

/-- A slice has a way free for a line in the set that holds it (R123). -/
def wayFree (s : State) (slice l : Nat) : Bool :=
  s.lines.length < waysIn s slice
    || (s.lines.filter fun y => takesWay slice y.2 && Config.setOf y.1 = Config.setOf l).length < waysIn s slice

/-- The slice of a reticle with a way free for a line: the first one from the hash's choice on, among those of the map that are not closing
(R126, log 7). -/
def sliceFree (s : State) (reticle line : Nat) : Option Nat :=
  let base := reticle * Config.slicesPerReticle
  let k := Config.anchorHash line % Config.slicesPerReticle
  ((List.range Config.slicesPerReticle).map fun j => base + (k + j) % Config.slicesPerReticle).find? fun c =>
    !(shutSlices s).contains c && wayFree s c line
/-- The reticle of a slice. -/
def reticleOfSlice (slice : Nat) : Nat := slice / Config.slicesPerReticle
/-- Reticles in the order of their distance from one. -/
def nearReticles (r : Nat) : List Nat :=
  let dist := fun x : Nat => (x % 8 - r % 8) + (r % 8 - x % 8) + (x / 8 - r / 8) + (r / 8 - x / 8)
  (List.range 13).flatMap fun d => (List.range Config.reticles).filter fun x => dist x = d
/-- The slice that takes a new line in place of a closing anchor: of the same reticle, or of the nearest one (R393, log 7). -/
def nearSlice (s : State) (reticle line : Nat) : Option Nat := (nearReticles reticle).findSome? fun r => sliceIn s r line

/-- The slice that takes a line which leaves its own: one with a free way, of the same reticle or of the nearest one that has one (R393). -/
def nearFree (s : State) (reticle line : Nat) : Option Nat := (nearReticles reticle).findSome? fun r => sliceFree s r line

/-- A slice of the map closes, for the cause that starts its evacuation (R393). -/
def closeSlice (s : State) (slice cause : Nat) : State :=
  if s.slicesOut.contains slice || s.closing.any (fun c => c.1 = slice) then s
  else { s with closing := s.closing ++ [(slice, s.time, cause)] }

/-- A line is immutable (R133). -/
def immutable (s : State) (pa : Nat) : Bool := s.immuts.contains (lineOf pa)

/-- A line is poisoned (R373). -/
def poisoned (s : State) (pa : Nat) : Bool := s.poison.contains (lineOf pa)

/-- A physical address is accessed at its tier's agent and not through a slice (R114). -/
def uncached (s : State) (uc : Bool) (pa : Nat) : Bool := uc || hostPcie s pa

/-- What replacement evicts from the set of a slice that holds a line: a replica, or a home line that is neither pinned nor moving nor
collapsing, has no replica and holds nothing back (R129); the first in the order of addresses (DESIGN CHOICE, log 7). -/
def victim (s : State) (slice l : Nat) : Option (Nat × Option Nat) :=
  s.lines.findSome? fun y =>
    if Config.setOf y.1 ≠ Config.setOf l || y.2.state = .moving || y.2.state = .collapsing then none
    else
      match y.2.replicas.find? fun r => r.2.1 = slice with
      | some r => some (y.1, some r.1)
      | none => if y.2.home = slice && !y.2.pin && y.2.replicas = [] && y.2.held = [] then some (y.1, none) else none

/-- A way for a line in a slice, which replacement frees if it must (R129); none while nothing of its set can be evicted. -/
def makeWay (s : State) (slice l : Nat) : Option State :=
  if wayFree s slice l then some s
  else
    match victim s slice l with
    | none => none
    | some (m, none) => some { s with lines := aerase s.lines m }
    | some (m, some r) =>
      match lineAt s m with
      | none => some s
      | some x =>
        let rs := aerase x.replicas r
        some (putLine s m { x with replicas := rs, state := if rs = [] then .home else x.state })

/-- An absent line placed at its anchor (R125), where it finds a way. -/
def placeLine (s : State) (l : Nat) : State :=
  match lineAt s l with
  | some _ => s
  | none =>
    let a := anchorOf s l
    let home := if s.closing.any (fun c => c.1 = a) then (nearSlice s (reticleOfSlice a) l).getD a else a
    match makeWay s home l with
    | some s => putLine s l { home := home, since := s.time }
    | none => s

/-- A line may replicate or migrate: it lies in the device's HBM (Table 6-3). -/
def mobile (l : Nat) : Bool := tierOf (128 * l) = .hbm

/-- The bytes of a line. -/
def lineBytes (s : State) (l : Nat) : List Byte := memBytes s.mem (128 * l) 128

/-- A replica placed in a reticle now, in the slice that the hash chooses there, or deferred until the line is clean and settled (R128). -/
def placeReplica (s : State) (l ret : Nat) : State :=
  match lineAt s l with
  | none => s
  | some x =>
    if x.pin || !mobile l || reticleOfSlice x.home = ret || (afind x.replicas ret).isSome then s
    else if x.dirty || x.state = .moving || x.state = .collapsing then
      putLine s l { x with defer := if x.defer.contains ret then x.defer else x.defer ++ [ret] }
    else
      match sliceIn s ret l with
      | none => s
      | some k =>
        match makeWay s k l with
        | none => s
        | some s =>
          match lineAt s l with
          | none => s
          | some x => putLine s l { x with state := .shared, replicas := aput x.replicas ret (k, lineBytes s l) }

/-- The reticle one hop from a home toward a requester (R126). -/
def hopToward (home req : Nat) : Nat :=
  let hx := home % 8; let hy := home / 8; let qx := req % 8; let qy := req / 8
  let dx := if hx ≤ qx then qx - hx else hx - qx
  let dy := if hy ≤ qy then qy - hy else hy - qy
  if dy ≤ dx then 8 * hy + (if hx < qx then hx + 1 else if qx < hx then hx - 1 else hx)
  else 8 * (if hy < qy then hy + 1 else hy - 1) + hx

/-- The use counters after a use by a reticle (R126): four are tracked. -/
def bumpUse (uses : List (Nat × Nat)) (ret : Nat) : List (Nat × Nat) :=
  match afind uses ret with
  | some n => aput uses ret (n + 1)
  | none =>
    if uses.length < 4 then aput uses ret 1
    else
      let low := uses.foldl (fun m u => Nat.min m u.2) (uses.headD (0, 0)).2
      match uses.find? fun u => u.2 = low with
      | some u => aput (aerase uses u.1) ret 1
      | none => aput uses ret 1

/-- A use of a line served at its home for a reticle, and the Yardmaster's action (R126, R133). A .stream read of an immutable line from
a reticle without a replica places none: R126 asks for one at the first read, R128 says that a .stream access does not allocate and
is not counted, and the model follows R128 (DESIGN CHOICE, log 7). -/
def useLine (s : State) (l ret : Nat) (write uc counted : Bool) : State :=
  match lineAt s l with
  | none => s
  | some x =>
    let win := s.time / s.yardWin
    let home := reticleOfSlice x.home
    let fresh := !(x.wrote = some win || (0 < win && x.wrote = some (win - 1)))
    let x := if write then { x with wrote := some win, dirty := true } else x
    let s := putLine s l x
    if !counted || ret = home then s
    else if immutable s (128 * l) && !write && !x.pin && (afind x.replicas ret).isNone then placeReplica s l ret
    else
      let x := { x with uses := bumpUse x.uses ret }
      let s := putLine s l x
      if aget 0 x.uses ret < s.yardThr || x.acted = some win || x.state = .moving || x.state = .collapsing then s
      else
        let s := putLine s l { x with acted := some win }
        if x.pin || !mobile l then s
        else if immutable s (128 * l) || (!x.dirty && fresh && !write && !uc) then placeReplica s l ret
        else
          match sliceFree s (hopToward home ret) l with
          | none => s
          | some slice => putLine s l { x with acted := some win, state := .moving, moveTo := slice, since := s.time }

/-- A line evicted: pin cleared, replicas gone, dirty data written back, the entry ABSENT (R129, R235). -/
def evictLine (s : State) (l : Nat) : State := { s with lines := aerase s.lines l }

/-! ### Tiers -/

/-- The HBM stack of a physical address (R113). -/
def stackOf (pa : Nat) : Nat := pa / 4096 % 48
/-- Its offset within that stack (R113). -/
def stackOffset (pa : Nat) : Nat := pa / 4096 / 48 * 4096 + pa % 4096
/-- The host port that serves a pool or host address (R317). -/
def portOf (pa : Nat) : Nat := if tierOf pa = .host then pa / 2 ^ 48 % 2 else pa / 2 ^ 47 % 2
/-- The causes of a tier that cannot serve (R317, R376): HOST_ERROR and POOL_ERROR. -/
def tierFails (s : State) (pa : Nat) : Option Nat :=
  let p := aget ({} : HostPort) s.hostPorts (portOf pa)
  match tierOf pa with
  | .host => if p.up then none else some 0x29
  | .pool => if p.up && p.cxl && p.pool then none else some 0x2A
  | _ => none
/-- An address of a stack that has failed or stopped (R405). -/
def stackDead (s : State) (pa : Nat) : Bool := tierOf pa = .hbm && (s.hbmOut.contains (stackOf pa) || s.hbmHot.contains (stackOf pa) || s.hbmOut.contains (stackOf pa + 64 * (Config.channelOf (stackOffset pa) + 1)))
/-- The cause of uncorrectable data at an address, for a read or an atomic (R368, R373, R405). -/
def poisonCause (s : State) (pa : Nat) (atomic : Bool) : Option Nat :=
  match tierFails s pa with
  | some c => some c
  | none =>
    if poisoned s pa || stackDead s pa then
      match tierOf pa with
      | .host => some 0x29
      | .pool => some 0x2A
      | _ => some (if atomic then 0x25 else 0x24)
    else none
/-- ENGINE of the unit that reports a failed access (Tables 19-5 and 20-5). -/
def tierEngine (s : State) (pa : Nat) : Nat :=
  match tierOf pa with
  | .hbm => let a := match lineAt s (lineOf pa) with | some x => x.home | none => anchorOf s (lineOf pa)
            engineOf 4 (reticleOfSlice a) (a % Config.slicesPerReticle)
  | _ => deviceEngine 10 (portOf pa)
/-- SYNDROME of a failed access: the domain address, or the completion status, which the manual does not number (log 5). -/
def tierSyn (s : State) (pa cause : Nat) : Word × State :=
  if cause = 0x24 || cause = 0x25 then (w64 (domainAddr s.devnum pa), s) else freeValue s

/-! ### Writes and reads at the home -/

/-- A write performs: memory changes, a full line clears its poison (R373), waiters are evaluated (R239). -/
def writeAt (s : State) (pa : Nat) (bs : List Byte) : State :=
  let s := { s with mem := memWrite s.mem pa bs }
  let s := if 128 ≤ bs.length && pa % 128 = 0 then
      { s with poison := s.poison.filter fun l => !(lineOf pa ≤ l && l < lineOf (pa + bs.length)) }
    else s
  evalWatches s

/-- A write of a unit that is no thread: the replicas of its lines go first, at once (R127, R140, log 10). -/
def unitWrite (s : State) (pa : Nat) (bs : List Byte) : State := writeAt (freshLines s pa bs.length) pa bs

/-- Replica invalidations begin for a line (R127). -/
def collapseLine (s : State) (l : Nat) : State :=
  match lineAt s l with
  | none => s
  | some x =>
    if x.replicas = [] then s
    else putLine s l { x with
      state := .collapsing, since := s.time
      acks := x.acks ++ ((x.replicas.map (·.1)).filter fun r => !x.acks.contains r) }

/-- A line on which a write may perform now at an ATOMIC or PROPAGATE page (R126, R127). -/
def writable (s : State) (l : Nat) (prop : Bool) : Bool :=
  match lineAt s l with
  | none => true
  | some x => x.state ≠ .moving && (prop || (x.replicas = [] && x.state ≠ .collapsing))

/-- A line is covered by the attached descriptor of a sequence (R251). -/
def isDescriptor (s : State) (pa : Nat) : Bool := (afind s.seqs (128 * lineOf pa)).isSome

/-- The cause that a store meets at the home (R404): an attached descriptor or an immutable line. -/
def storeRejected (s : State) (pa : Nat) : Option Nat :=
  if isDescriptor s pa then some 0x51 else if immutable s pa then some 0x52 else none

/-- A write at the home of its line by a warp of a reticle, or by an agent without one: its collapse begins, and its use is counted, with
no action of the Yardmaster while the line collapses (R126, R127). An uncached one performs at the tier, ordered with the line's other
accesses as a home would order it (R114). -/
def homeWrite (s : State) (by_ : Option (Nat × Nat)) (uc prop stream : Bool) (pa : Nat) (bs : List Byte) : State :=
  let far := uncached s uc pa
  let s := writeAt s pa bs
  let l := lineOf pa
  let s := match lineAt s l with
    | some x => putLine s l { x with wrote := some (s.time / s.yardWin), dirty := x.dirty || !far }
    | none => s
  let s := if prop then collapseLine s l else s
  match by_ with
  | none => s
  | some (k, r) =>
    let s := if far then s else useLine s l r true uc (!stream)
    match lineAt s l with
    | some x => if x.replicas = [] || x.own.contains k then s else putLine s l { x with own := k :: x.own }
    | none => s

/-- The replica that serves a warp of a reticle: none where the access is uncached, the line is moving (Table 6-8), or the warp has
written the line while its invalidations are outstanding (R127, R130, R141). -/
def replicaFor (s : State) (k ret : Nat) (uc : Bool) (pa : Nat) : Option (List Byte) :=
  if uncached s uc pa then none
  else
    match lineAt s (lineOf pa) with
    | some x => if x.own.contains k || x.state = .moving then none else (afind x.replicas ret).map (·.2)
    | none => none

/-- The bytes that a load of a warp receives: from its reticle's replica, else from the home (R127, R130, R141). -/
def serveBytes (s : State) (k ret : Nat) (uc : Bool) (pa n : Nat) : List Byte :=
  match replicaFor s k ret uc pa with
  | some bs => (bs.drop (pa % 128)).take n
  | none => memBytes s.mem pa n

/-- The slices that a request of a reticle for a line visits (R125): the one that its home hint names, the anchor if that one is not the
home, and the home. -/
def requestPath (s : State) (ret l : Nat) : List Nat :=
  match lineAt s l with
  | none => [anchorOf s l]
  | some x =>
    let a := anchorOf s l
    match afind (reticleAt s ret).hints l with
    | some h => if h = x.home then [h] else if h = a || a = x.home then [h, x.home].eraseDups else [h, a, x.home]
    | none => if a = x.home then [a] else [a, x.home]

/-- The reticle's home hint for a line follows the slice that answered (R125, log 7). -/
def learnHome (s : State) (ret l : Nat) : State :=
  let home := (requestPath s ret l).getLastD 0
  let r := reticleAt s ret
  if afind r.hints l = some home then s else putReticle s ret { r with hints := aput r.hints l home }

/-- A load served by the home counts as a use (R126), and its reticle learns where the home is (R125). -/
def useByLoad (s : State) (k ret : Nat) (uc stream : Bool) (pa : Nat) : State :=
  if uncached s uc pa || (replicaFor s k ret uc pa).isSome then s
  else useLine (if (lineAt s (lineOf pa)).isSome then learnHome s ret (lineOf pa) else s) (lineOf pa) ret false uc (!stream)

/-- Some line has invalidations outstanding: a release at .device or wider waits (R127, R145, log 10). -/
def anyCollapsing (s : State) : Bool := s.lines.any fun x => x.2.acks ≠ []

/-- A write that has performed may still be unseen at a scope by a thread of a reticle: at .reticle or narrower, its own reticle has an
invalidation to acknowledge; at .device or wider, any reticle (R127, R140, R145, log 10). -/
def unseen (s : State) (ret scope : Nat) : Bool :=
  if scope ≤ 3 then s.lines.any fun x => x.2.acks.contains ret else anyCollapsing s

/-! ### Hints and placement -/

/-- Lines of a slice's set that are pinned: at most half of its ways (R128, log 7). -/
def pinRoom (s : State) (l : Nat) : Bool :=
  match lineAt s l with
  | none => false
  | some x => (s.lines.filter fun y => y.2.pin && y.2.home = x.home && Config.setOf y.1 = Config.setOf l).length
              < waysOf (groupHealthy s (groupOf x.home)) / 2

/-- The pin bit of a placed line set, while its set has room (R128). -/
def pinLine (s : State) (l : Nat) : State :=
  match lineAt s l with
  | none => s
  | some x => if x.pin || !pinRoom s l then s else putLine s l { x with pin := true }

/-- A line placed for an access of a hint: a stream access does not allocate (R125, R128). -/
def placeFor (s : State) (uc : Bool) (hint pa : Nat) : State :=
  if uncached s uc pa || hint = 2 then s else placeLine s (lineOf pa)

/-- What a hint does once the line is placed (R128). -/
def applyHint (s : State) (hint ret pa : Nat) (uc read : Bool) : State :=
  if uncached s uc pa then s
  else if hint = 1 then pinLine s (lineOf pa)
  else if hint = 3 && read then placeReplica s (lineOf pa) ret
  else s

/-- What a hint does for every line of an access (R128). -/
def applyHints (s : State) (hint ret : Nat) (pas : List Nat) (uc read : Bool) : State :=
  ((pas.map lineOf).eraseDups).foldl (fun s m => applyHint s hint ret (128 * m) uc read) s

/-! ### Other devices -/

/-- A Yilesh port that is trained. -/
def ylPort (s : State) : Nat :=
  match s.ylPorts.find? fun p => p.2.trained with
  | some p => p.1
  | none => 0

/-- A request of an agent that is no thread sent to the device that owns a word (R323): it reads n bytes, or writes where n is 0. -/
def sendAgent (s : State) (who dev : Nat) (va : Word) (n : Nat) (idemp : Bool) : State :=
  let x := freshId s
  { x.2 with remotes := x.2.remotes ++ [{
      tag := x.1, acc := who, lane := 0, dev := dev, port := ylPort s, idemp := idemp, since := s.time, va := va.toNat, n := n }] }

/-- Requests of an agent to other devices are outstanding. -/
def agentBusy (s : State) (who : Nat) : Bool := s.remotes.any fun r => r.acc = who

/-- The request of an agent to another device that has failed, if any. -/
def agentLost (s : State) (who : Nat) : Option Reply := s.replies.find? fun r => r.who = who && r.cause ≠ 0

/-- What an agent was answered is dropped with the work that asked. -/
def forget (s : State) (who : Nat) : State := { s with replies := s.replies.filter fun r => r.who ≠ who }

end Sys2Proof.Machine
end

