-- ==== Sys2Proof/Machine/Torus.lean ====
section
/-!
DEFINITION. The logical torus, relative core names and neighbour pointers (R11 to R20, log 13).
-/
namespace Sys2Proof.Machine
open Sys2Proof

/-! ### The logical torus -/

/-- The slot of a logical coordinate in the base layout of n slots (R16). -/
def foldSlot (n c : Nat) : Nat := if c < n / 2 then 2 * c else 2 * (n - 1 - c) + 1
/-- The logical coordinate of a slot. -/
def unfoldSlot (n k : Nat) : Nat := if k % 2 = 0 then k / 2 else n - 1 - k / 2
/-- The core at a physical position (R14). -/
def coreAtXY (x y : Nat) : Nat := 120 * (8 * (y / 10) + x / 12) + 12 * (y % 10) + x % 12
/-- X of a core (R14). -/
def coreX (core : Nat) : Nat := 12 * (core / 120 % 8) + core % 12
/-- Y of a core (R14). -/
def coreY (core : Nat) : Nat := 10 * (core / 120 / 8) + core % 120 / 12
/-- The number of a logical position: 96 * r + c. -/
def logNum (c r : Nat) : Nat := 96 * r + c
/-- The core of the base layout at a logical position (R16). -/
def baseCore (n : Nat) : Nat := coreAtXY (foldSlot 96 (n % 96)) (foldSlot 56 (n / 96))
/-- The core that holds a logical position (R15, log 13). -/
def coreOfLog (s : State) (n : Nat) : Nat := (afind s.embed n).getD (baseCore n)
/-- The logical position that a core holds, if it is embedded. -/
def logOfCore (s : State) (core : Nat) : Option Nat :=
  match s.embed.find? fun e => e.2 = core with
  | some e => some e.1
  | none =>
    if 56 ≤ coreY core then none
    else
      let n := logNum (unfoldSlot 96 (coreX core)) (unfoldSlot 56 (coreY core))
      if (afind s.embed n).isSome then none else some n

/-- A signed byte. -/
def sbyte (n : Nat) : Int := sval 8 n
/-- A relative core name within the ranges of R19. -/
def nameOk (name : Nat) : Bool :=
  let dc := sbyte (name / 256)
  let dr := sbyte (name % 256)
  decide (-48 ≤ dc) && decide (dc ≤ 47) && decide (-28 ≤ dr) && decide (dr ≤ 27)
/-- The core that a relative name reaches from a core (R19, R20). -/
def resolveName (s : State) (core name : Nat) : Nat :=
  let n := (logOfCore s core).getD 0
  let c := (((n % 96 : Nat) : Int) + sbyte (name / 256)) % 96
  let r := (((n / 96 : Nat) : Int) + sbyte (name % 256)) % 56
  coreOfLog s (logNum c.toNat r.toNat)

/-- A neighbour pointer: offsets, hops and the reticle bit (Table 1-2). -/
def nbrField (a b hops : Nat) : W32 :=
  let dx : Int := (coreX b : Int) - coreX a
  let dy : Int := (coreY b : Int) - coreY a
  w32 (wrapN 4 dx * 4096 + wrapN 4 dy * 256 + hops % 4 * 64 + (if reticleOf a = reticleOf b then 0 else 32))

/-- The logical neighbours of a position: 0 east, 1 west, 2 north, 3 south (R15). -/
def nbrPos (n dir : Nat) : Nat :=
  let c := n % 96
  let r := n / 96
  match dir with
  | 0 => logNum ((c + 1) % 96) r
  | 1 => logNum ((c + 95) % 96) r
  | 2 => logNum c ((r + 55) % 56)
  | _ => logNum c ((r + 1) % 56)

/-- Hops between two cores when no route detours (R14). -/
def hops (a b : Nat) : Nat :=
  (coreX a - coreX b) + (coreX b - coreX a) + (coreY a - coreY b) + (coreY b - coreY a)

/-- Routed hops from a position to a neighbour: the length that firmware gave a route that detours, else the distance (R15, R18,
log 13). -/
def routedHops (s : State) (n dir : Nat) : Nat :=
  (afind s.detours (4 * n + dir)).getD (hops (coreOfLog s n) (coreOfLog s (nbrPos n dir)))

/-- The neighbour pointers of a core under the embedding in force: E, W, N, S (R15, R17). -/
def nbrOf (s : State) (core : Nat) : List W32 :=
  match logOfCore s core with
  | none => [0#32, 0#32, 0#32, 0#32]
  | some n => (List.range 4).map fun d => nbrField core (coreOfLog s (nbrPos n d)) (routedHops s n d)

end Sys2Proof.Machine
end

