-- ==== Sys2Proof/Machine/Special.lean ====
section
/-!
DEFINITION. The special-register map (Table 4-2, R87 to R91): which numbers exist, how wide each is, and its value at issue.
-/
namespace Sys2Proof.Machine
open Sys2Proof

/-- A special-register number is listed in Table 4-2. -/
def sregKnown (n : Nat) : Bool :=
  n ≤ 0x04 || (0x08 ≤ n && n ≤ 0x0E) || (0x10 ≤ n && n ≤ 0x16) || n = 0x18 || n = 0x19 || (0x20 ≤ n && n ≤ 0x23)
    || (0x28 ≤ n && n ≤ 0x2B) || n = 0x30

/-- A special register of 64 bits (Table 4-2). -/
def sregWide (n : Nat) : Bool := n = 0x28 || n = 0x29 || n = 0x2A || n = 0x30

/-- The clock region of a reticle (R12). -/
def regionOf (reticle : Nat) : Nat := 4 * (reticle / 8 / 2) + reticle % 8 / 2

/-- %TIME as a core reads it: its region's counter (R89, R313). -/
def timeAt (s : State) (core : Nat) : Nat := ((s.time : Int) + s.regionOff.getD (regionOf (reticleOf core)) 0).toNat

/-- Grid extents NX, NY, NZ of a record (Table 3-1). -/
def recExtent (r : List Byte) (k : Nat) : Nat :=
  match k with | 0 => recField r 0x08 4 | 1 => recField r 0x0C 2 | _ => recField r 0x0E 2
/-- Team extents SX, SY, SZ of a record. -/
def recShape (r : List Byte) (k : Nat) : Nat := recField r (0x10 + 2 * k) 2
/-- Coordinate k of a linear index in an array of extents (R28, R59). -/
def coord (nx ny i k : Nat) : Nat :=
  match k with | 0 => i % nx | 1 => i / nx % ny | _ => i / nx / ny

/-- %PIX: the frame's PIX in handler mode, else 0, for a program reads it between instructions (R88, R353). -/
def pixVal (s : State) : Word :=
  match (me s).handler with
  | none => 0#64
  | some h =>
    match readVa s (myTeam s).ctx (frameVa (myCtx s) h.frame + 0x50#64) 4 with
    | .ok bs => w64 (leVal bs)
    | .error _ => zx64 h.pix

/-- %NBR.E, .W, .N and .S of a core: 0 until the torus is embedded (Table 1-2, R18). -/
def nbrAt (s : State) (core k : Nat) : W32 := if s.placed then (nbrOf s core).getD k 0#32 else 0#32

/-- The value of a special register for a lane of the issuing warp, at issue (Table 4-2). -/
def sregVal (s : State) (n lane : Nat) : Word :=
  let w := me s
  let tm := myTeam s
  let c := myCtx s
  let r := recordOf s tm
  let t := w.wid * 64 + lane
  let g := (gridOf c tm.grid)
  match n with
  | 0x00 => w64 Config.width
  | 0x01 => w64 lane
  | 0x02 => w64 (coord (recShape r 0) (recShape r 1) t 0)
  | 0x03 => w64 (coord (recShape r 0) (recShape r 1) t 1)
  | 0x04 => w64 (coord (recShape r 0) (recShape r 1) t 2)
  | 0x08 => w64 w.wid
  | 0x09 => w64 (coord (recExtent r 0) (recExtent r 1) tm.index 0)
  | 0x0A => w64 (coord (recExtent r 0) (recExtent r 1) tm.index 1)
  | 0x0B => w64 (coord (recExtent r 0) (recExtent r 1) tm.index 2)
  | 0x0C => w64 (recExtent r 0)
  | 0x0D => w64 (recExtent r 1)
  | 0x0E => w64 (recExtent r 2)
  | 0x10 => w64 (recShape r 0)
  | 0x11 => w64 (recShape r 1)
  | 0x12 => w64 (recShape r 2)
  | 0x13 => w64 (match g with | some g => g.depth | none => 0)
  | 0x14 => w64 tm.ctx
  | 0x15 => w64 (match g with | some g => g.prio | none => 0)
  | 0x16 => w64 Config.stepping
  | 0x18 => zx64 w.gang
  | 0x19 => pixVal s
  | 0x20 => zx64 (nbrAt s s.cur.core 0)
  | 0x21 => zx64 (nbrAt s s.cur.core 1)
  | 0x22 => zx64 (nbrAt s s.cur.core 2)
  | 0x23 => zx64 (nbrAt s s.cur.core 3)
  | 0x28 => w64 (timeAt s s.cur.core)
  | 0x29 => w64 (now s)
  | 0x2A => w64 c.energy
  | 0x2B => w64 s.tslot
  | 0x30 => w.seed
  | _ => 0#64

/-- Stage-2 cause of a reserved special-register number (Table 21-5). -/
def sregCauses (n : Nat) : List (Nat × Word) := if sregKnown n then [] else [(0x17, w64 n)]

end Sys2Proof.Machine
end

