-- ==== Sys2Proof/Machine/Access.lean ====
section
/-!
DEFINITION. The issue of memory accesses: translation by the issuing warp (R117, R344, R401), lane addresses (R169), the
checks of stage 4 (R384, R402), the store buffer and read set of a TRY region (R244, R245, R435), and the outstanding access
that an issue leaves (R71, R142, R229, R301).
-/
namespace Sys2Proof.Machine
open Sys2Proof

/-- What a translation gives the issuing warp: an address, a TLB miss, a missing page already reported, or a cause. -/
inductive Tr
  | ok (pa : Nat) (leaf : Word)
  | miss
  | absent (level : Nat)
  | bad (cause : Nat) (syn : Word)
  deriving DecidableEq, Repr

/-- The context of a warp. -/
def warpCtx (s : State) (k : Nat) : Nat := (teamAt s (warpAt s k).team).ctx

/-- The leaf that a warp has for an address: in its core's TLB, or brought by a walk of its pending instruction (R117). -/
def warpLeaf (s : State) (k : Nat) (va : Word) : Option Word :=
  let t := teamAt s (warpAt s k).team
  match leafOf s (coreTlb t.core) t.ctx va with
  | some e => some e
  | none => afind (warpAt s k).walked (pageOf va)

/-- Translation of an address for a warp (R111, R117, R401, R402). -/
def translate (s : State) (k : Nat) (need : Need) (va : Word) : Tr :=
  if !canonical va then .bad 0x21 0#64
  else
    match warpLeaf s k va with
    | some e =>
      match lowest (leafCauses s need e va) with
      | some c => .bad c.1 c.2
      | none => .ok (leafPa e va) e
    | none =>
      match (warpAt s k).walkBad.find? fun b => b.1 = pageOf va with
      | some b => if b.2.1 = 0x30 then .absent b.2.2.toNat else .bad b.2.1 b.2.2
      | none => .miss

/-- Walks asked for by a warp, one for each page (R117). -/
def askWalks (s : State) (k : Nat) (rs : List WalkReq) : State :=
  rs.foldl (fun s r =>
    let w := warpAt s k
    if w.walks.any fun x => x.page = r.page then s else putWarp s k { w with walks := w.walks ++ [{ r with since := s.time }] }) s

/-- The form of an access: space, need, unit, parts, whether checks are reported in a status, further causes. -/
structure AccForm where
  ts      : Bool := false
  need    : Need := .read
  unit    : Nat := 4
  parts   : Nat := 1
  guarded : Bool := false
  extra   : Nat → Word → List (Nat × Word) := fun _ _ => []

/-- What the checks of stage 4 find for one lane. -/
inductive Reach
  | ok (a : LaneAcc)
  | miss
  | bad (c : LaneCause)
  | banned
  deriving DecidableEq, Repr

/-- The addresses of the parts of a lane's access. -/
def partVas (f : AccForm) (va : Word) : List Word := (List.range f.parts).map fun j => va + w64 (f.unit * j)

/-- A cause that LDG and STG report as a failed check (R232, R402). -/
def softCause (c : Nat) : Bool := c = 0x21 || c = 0x22 || c = 0x31 || c = 0x32

/-- The checks of stage 4 on one lane's access (R384, R401, R402); `inTx` says that the lane is in an open TRY region, where
uncached pages are forbidden (R244). -/
def reachLane (s : State) (k : Nat) (f : AccForm) (inTx : Bool) (l : Nat) (va : Word) : Reach :=
  if va.toNat % f.unit ≠ 0 then .bad ⟨l, 0x20, some va.toNat, w64 f.unit⟩
  else if f.ts then
    let tb := (teamAt s (warpAt s k).team).tileb
    if tb ≤ va.toNat then .bad ⟨l, 0x23, some va.toNat, w64 tb⟩ else .ok { lane := l, va := va, pas := [va.toNat] }
  else
    let rs := (partVas f va).map fun v => translate s k f.need v
    if rs.any fun r => match r with | .miss => true | _ => false then .miss
    else
      let bads := rs.flatMap fun r => match r with
        | .bad c y => [(c, y)]
        | .ok pa e => f.extra pa e
        | _ => []
      let absent := rs.any fun r => match r with | .absent _ => true | _ => false
      let pas := rs.flatMap fun r => match r with | .ok pa _ => [pa] | _ => []
      let leaf := (rs.findSome? fun r => match r with | .ok _ e => some e | _ => none).getD 0#64
      let hard := if f.guarded then bads.filter (fun c => !softCause c.1) else bads
      match lowest hard with
      | some c => .bad ⟨l, c.1, some va.toNat, c.2⟩
      | none =>
        let a : LaneAcc :=
          { lane := l, va := va, pas := pas, dev := leafDev leaf, uc := leafUc leaf, prop := leafProp leaf
            hint := if leafUc leaf then 0 else leafHint leaf }
        if f.guarded then .ok { a with ok := bads = [] && !absent }
        else if absent then .ok { a with pas := [], wait := true }
        else if inTx && uncached s (leafUc leaf) (pas.headD 0) then .banned
        else .ok a

/-- The walks that a lane's access still needs. -/
def missWalks (s : State) (k : Nat) (f : AccForm) (pc : Word) (l : Nat) (va : Word) : List WalkReq :=
  if f.ts || va.toNat % f.unit ≠ 0 then []
  else (partVas f va).flatMap fun v =>
    match translate s k f.need v with
    | .miss => [{ page := pageOf v, va := v, lane := if l = 64 then lowBit s.cur.mask else l, pc := pc
                  guarded := f.guarded, exec := f.need = .exec }]
    | _ => []

/-! ### Regions -/

/-- The 16-byte unit of an address. -/
def unitOf (a : Nat) : Nat := a - a % 16

/-- The buffered bytes of a lane over n bytes: each with whether it is buffered (R151). -/
def buffered (t : Tx) (l : Nat) (ts : Bool) (a n : Nat) : List (Option Byte) :=
  (List.range n).map fun j =>
    match t.stores.find? fun e => e.lane = l && e.ts = ts && e.addr = unitOf (a + j) with
    | some e => if e.mask / 2 ^ ((a + j) % 16) % 2 = 1 then some (e.data.getD ((a + j) % 16) 0#8) else none
    | none => none

/-- Bytes merged into an entry of the store buffer. -/
def mergeEntry (e : TxStore) (a : Nat) (bs : List Byte) : TxStore :=
  let at_ := fun j => if a % 16 ≤ j && j < a % 16 + bs.length then some (bs.getD (j - a % 16) 0#8) else none
  { e with
    mask := (List.range 16).foldl (fun m j => if (at_ j).isSome && m / 2 ^ j % 2 = 0 then m + 2 ^ j else m) e.mask
    data := (List.range 16).map fun j => (at_ j).getD (e.data.getD j 0#8) }

/-- A lane's store enters the store buffer (R244, R435): `used` counts the entries in use while the instruction runs; none
when no entry is free. -/
def bufferStore (t : Tx) (used : Nat) (ts : Bool) (a : LaneAcc) : Option (Tx × Nat) :=
  let va := a.va.toNat
  if t.stores.any fun e => e.lane = a.lane && e.ts = ts && e.addr = unitOf va then
    some ({ t with stores := t.stores.map fun e =>
      if e.lane = a.lane && e.ts = ts && e.addr = unitOf va then mergeEntry e va a.data else e }, used)
  else if 256 ≤ used then none
  else
    let slot := ((List.range 256).find? fun n => !t.stores.any fun e => e.slot = n).getD 0
    let e : TxStore :=
      { slot := slot, lane := a.lane, ts := ts, addr := unitOf va, pa := unitOf (a.pas.headD 0), dev := a.dev, mask := 0
        data := List.replicate 16 0#8, order := t.order }
    some ({ t with stores := t.stores ++ [mergeEntry e va a.data], order := t.order + 1 }, used + 1)

/-- The stores of an instruction's lanes enter the buffer in ascending lane order; the lanes that found no entry. -/
def bufferStores (t : Tx) (ts : Bool) (ls : List LaneAcc) : Tx × Word :=
  let r := ls.foldl (fun (x : Tx × Nat × Word) a =>
    match bufferStore x.1 x.2.1 ts a with
    | some y => (y.1, y.2, x.2.2)
    | none => (x.1, x.2.1, x.2.2 ||| laneBit a.lane)) (t, t.stores.length, 0#64)
  (r.1, r.2.2)

/-- The units of the read set. -/
def readUnits (t : Tx) : List (Nat × Nat) := (t.reads.map fun e => (e.lane, e.addr)).eraseDups

/-- The lanes of a load take their entries of the read set (R244): the lanes that found none. -/
def reserveReads (t : Tx) (ls : List LaneAcc) : Tx × Word :=
  let r := ls.foldl (fun (x : Tx × Nat × Word) a =>
    let u := unitOf a.va.toNat
    if x.1.reads.any fun e => e.lane = a.lane && e.addr = u then x
    else if 512 ≤ x.2.1 then (x.1, x.2.1, x.2.2 ||| laneBit a.lane)
    else ({ x.1 with reads := x.1.reads ++ [{ lane := a.lane, addr := u, pa := unitOf (a.pas.headD 0), dev := a.dev, mask := 0, data := [] }] },
          x.2.1 + 1, x.2.2)) (t, (readUnits t).length, 0#64)
  (r.1, r.2.2)

/-- Lanes leave a region with a code; every lane of it when WW = 1. The state and the lanes that left. -/
def abortLanes (s : State) (k : Nat) (m : Word) (code : Nat) : State × Word :=
  let before := txLanes (warpAt s k)
  if m &&& before = 0#64 then (s, 0#64)
  else
    let s := txAbort s k m code 0
    (s, before &&& ~~~txLanes (warpAt s k))

/-! ### Issue -/

/-- Variable-latency instructions of a warp that are outstanding (R301). -/
def outstanding (s : State) (k : Nat) : Nat :=
  let w := warpAt s k
  let c := coreAt s (teamAt s w.team).core
  (accsOf s k).length + ((c.queue ++ c.waiting).filter fun x => x.warp = k).length
    + (c.chains.filter fun x => x.warp = k).length
    + ((teamAt s w.team).latch.filter fun h => h.wid = w.wid).length

/-- The lanes of the issuing warp that are in its open region: none in handler mode, since a handler run is outside every region (R151,
R356). -/
def regionLanes (s : State) : Word := if s.cur.inHandler then 0#64 else txLanes (me s)

/-- No room for a further variable-latency instruction that names a flag (R71, R301). -/
def crowded (s : State) (flag : Option Nat) : Bool := flagFull (me s) flag || 64 ≤ outstanding s s.cur.warp

/-- An access opened: it takes an id, and its flag counts up; an access of no lane finishes at once (R71, R165). -/
def openAcc (s : State) (a : Acc) : State × Option Nat :=
  if a.lanes = [] then (s, none)
  else
    let id := s.nextId
    let s := { s with nextId := id + 1 }
    let s := if a.counted then setMe s (flagUp (me s) a.flag) else s
    (keepAcc s { a with id := id, warp := s.cur.warp, pc := curPc s, issued := now s, inTx := regionLanes s }, some id)

/-- A memory instruction: its width, its fate in regions and handlers, its causes of stage 2, its lanes (64 stands for the
run of a uniform access), its form, the address and operands of a lane, and the access that it leaves. -/
structure MemInstr where
  width  : Nat := 2
  ban    : Ban := {}
  causes : List (Nat × Word) := []
  lanes  : State → List Nat
  form   : AccForm
  addr   : State → Nat → Word
  fill   : State → LaneAcc → LaneAcc := fun _ a => a
  acc    : Acc
  wide   : Bool := false
  holds  : Bool := false

/-- Lane causes of a uniform access strike the whole run (R379). -/
def spreadCauses (m : Word) (cs : List LaneCause) : List LaneCause :=
  cs.flatMap fun c => if c.lane = 64 then (lanesOf m).map fun l => { c with lane := l } else [c]

/-- The lanes that an access acts for in the order of its threads (R192). -/
def runLanesOf (m : Word) (ls : List LaneAcc) : Word :=
  if ls.any fun a => a.lane = 64 then m else ls.foldl (fun w a => w ||| laneBit a.lane) 0#64

/-- The part of an issue in an open TRY region: plain stores enter the buffer, plain loads take read-set entries and see
buffered bytes. The state, the lanes still to be accessed, and the lanes that aborted (R244). -/
def regionPart (s : State) (x : MemInstr) (ls : List LaneAcc) : State × List LaneAcc × Word :=
  let k := s.cur.warp
  match if s.cur.inHandler then none else (me s).tx with
  | none => (s, ls, 0#64)
  | some t =>
    let mine := ls.filter fun a => (afind t.depth a.lane).isSome
    let rest := ls.filter fun a => !(afind t.depth a.lane).isSome
    match x.acc.kind with
    | .store =>
      let r := bufferStores t x.form.ts mine
      let s := setMe s { me s with tx := some r.1 }
      let y := abortLanes s k r.2 4
      (y.1, rest, y.2)
    | .load _ =>
      let r := if t.global && !x.form.ts then reserveReads t mine else (t, 0#64)
      let s := setMe s { me s with tx := some r.1 }
      let y := abortLanes s k r.2 5
      let seen := mine.map fun a =>
        let b := buffered t a.lane x.form.ts a.va.toNat x.form.unit
        { a with data := b.map (fun o => o.getD 0#8), data2 := b.map fun o => if o.isSome then 1#8 else 0#8 }
      (y.1, (seen.filter fun a => !bit y.2 a.lane) ++ rest, y.2)
    | _ => (s, ls, 0#64)

/-- The effect of a memory instruction that passed stages 1 to 3. A store of an open region whose page is missing holds the region: it
does not issue before the page is there or its service has failed (R245, R362). -/
def memEffect (x : MemInstr) (s : State) : State :=
  let k := s.cur.warp
  let ls := x.lanes s
  let txm := regionLanes s
  let rs := ls.map fun l => (l, x.addr s l, reachLane s k x.form (bit txm l) l (x.addr s l))
  if crowded s x.acc.flag then notEligible s
  else if rs.any fun r => r.2.2 = .miss then
    notEligible (askWalks s k (rs.flatMap fun r => missWalks s k x.form (curPc s) r.1 r.2.1))
  else if x.acc.kind = .store && rs.any fun r => bit txm r.1 && (match r.2.2 with | .ok a => a.wait | _ => false) then notEligible s
  else
    let bad := rs.filterMap fun r => match r.2.2 with | .bad c => some c | _ => none
    let banned := rs.foldl (fun m r => if r.2.2 = .banned then m ||| laneBit r.1 else m) 0#64
    let good := rs.filterMap fun r => match r.2.2 with | .ok a => some (x.fill s a) | _ => none
    let run := s.cur.mask
    let w := me s
    let s := setMe s { (if x.wide then usePix (spendTokens w) s.cur else w) with walkBad := [] }
    let s := undoClear s
    let struck := spreadCauses run bad
    let s := faultLanes s struck
    let y := abortLanes s k banned 9
    let z := regionPart y.1 x (good.filter fun a => !bit y.2 a.lane)
    let gone := y.2 ||| z.2.2
    let o := openAcc z.1 { x.acc with lanes := z.2.1, run := runLanesOf (run &&& ~~~gone) z.2.1 }
    let stay := run &&& ~~~(gone ||| causeMask struck)
    match x.holds, o.2 with
    | true, some id => holdRun o.1 x.width stay id
    | _, _ => advance o.1 x.width stay

/-- A memory instruction issues. -/
def runMem (s : State) (x : MemInstr) : State := checked s x.ban x.causes (memEffect x)

end Sys2Proof.Machine
end

