-- ==== Sys2Proof/Machine/Memory.lean ====
section
/-!
DEFINITION. The memory instructions of chapter 11 other than those of sequences, ULD and UST, cache control, atomics and
waits, fences, and MBAR (R191, R192, R229 to R233, R235 to R242).
-/
namespace Sys2Proof.Machine
open Sys2Proof

/-- Bytes and signedness of an LD size (Table 8-7). -/
def ldBytes : LdSize → Nat × Bool
  | .n8 => (1, false) | .n16 => (2, false) | .n32 => (4, false) | .n64 => (8, false) | .n128 => (16, false)
  | .i8 => (1, true) | .i16 => (2, true)
/-- Bytes of an ST size (Table 8-7). -/
def stBytes : StSize → Nat | .n8 => 1 | .n16 => 2 | .n32 => 4 | .n64 => 8 | .n128 => 16
/-- Bytes and signedness of a ULD size (Table 8-12). -/
def uldBytes : USize → Nat × Bool
  | .n8 => (1, false) | .n16 => (2, false) | .n32 => (4, false) | .n64 => (8, false) | .n128 => (16, false)
  | .i8 => (1, true) | .i16 => (2, true) | .i32 => (4, true)
/-- Registers of a group of n bytes. -/
def groupRegs (n : Nat) : Nat := Nat.max 1 (n / 4)

/-- The lanes of an LM instruction: the run's lanes where its governing predicate is true (R229). -/
def lmLanes (o : LmOp) (s : State) : List Nat := lanesOf (s.cur.mask &&& govMask (me s) o.gov)
/-- A lane's address (R169). -/
def lmAddr (o : LmOp) (off : Word) (s : State) (l : Nat) : Word :=
  let w := me s
  greg w o.base.toNat + (if o.ix then sx64 (w32 ((srcRow w o.a false).getD l 0#64).toNat) else 0#64) + off
/-- The offset of LD, ST and CCTL (Table 8-7). -/
def off13 (o : LmOp) (unit : Nat) : Word := sx64 (o.offh ++ o.b) * w64 unit
/-- The offset of LDG, STG and MBAR. -/
def off6 (o : LmOp) (unit : Nat) : Word := sx64 o.offh * w64 unit
/-- The offset of ATOM, RED, WAITADD and WAITW. -/
def offA (o : LmOp) (unit : Nat) : Word := sx64 (fld o.offh 0 3) * w64 unit
/-- The index register, when one is named. -/
def lmIx (o : LmOp) : List VOp := if o.ix then [vsrc o.a 1] else []

/-- The bytes of a group of registers or of a latch in a lane, read at issue (R229). -/
def groupBytes (w : Warp) (f : BitVec 7) (n l : Nat) : List Byte :=
  if 120 ≤ f.toNat then bytesOf n ((srcRow w f (4 < n)).getD l 0#64).toNat
  else (List.range (groupRegs n)).flatMap fun j => bytesOf (Nat.min n 4) (vreg w (f.toNat + j) l).toNat

/-- The ordering part of an access from its LM fields. -/
def lmAcc (o : LmOp) (kind : AccKind) (bytes dst : Nat) : Acc :=
  { id := 0, warp := 0, kind := kind, ts := o.ts, bytes := bytes, ord := o.ord, scope := o.scope.toNat
    hint := o.hint, flag := flagOf o.flag, dst := dst }

/-- LD (R231). -/
def ldInstr (s : State) (sz : LdSize) (o : LmOp) : MemInstr :=
  let n := (ldBytes sz).1
  { ban := ⟨o.ord ≠ .plain, false⟩, causes := regCauses s (vdst o.d (groupRegs n) :: lmIx o)
    lanes := lmLanes o, form := { ts := o.ts, unit := n }, addr := lmAddr o (off13 o n)
    acc := lmAcc o (.load (ldBytes sz).2) n o.d.toNat }
/-- LD (R231). -/
def execLd (sz : LdSize) (o : LmOp) (s : State) : Host.Outcome State Fault Refusal := .next (runMem s (ldInstr s sz o))

/-- ST (R231). -/
def stInstr (s : State) (sz : StSize) (o : LmOp) : MemInstr :=
  let n := stBytes sz
  { ban := ⟨o.ord ≠ .plain, false⟩, causes := regCauses s (vdst o.d (groupRegs n) :: lmIx o)
    lanes := lmLanes o, form := { ts := o.ts, need := .write, unit := n }, addr := lmAddr o (off13 o n)
    fill := fun s a => { a with data := groupBytes (me s) o.d n a.lane }, acc := lmAcc o .store n o.d.toNat }
/-- ST (R231). -/
def execSt (sz : StSize) (o : LmOp) (s : State) : Host.Outcome State Fault Refusal := .next (runMem s (stInstr s sz o))

/-- The stage-2 cause of LDG and STG: B bit 6 must be 0 (R232, Table 21-4). -/
def psCauses (s : State) (o : LmOp) : List (Nat × Word) :=
  if bit o.b 6 then [(0x03, zx64 (slotWord s.cur s.cur.slot) ||| w64 (9 * 2 ^ 32))] else []

/-- The lanes of an LDG or STG: those of `active`, without the lowest ones that %PIX counts as complete (R232, R233). -/
def guardLanes (o : LmOp) (s : State) : List Nat := (lmLanes o s).drop (unitsDone (me s) s.cur)

/-- LDG (R232). -/
def ldgInstr (s : State) (words : BitVec 3) (o : LmOp) : MemInstr :=
  let n := words.toNat + 1
  { ban := ⟨true, false⟩, causes := psCauses s o ++ regCauses s (vgroup o.d.toNat n :: lmIx o)
    lanes := guardLanes o, form := { unit := 4, parts := n, guarded := true }, addr := lmAddr o (off6 o 4)
    acc := lmAcc o (.ldg (o.b.toNat % 64)) (4 * n) o.d.toNat, wide := true }
/-- LDG (R232). -/
def execLdg (words : BitVec 3) (o : LmOp) (s : State) : Host.Outcome State Fault Refusal :=
  .next (runMem s (ldgInstr s words o))

/-- STG (R232). -/
def stgInstr (s : State) (words : BitVec 3) (o : LmOp) : MemInstr :=
  let n := words.toNat + 1
  { ban := ⟨true, false⟩, causes := psCauses s o ++ regCauses s (vgroup o.d.toNat n :: lmIx o)
    lanes := guardLanes o, form := { need := .write, unit := 4, parts := n, guarded := true }, addr := lmAddr o (off6 o 4)
    fill := fun s a => { a with data := (List.range n).flatMap fun j => bytesOf 4 (vreg (me s) (o.d.toNat + j) a.lane).toNat }
    acc := lmAcc o (.stg (o.b.toNat % 64)) (4 * n) o.d.toNat, wide := true }
/-- STG (R232). -/
def execStg (words : BitVec 3) (o : LmOp) (s : State) : Host.Outcome State Fault Refusal :=
  .next (runMem s (stgInstr s words o))

/-! ### Atomics and waits -/

/-- FN of an ATOM operation (Table 8-9). -/
def atomFn : AtomOp → Nat | .add => 0 | .min => 1 | .max => 2 | .and => 3 | .or => 4 | .xor => 5 | .exch => 6 | .cas => 7
/-- The operation of a RED as an ATOM operation. -/
def redAtom : RedOp → AtomOp | .add => .add | .min => .min | .max => .max | .and => .and | .or => .or | .xor => .xor
/-- ATY code (R169). -/
def atyCode : Aty → Nat | .i32 => 0 | .n32 => 1 | .i64 => 2 | .n64 => 3 | .fp32 => 4 | .n128 => 5
/-- The types that Table 11-2 allows an operation. -/
def atyAllowed (op : AtomOp) (ty : Aty) : Bool :=
  match op with
  | .add | .min | .max => ty ≠ .n128
  | .and | .or | .xor => ty ≠ .n128 && ty ≠ .fp32
  | _ => true
/-- FN and ATY as SYNDROME has them. -/
def fnAty (fn : Nat) (ty : Aty) : Word := w64 (fn + 256 * atyCode ty)
/-- The field of the source group after B, where the causes of stage 2 let it through (R169, R236, R238). -/
def secondGroup (o : LmOp) (n : Nat) : BitVec 7 := o.b + BitVec.ofNat 7 n

/-- Causes of an atomic on a host window over PCIe (Table 20-5). -/
def pcieCauses (s : State) (op : AtomOp) (ty : Aty) (pa : Nat) : List (Nat × Word) :=
  let carried := ty ≠ .fp32 && (if ty = .n128 then op = .cas else op = .add || op = .exch || op = .cas)
  if hostPcie s pa && !carried then [(0x2C, fnAty (atomFn op) ty)] else []
/-- Causes of waiting on an uncached word (Table 20-5). -/
def waitCauses (s : State) (pa : Nat) (e : Word) : List (Nat × Word) :=
  if uncached s (leafUc e) pa then [(0x2D, 0#64)] else []

/-- ATOM (R236). -/
def atomInstr (s : State) (op : AtomOp) (ty : Aty) (o : LmOp) : MemInstr :=
  let n := atyBytes ty
  let r := groupRegs n
  let two := if op = .cas then [vnext o.b r] else []
  { ban := ⟨true, false⟩
    causes := (if atyAllowed op ty then [] else [(0x4A, fnAty (atomFn op) ty)])
      ++ (if o.ts && ty = .n128 then [(0x27, 0#64)] else []) ++ regCauses s (vdst o.d r :: vsrc o.b r :: two ++ lmIx o)
    lanes := lmLanes o
    form := { ts := o.ts, need := .readWrite, unit := n, extra := fun pa _ => pcieCauses s op ty pa }
    addr := lmAddr o (offA o n)
    fill := fun s a => { a with
      data := groupBytes (me s) o.b n a.lane
      data2 := if op = .cas then groupBytes (me s) (secondGroup o r) n a.lane else [] }
    acc := lmAcc o (.atom op ty) n o.d.toNat }
/-- ATOM (R236). -/
def execAtom (op : AtomOp) (ty : Aty) (o : LmOp) (s : State) : Host.Outcome State Fault Refusal :=
  .next (runMem s (atomInstr s op ty o))

/-- RED (R237). -/
def redInstr (s : State) (op : RedOp) (ty : Aty) (o : LmOp) : MemInstr :=
  let n := atyBytes ty
  { ban := ⟨true, false⟩
    causes := (if atyAllowed (redAtom op) ty && ty ≠ .n128 then [] else [(0x4A, fnAty (atomFn (redAtom op)) ty)])
      ++ regCauses s (vsrc o.b (groupRegs n) :: lmIx o)
    lanes := lmLanes o
    form := { ts := o.ts, need := .write, unit := n, extra := fun pa _ => pcieCauses s (redAtom op) ty pa }
    addr := lmAddr o (offA o n)
    fill := fun s a => { a with data := groupBytes (me s) o.b n a.lane }
    acc := lmAcc o (.red op ty) n 0 }
/-- RED (R237). -/
def execRed (op : RedOp) (ty : Aty) (o : LmOp) (s : State) : Host.Outcome State Fault Refusal :=
  .next (runMem s (redInstr s op ty o))

/-- The integer types of waits (R238, R239). -/
def waitTypeCauses (fn : Nat) (ty : Aty) : List (Nat × Word) :=
  if ty = .fp32 || ty = .n128 then [(0x4A, fnAty fn ty)] else []

/-- WAITADD (R238). -/
def waitaddInstr (s : State) (ty : Aty) (o : LmOp) : MemInstr :=
  let n := atyBytes ty
  let r := groupRegs n
  { ban := ⟨true, false⟩
    causes := waitTypeCauses 0 ty ++ regCauses s (vdst o.d r :: vsrc o.b r :: vnext o.b r :: lmIx o)
    lanes := lmLanes o
    form := { need := .readWrite, unit := n, extra := fun pa e => waitCauses s pa e }
    addr := lmAddr o (offA o n)
    fill := fun s a => { a with
      data := groupBytes (me s) o.b n a.lane, data2 := groupBytes (me s) (secondGroup o r) n a.lane }
    acc := lmAcc o (.waitadd ty) n o.d.toNat, holds := true }
/-- WAITADD (R238). -/
def execWaitadd (ty : Aty) (o : LmOp) (s : State) : Host.Outcome State Fault Refusal :=
  .next (runMem s (waitaddInstr s ty o))

/-- FN of a wait condition. -/
def condFn : WaitCond → Nat | .eq => 0 | .ne => 1 | .ge => 2 | .lt => 3

/-- WAITW (R239). -/
def waitwInstr (s : State) (cond : WaitCond) (ty : Aty) (o : LmOp) : MemInstr :=
  let n := atyBytes ty
  { ban := ⟨true, false⟩, causes := waitTypeCauses (condFn cond) ty ++ regCauses s (vsrc o.b (groupRegs n) :: lmIx o)
    lanes := lmLanes o, form := { unit := n, extra := fun pa e => waitCauses s pa e }, addr := lmAddr o (offA o n)
    fill := fun s a => { a with data := groupBytes (me s) o.b n a.lane }
    acc := lmAcc o (.waitw cond ty) n 0, holds := true }
/-- WAITW (R239). -/
def execWaitw (cond : WaitCond) (ty : Aty) (o : LmOp) (s : State) : Host.Outcome State Fault Refusal :=
  .next (runMem s (waitwInstr s cond ty o))

/-! ### Cache control -/

/-- A CCTL operation (R235). -/
def cctlInstr (s : State) (op : Nat) (o : LmOp) : MemInstr :=
  { ban := ⟨true, false⟩, causes := regCauses s (lmIx o), lanes := lmLanes o, form := { unit := 128 }
    addr := lmAddr o (off13 o 128), acc := lmAcc o (.cctl op) 128 0 }
/-- CCTL.unpin (R235). -/
def execCctlUnpin (o : LmOp) (s : State) : Host.Outcome State Fault Refusal := .next (runMem s (cctlInstr s 0 o))
/-- CCTL.pin (R235). -/
def execCctlPin (o : LmOp) (s : State) : Host.Outcome State Fault Refusal := .next (runMem s (cctlInstr s 1 o))
/-- CCTL.evict (R235). -/
def execCctlEvict (o : LmOp) (s : State) : Host.Outcome State Fault Refusal := .next (runMem s (cctlInstr s 2 o))
/-- CCTL.prefetch (R235). -/
def execCctlPrefetch (o : LmOp) (s : State) : Host.Outcome State Fault Refusal := .next (runMem s (cctlInstr s 3 o))

/-! ### Uniform accesses -/

/-- The lane 64 stands for the run, when the governing predicate holds. -/
def umLanes (x : UmExt) (s : State) : List Nat := if qgovHolds (me s) x.gov then [64] else []
/-- The address of a uniform access (R191). -/
def umAddr (a : BitVec 6) (x : UmExt) (n : Nat) (s : State) (_ : Nat) : Word := greg (me s) a.toNat + sx64 x.off * w64 n

/-- ULD (R191, R192). -/
def uldInstr (sz : USize) (d a : BitVec 6) (x : UmExt) : MemInstr :=
  let n := (uldBytes sz).1
  { causes := if n = 16 then gpairCauses d else [], lanes := umLanes x, form := { unit := n }, addr := umAddr a x n
    acc := { id := 0, warp := 0, kind := .uload (uldBytes sz).2, bytes := n, ord := x.ord, scope := x.scope.toNat
             flag := flagOf x.flag, dst := d.toNat } }
/-- ULD (R191). -/
def execUld (sz : USize) (d a : BitVec 6) (x : UmExt) (s : State) : Host.Outcome State Fault Refusal :=
  .next (runMem s (uldInstr sz d a x))

/-- UST (R191, R192). -/
def ustInstr (sz : StSize) (d a : BitVec 6) (x : UmExt) : MemInstr :=
  let n := stBytes sz
  { ban := ⟨true, false⟩, causes := if n = 16 then gpairCauses d else [], lanes := umLanes x
    form := { need := .write, unit := n }, addr := umAddr a x n
    fill := fun s l => { l with
      data := (bytesOf 8 (greg (me s) d.toNat).toNat ++ bytesOf 8 (greg (me s) (d.toNat + 1)).toNat).take n }
    acc := { id := 0, warp := 0, kind := .ustore, bytes := n, ord := x.ord, scope := x.scope.toNat
             flag := flagOf x.flag, dst := d.toNat } }
/-- UST (R191). -/
def execUst (sz : StSize) (d a : BitVec 6) (x : UmExt) (s : State) : Host.Outcome State Fault Refusal :=
  .next (let m := ustInstr sz d a x; checkedU s m.ban m.causes (memEffect m))

/-! ### Fences -/

/-- The lanes of an access that have still to take effect, as a mask of threads (R142, R192). -/
def pendingMask (a : Acc) : Word :=
  if a.lanes.any fun l => l.lane = 64 && l.live && !l.done then a.run
  else a.lanes.foldl (fun m l => if l.lane < 64 && l.live && !l.done then m ||| laneBit l.lane else m) 0#64

/-- An access is an acquire. -/
def isAcq (a : Acc) : Bool := a.ord = .acquire || a.ord = .acqRel
/-- An access is a release. -/
def isRel (a : Acc) : Bool := a.ord = .release || a.ord = .acqRel
/-- An access drains in order with the others of its thread (R143). -/
def drains (a : Acc) : Bool :=
  match a.kind with
  | .store | .stg _ | .ustore | .atom _ _ | .waitadd _ | .mbar _ => true
  | .red _ _ => isRel a
  | _ => false
/-- The lanes of an access for which it is an acquire still to be satisfied: every lane of an acquire, and the lanes of LDS whose length
check waits for a page (R144, R153, R234). -/
def acqMask (a : Acc) : Word :=
  if isAcq a then pendingMask a
  else if a.kind = .lds then a.lanes.foldl (fun m l => if l.live && l.wait then m ||| laneBit l.lane else m) 0#64
  else 0#64

/-- An earlier acquire of some lanes of a warp is still to be satisfied (R144). -/
def acqPending (s : State) (k : Nat) (m : Word) : Bool := (accsOf s k).any fun a => acqMask a &&& m ≠ 0#64

/-- The reticle of a warp's core. -/
def warpRet (s : State) (k : Nat) : Nat := reticleOf (teamAt s (warpAt s k).team).core

/-- An access that is a load, or reads as one does. -/
def readsValue (k : AccKind) : Bool := returns k || (match k with | .waitw _ _ => true | _ => false)

/-- Every earlier access of some lanes of a warp that `sel` names has taken effect. -/
def accsDone (s : State) (k : Nat) (m : Word) (sel : AccKind → Bool) : Bool :=
  (accsOf s k).all fun a => !sel a.kind || pendingMask a &&& m = 0#64

/-- A fence: the run holds until its conditions are met (R146, R242). -/
def runFence (s : State) (scope : BitVec 3) (sel : AccKind → Bool) (release acquire : Bool) : State :=
  checked s ⟨true, false⟩ [] fun s =>
    if !accsDone s s.cur.warp s.cur.mask sel || (release && unseen s (warpRet s s.cur.warp) scope.toNat) then notEligible s
    else
      let s := advance (undoClear s) 1 s.cur.mask
      if acquire && 3 ≤ scope.toNat then refreshQl s s.cur.warp else s

/-- FENCE.acq (R146). -/
def execFenceAcq (scope : BitVec 3) (s : State) : Host.Outcome State Fault Refusal :=
  .next (runFence s scope readsValue false true)
/-- FENCE.rel (R146). -/
def execFenceRel (scope : BitVec 3) (s : State) : Host.Outcome State Fault Refusal :=
  .next (runFence s scope (fun _ => true) true false)
/-- FENCE.ar (R146). -/
def execFenceAr (scope : BitVec 3) (s : State) : Host.Outcome State Fault Refusal :=
  .next (runFence s scope (fun _ => true) true true)
/-- FENCE.full (R146). -/
def execFenceFull (scope : BitVec 3) (s : State) : Host.Outcome State Fault Refusal :=
  .next (runFence s scope (fun _ => true) true true)

/-! ### mbar objects -/

/-- MBAR.INIT, MBAR.EXP and MBAR.ARV: a count of bytes for each lane's object (R241). -/
def mbarInstr (s : State) (op : Nat) (o : LmOp) : MemInstr :=
  { ban := ⟨true, false⟩, causes := regCauses s [vsrc o.b 1], lanes := lmLanes o
    form := { ts := true, need := .write, unit := 16 }, addr := lmAddr o (off6 o 16)
    fill := fun s a => { a with data := groupBytes (me s) o.b 4 a.lane }
    acc := { lmAcc o (.mbar op) 16 0 with ord := if op = 3 then .release else .plain, scope := 2 } }
/-- MBAR.INIT (R241). -/
def execMbarInit (o : LmOp) (s : State) : Host.Outcome State Fault Refusal := .next (runMem s (mbarInstr s 0 o))
/-- MBAR.EXP (R241). -/
def execMbarExp (o : LmOp) (s : State) : Host.Outcome State Fault Refusal := .next (runMem s (mbarInstr s 1 o))
/-- MBAR.ARV (R241). -/
def execMbarArv (o : LmOp) (s : State) : Host.Outcome State Fault Refusal := .next (runMem s (mbarInstr s 3 o))

/-- ROUND of an mbar object of a team. -/
def mbarRound (t : Team) (a : Nat) : Nat := memVal t.tile (a + 8) 4

/-- MBAR.WAIT: the run parks until every lane's round differs from its value; the return is an acquire at .team (R150,
R241). -/
def execMbarWait (o : LmOp) (s : State) : Host.Outcome State Fault Refusal :=
  .next (checked s ⟨true, false⟩ (regCauses s [vsrc o.b 1]) fun s =>
    let k := s.cur.warp
    let f : AccForm := { ts := true, unit := 16 }
    let rs := (lmLanes o s).map fun l => (l, lmAddr o (off6 o 16) s l, reachLane s k f false l (lmAddr o (off6 o 16) s l))
    if acqPending s k s.cur.mask || (accsOf s k).any (fun a => a.ts && drains a && pendingMask a &&& s.cur.mask ≠ 0#64) then notEligible s
    else
      let bad := rs.filterMap fun r => match r.2.2 with | .bad c => some c | _ => none
      let wait := rs.filterMap fun r => match r.2.2 with
        | .ok _ =>
          let v := leVal (groupBytes (me s) o.b 4 r.1)
          if mbarRound (myTeam s) r.2.1.toNat = v then some (r.1, r.2.1.toNat, v) else none
        | _ => none
      let s := faultLanes (undoClear s) bad
      let stay := s.cur.mask &&& ~~~causeMask bad
      if wait = [] then refreshQl (advance s 2 stay) k else parkRun s 2 stay (.mbar wait))

end Sys2Proof.Machine
end

