-- ==== Sys2Proof/Machine/Uniform.lean ====
section
/-!
DEFINITION. Uniform arithmetic, moves, compares and predicates, branches, NOP, PAD, and the reads and writes of special
registers and lane values (chapter 9, R186 to R190, R193 to R198).
-/
namespace Sys2Proof.Machine
open Sys2Proof

/-- A fixed-latency uniform instruction (R186): its causes of stage 2, its predicate, its writes, its latency. -/
def runUniform (s : State) (width : Nat) (causes : List (Nat × Word)) (holds : Warp → Bool) (lat : Nat)
    (ws : State → List PWrite) : State :=
  checked s {} causes fun s =>
    retire s width (if holds (me s) then ws s else []) none lat none s.cur.mask

/-- The integer operands of a layout-UA instruction: the low w bits of gr(A), of B and of gr(D) (R187). -/
def uaBits (n : Nat) (w : Warp) (o : UaOp) : Nat × Nat × Nat :=
  ((greg w o.a.toNat).toNat % 2 ^ n, (uaB w o).toNat % 2 ^ n, (greg w o.d.toNat).toNat % 2 ^ n)

/-- UARITH, ULOGIC and USHIFT (R187): gr(d) := zext(wrap(x, w), w). -/
def runUInt (f : IntF) (lat : Nat) (ty : UType) (o : UaOp) (s : State) : State :=
  runUniform s (extWidth o.ext) [] (fun w => uaHolds w o) lat fun s =>
    let n := utyBits ty
    let x := uaBits n (me s) o
    [.g o.d.toNat (w64 (wrapN n (f (utySigned ty) n x.1 x.2.1 x.2.2)))]

/-- UADD (R187). -/
def execUadd (ty : UType) (o : UaOp) (s : State) : Host.Outcome State Fault Refusal := .next (runUInt fnAdd 2 ty o s)
/-- USUB (R187). -/
def execUsub (ty : UType) (o : UaOp) (s : State) : Host.Outcome State Fault Refusal := .next (runUInt fnSub 2 ty o s)
/-- UMUL (R187). -/
def execUmul (ty : UType) (o : UaOp) (s : State) : Host.Outcome State Fault Refusal := .next (runUInt fnMul 4 ty o s)
/-- UMULH (R187). -/
def execUmulh (ty : UType) (o : UaOp) (s : State) : Host.Outcome State Fault Refusal := .next (runUInt fnMulh 4 ty o s)
/-- UDIV (R187). -/
def execUdiv (ty : UType) (o : UaOp) (s : State) : Host.Outcome State Fault Refusal := .next (runUInt fnDiv 36 ty o s)
/-- UREM (R187). -/
def execUrem (ty : UType) (o : UaOp) (s : State) : Host.Outcome State Fault Refusal := .next (runUInt fnRem 36 ty o s)
/-- UMIN (R187). -/
def execUmin (ty : UType) (o : UaOp) (s : State) : Host.Outcome State Fault Refusal := .next (runUInt fnMin 2 ty o s)
/-- UMAX (R187). -/
def execUmax (ty : UType) (o : UaOp) (s : State) : Host.Outcome State Fault Refusal := .next (runUInt fnMax 2 ty o s)
/-- UAND (R187). -/
def execUand (ty : UType) (o : UaOp) (s : State) : Host.Outcome State Fault Refusal := .next (runUInt fnAnd 2 ty o s)
/-- UOR (R187). -/
def execUor (ty : UType) (o : UaOp) (s : State) : Host.Outcome State Fault Refusal := .next (runUInt fnOr 2 ty o s)
/-- UXOR (R187). -/
def execUxor (ty : UType) (o : UaOp) (s : State) : Host.Outcome State Fault Refusal := .next (runUInt fnXor 2 ty o s)
/-- UANDN (R187). -/
def execUandn (ty : UType) (o : UaOp) (s : State) : Host.Outcome State Fault Refusal := .next (runUInt fnAndn 2 ty o s)
/-- UNOT (R187). -/
def execUnot (ty : UType) (o : UaOp) (s : State) : Host.Outcome State Fault Refusal := .next (runUInt fnNot 2 ty o s)
/-- UCLZ (R187). -/
def execUclz (ty : UType) (o : UaOp) (s : State) : Host.Outcome State Fault Refusal := .next (runUInt fnClz 2 ty o s)
/-- UPOPC (R187). -/
def execUpopc (ty : UType) (o : UaOp) (s : State) : Host.Outcome State Fault Refusal := .next (runUInt fnPopc 2 ty o s)
/-- USHL (R187). -/
def execUshl (ty : UType) (o : UaOp) (s : State) : Host.Outcome State Fault Refusal := .next (runUInt fnShl 2 ty o s)
/-- USHR (R187). -/
def execUshr (ty : UType) (o : UaOp) (s : State) : Host.Outcome State Fault Refusal := .next (runUInt fnShr 2 ty o s)
/-- USAR (R187). -/
def execUsar (ty : UType) (o : UaOp) (s : State) : Host.Outcome State Fault Refusal := .next (runUInt fnSar 2 ty o s)
/-- UROT (R187). -/
def execUrot (ty : UType) (o : UaOp) (s : State) : Host.Outcome State Fault Refusal := .next (runUInt fnRot 2 ty o s)
/-- UBFX (R187). -/
def execUbfx (ty : UType) (o : UaOp) (s : State) : Host.Outcome State Fault Refusal := .next (runUInt fnBfx 2 ty o s)
/-- UBFI (R187): with len = 0 it leaves D unchanged, bits 63:32 included. -/
def execUbfi (ty : UType) (o : UaOp) (s : State) : Host.Outcome State Fault Refusal :=
  .next (runUniform s (extWidth o.ext) [] (fun w => uaHolds w o && (uaB w o).toNat / 256 % 256 ≠ 0) 2 fun s =>
    let n := utyBits ty
    let x := uaBits n (me s) o
    [.g o.d.toNat (w64 (wrapN n (fnBfi (utySigned ty) n x.1 x.2.1 x.2.2)))])

/-! ### Moves (R188) -/

/-- The immediate of a layout-UA extension word; 0 without one. -/
def uaImm (o : UaOp) : BitVec 25 :=
  match o.ext with
  | some e => e.imm
  | none => 0#25

/-- UMOV (R188). -/
def execUmov (o : UaOp) (s : State) : Host.Outcome State Fault Refusal :=
  .next (runUniform s (extWidth o.ext) [] (fun w => uaHolds w o) 2 fun s => [.g o.d.toNat (greg (me s) o.a.toNat)])
/-- UMOVI (R188). -/
def execUmovi (ty : UType) (o : UaOp) (s : State) : Host.Outcome State Fault Refusal :=
  .next (runUniform s (extWidth o.ext) [] (fun w => uaHolds w o) 2 fun _ =>
    [.g o.d.toNat (w64 ((sx64 (uaImm o)).toNat % 2 ^ utyBits ty))])
/-- UMOVK (R188): one half of D replaced. -/
def execUmovk (o : UaOp) (s : State) : Host.Outcome State Fault Refusal :=
  .next (runUniform s (extWidth o.ext) [] (fun w => uaHolds w o) 2 fun s =>
    let i := uaImm o
    [.g o.d.toNat (setFld (greg (me s) o.d.toNat) (16 * (fld i 16 2).toNat) 16 (fld i 0 16).toNat)])
/-- USEL (R188). -/
def execUsel (o : UaOp) (s : State) : Host.Outcome State Fault Refusal :=
  .next (runUniform s (extWidth o.ext) [] (fun w => uaHolds w o) 2 fun s =>
    let w := me s
    [.g o.d.toNat (if qreg w (fld (uaImm o) 0 4).toNat then greg w o.a.toNat else greg w o.b.toNat)])
/-- UADR (R188). -/
def execUadr (o : UaOp) (s : State) : Host.Outcome State Fault Refusal :=
  .next (runUniform s (extWidth o.ext) [] (fun w => uaHolds w o) 2 fun s =>
    [.g o.d.toNat (s.cur.pkt + sx64 (uaImm o))])

/-- UCMP (R189). -/
def execUcmp (cond : UCond) (ty : UType) (o : UaOp) (s : State) : Host.Outcome State Fault Refusal :=
  .next (runUniform s (extWidth o.ext) [] (fun w => uaHolds w o) 2 fun s =>
    let n := utyBits ty
    let x := uaBits n (me s) o
    [.q (o.d.toNat % 16) (ucondHolds cond (ival (utySigned ty) n x.1) (ival (utySigned ty) n x.2.1))])

/-! ### Uniform predicates (R190) -/

/-- A q source with its negation in bit 4 (R190). -/
def qSrc (w : Warp) (f : BitVec 6) : Bool := qreg w (f.toNat % 16) != bit f 4

/-- A QLOG instruction: q(D) from a function of the state. -/
def runQlog (d : BitVec 6) (q : QPred) (f : State → Bool) (s : State) : State :=
  runUniform s (extWidth q) [] (fun w => qpredHolds w q) 2 fun s => [.q (d.toNat % 16) (f s)]

/-- QAND (R190). -/
def execQand (d a b : BitVec 6) (q : QPred) (s : State) : Host.Outcome State Fault Refusal :=
  .next (runQlog d q (fun s => qSrc (me s) a && qSrc (me s) b) s)
/-- QOR (R190). -/
def execQor (d a b : BitVec 6) (q : QPred) (s : State) : Host.Outcome State Fault Refusal :=
  .next (runQlog d q (fun s => qSrc (me s) a || qSrc (me s) b) s)
/-- QXOR (R190). -/
def execQxor (d a b : BitVec 6) (q : QPred) (s : State) : Host.Outcome State Fault Refusal :=
  .next (runQlog d q (fun s => qSrc (me s) a != qSrc (me s) b) s)
/-- QMOV (R190). -/
def execQmov (d a _b : BitVec 6) (q : QPred) (s : State) : Host.Outcome State Fault Refusal :=
  .next (runQlog d q (fun s => qSrc (me s) a) s)
/-- QANY (R190). -/
def execQany (d a _b : BitVec 6) (q : QPred) (s : State) : Host.Outcome State Fault Refusal :=
  .next (runQlog d q (fun s => decide (prow (me s) a.toNat &&& s.cur.mask ≠ 0#64)) s)
/-- QALL (R190). -/
def execQall (d a _b : BitVec 6) (q : QPred) (s : State) : Host.Outcome State Fault Refusal :=
  .next (runQlog d q (fun s => decide (prow (me s) a.toNat &&& s.cur.mask = s.cur.mask)) s)
/-- QSET (R190). -/
def execQset (d a _b : BitVec 6) (q : QPred) (s : State) : Host.Outcome State Fault Refusal :=
  .next (runQlog d q (fun _ => bit a 0) s)

/-! ### Branches (R193 to R195) -/

/-- A uniform branch: the whole run goes to `target` with writes, or on to the next instruction (R193). -/
def branchTo (s : State) (width : Nat) (ws : List PWrite) (target : Option Word) : State :=
  retireTo s ws none 2 none s.cur.mask (match target with
    | some pc => pc
    | none => nextPc s.cur width)

/-- BRA (R194). -/
def execBra (off : BitVec 24) (q : QPred) (s : State) : Host.Outcome State Fault Refusal :=
  .next (checked s {} [] fun s =>
    branchTo s (extWidth q) [] (if qpredHolds (me s) q then some (pktTarget s.cur.pkt off) else none))
/-- CALL (R194). -/
def execCall (off : BitVec 24) (q : QPred) (s : State) : Host.Outcome State Fault Refusal :=
  .next (checked s {} [] fun s =>
    if qpredHolds (me s) q then branchTo s (extWidth q) [.g 63 (s.cur.pkt + 16#64)] (some (pktTarget s.cur.pkt off))
    else branchTo s (extWidth q) [] none)
/-- A stage-4 cause of the whole issuing run: deferred to no one, taken as a precise fault (R345, R379). -/
def stopRun (s : State) (cause : Nat) (syn : Word) (addr : Option Nat) : State :=
  if s.cur.inHandler then doubleFault s s.cur.warp (curPc s) (lowBit s.cur.mask) cause
  else faultRun s 0 cause syn addr
/-- RET (R194). -/
def execRet (a : BitVec 6) (q : QPred) (s : State) : Host.Outcome State Fault Refusal :=
  .next (checked s {} [] fun s =>
    if qpredHolds (me s) q then
      let t := greg (me s) a.toNat
      if t.toNat % 16 ≠ 0 then stopRun s 0x0A 0#64 (some t.toNat)
      else branchTo s (extWidth q) [] (some (slotPc t 0))
    else branchTo s (extWidth q) [] none)
/-- LOOP (R194). -/
def execLoop (c : BitVec 6) (off : BitVec 18) (q : QPred) (s : State) : Host.Outcome State Fault Refusal :=
  .next (checked s {} [] fun s =>
    let x := greg (me s) c.toNat
    if !qpredHolds (me s) q then branchTo s (extWidth q) [] none
    else if 1 < x.toNat then branchTo s (extWidth q) [.g c.toNat (x - 1#64)] (some (pktTarget s.cur.pkt off))
    else branchTo s (extWidth q) [.g c.toNat 0#64] none)

/-- PAD: no effect when it is reached (R195). -/
def execPad (_label : BitVec 16) (s : State) : Host.Outcome State Fault Refusal :=
  .next (checked s {} [] fun s => branchTo s 1 [] none)
/-- NOP (R196). -/
def execNop (q : QPred) (s : State) : Host.Outcome State Fault Refusal :=
  .next (checked s {} [] fun s => branchTo s (extWidth q) [] none)

/-! ### Special registers and lane values (R197, R198) -/

/-- SRD: taken at issue; a per-thread register gives the value of the lowest lane of the run (R197). -/
def execSrd (d : BitVec 6) (num : BitVec 8) (q : QPred) (s : State) : Host.Outcome State Fault Refusal :=
  .next (runUniform s (extWidth q) (sregCauses num.toNat) (fun w => qpredHolds w q) 2 fun s =>
    [.g d.toNat (sregVal s num.toNat (lowBit s.cur.mask))])

/-- Stage-2 causes of SWR: only %SRSEED is writable (Table 21-5). -/
def swrCauses (n : Nat) : List (Nat × Word) :=
  if !sregKnown n then [(0x17, w64 n)] else if n = 0x30 then [] else [(0x18, w64 n)]

/-- SWR: the generator state is set at issue (R91, R197). -/
def execSwr (a : BitVec 6) (num : BitVec 8) (q : QPred) (s : State) : Host.Outcome State Fault Refusal :=
  .next (checkedU s ⟨true, false⟩ (swrCauses num.toNat) fun s =>
    let s := undoClear s
    let w := me s
    advance (setMe s (if qpredHolds w q then { w with seed := greg w a.toNat } else w)) (extWidth q) s.cur.mask)

/-- Stage-2 causes of UGETL (R198, Table 21-5). -/
def ugetlCauses (s : State) (v : BitVec 7) : List (Nat × Word) :=
  if 120 ≤ v.toNat then [(0x13, w64 v.toNat)] else regCauses s [vgroup v.toNat 1]

/-- UGETL (R198). -/
def execUgetl (d : BitVec 6) (v lane : BitVec 7) (q : QPred) (s : State) : Host.Outcome State Fault Refusal :=
  .next (runUniform s (extWidth q) (ugetlCauses s v) (fun w => qpredHolds w q) 4 fun s =>
    [.g d.toNat (if lane.toNat < 64 then zx64 (vreg (me s) v.toNat lane.toNat) else 0#64)])

end Sys2Proof.Machine
end

