-- ==== Sys2Proof/Machine/Sequence.lean ====
section
/-!
DEFINITION. Sequences: descriptors and their attachment (R251), the steps of the sequence unit (R252 to R259, R371, R404),
the instructions that ask for them, and LDS with its residency map (R131, R132, R234).
-/
namespace Sys2Proof.Machine
open Sys2Proof

/-! ### Descriptors -/

/-- A field of an n-byte value of the descriptor at a physical address (Table 11-5). -/
def descField (s : State) (d off n : Nat) : Nat := memVal s.mem (d + off) n
/-- ESZ of a descriptor. -/
def descEsz (s : State) (d : Nat) : Nat := 2 ^ descField s d 0x01 1
/-- Slots of a chunk (R131). -/
def slotsPerChunk (s : State) (d : Nat) : Nat := 65536 / descEsz s d
/-- A power of two from 1 to n. -/
def isPow2 (x n : Nat) : Bool := x ≠ 0 && x ≤ n && 2 ^ (bitLenFrom x 17 - 1) = x

/-- The offset of the first field that fails the attach checks (R251); a child's lengths and PARENT are not checked. -/
def descBad (s : State) (d : Nat) (child : Bool) : Option Nat :=
  let f := descField s d
  if f 0x00 1 ≠ 1 then some 0x00
  else if 12 < f 0x01 1 then some 0x01
  else if !isPow2 (f 0x02 2) (descEsz s d) then some 0x02
  else if f 0x04 4 ≠ 0 then some 0x04
  else if f 0x08 8 % 8 ≠ 0 then some 0x08
  else if !child && (f 0x18 8 ≠ f 0x20 8 || f 0x10 8 * slotsPerChunk s d < f 0x18 8) then some 0x18
  else if (memBytes s.mem (d + 0x38) 0x48).any fun b => b ≠ 0#8 then some 0x38
  else none

/-! ### Accesses of the sequence unit -/

/-- Why a step of the sequence unit does not take place: a page in the fault queue, a line that is not at rest, or a cause. -/
inductive SquStop
  | wait (page : Nat)
  | busy
  | fail (cause : Nat) (addr : Option Nat) (syn : Word)

/-- An address translated as a thread's access (R404). -/
def squXlate (s : State) (ctx : Nat) (need : Need) (va : Word) : Except SquStop (Nat × Word) :=
  match xlate s ctx need va with
  | .ok pa e => .ok (pa, e)
  | .wait _ => .error (.wait (pageOf va))
  | .bad c y => .error (.fail c (some va.toNat) y)

/-- The failure of a read at a physical address: uncorrectable data, or a tier that cannot serve, whose status the manual does not number
(R368, R376, R404, log 5). -/
def squReads (s : State) (va : Word) (pa : Nat) : Except SquStop Unit :=
  match poisonCause s pa false with
  | none => .ok ()
  | some c => .error (.fail c (some va.toNat)
      (if c = 0x24 then w64 (domainAddr s.devnum pa) else Config.freeWord s.freeCtr))

/-- An address that the sequence unit reads or writes (R404). -/
def squPa (s : State) (ctx : Nat) (need : Need) (va : Word) : Except SquStop (Nat × Word) := do
  let x ← squXlate s ctx need va
  if need = .write then .ok x
  else do
    let _ ← squReads s va x.1
    .ok x

/-- The descriptor and the map lie in the device's own HBM on cacheable pages (R251). -/
def squPlaced (s : State) (va : Word) (x : Nat × Word) : Except SquStop Nat :=
  if leafDev x.2 ≠ s.devnum || leafUc x.2 || tierOf x.1 ≠ .hbm then .error (.fail 0x5D (some va.toNat) 0#64)
  else .ok x.1

/-- n bytes written by the sequence unit within one page. -/
def squPut (s : State) (ctx : Nat) (va : Word) (bs : List Byte) : Except SquStop State :=
  match squPa s ctx .write va with
  | .error e => .error e
  | .ok x => .ok (unitWrite s x.1 bs)

/-- A chunk as its map entry and header give it (R131, Table 6-9). -/
structure Chunk where
  entry : Word
  hva   : Word
  data  : Word
  refs  : Nat
  tier  : Nat
  res   : Bool

/-- The virtual address of map entry k. -/
def mapVa (s : State) (d k : Nat) : Word := w64 (descField s d 0x08 8 + 8 * k)

/-- Chunk k of a sequence: none with PRESENT = 0 (R131); MAP_INVALID for reserved values (R371). -/
def squChunk (s : State) (ctx d k : Nat) : Except SquStop (Option Chunk) := do
  let ea := mapVa s d k
  let x ← squPa s ctx .read ea
  let ep ← squPlaced s ea x
  let e := w64 (memVal s.mem ep 8)
  if bit e 0 = false then .ok none
  else
    let hva := e &&& 0x01FFFFFFFFFFFFE0#64
    if (fld e 1 4).toNat ≠ 0 then .error (.fail 0x56 (some ea.toNat) 0#64)
    else
      let h ← squPa s ctx .read hva
      let f := fun o n => memVal s.mem (h.1 + o) n
      if f 0 8 % 65536 ≠ 0 || 2 < f 0x0C 1 || 1 < f 0x0D 1 || f 0x0E 2 ≠ 0 || f 0x18 8 ≠ 0 then
        .error (.fail 0x56 (some hva.toNat) 0#64)
      else .ok (some ⟨e, hva, w64 (f 0 8), f 8 4, f 0x0C 1, f 0x0D 1 = 1⟩)

/-- Chunks from a list of numbers. -/
def squChunks (s : State) (ctx d : Nat) : List Nat → Except SquStop (List (Nat × Option Chunk))
  | [] => .ok []
  | k :: ks => do
    let c ← squChunk s ctx d k
    let cs ← squChunks s ctx d ks
    .ok ((k, c) :: cs)

/-- The numbers of the chunks that hold slots a to a + n - 1. -/
def chunkSpan (spc a n : Nat) : List Nat :=
  if n = 0 then [] else (List.range ((a + n - 1) / spc - a / spc + 1)).map fun j => a / spc + j

/-- TIER of an address (Table 6-9). -/
def tierCode (pa : Nat) : Nat := match tierOf pa with | .hbm => 0 | .pool => 1 | _ => 2

/-- The data area of a present chunk with RES = 1, as SEQ.CMT and the fork copy need it; MAP_INVALID without one (R254). No data is
read. -/
def squArea (s : State) (ctx d : Nat) (need : Need) (x : Nat × Option Chunk) : Except SquStop Nat :=
  match x.2 with
  | none => .error (.fail 0x56 (some (mapVa s d x.1).toNat) 0#64)
  | some c =>
    if !c.res then .error (.fail 0x56 (some c.hva.toNat) 0#64)
    else
      match squXlate s ctx need c.data with
      | .error e => .error e
      | .ok y => if tierCode y.1 ≠ c.tier then .error (.fail 0x5C (some c.hva.toNat) (w64 c.tier)) else .ok y.1

/-! ### Steps of the sequence unit -/

/-- CLEN and RLEN written through to the descriptor line, with the unit's state (R404). -/
def putSeq (s : State) (d : Nat) (q : Seq) : State :=
  let s := unitWrite s (d + 0x18) (bytesOf 8 q.clen ++ bytesOf 8 q.rlen)
  { s with seqs := aput s.seqs d q }

/-- Lines become immutable (R133): placed, clean, without a replica that an invalidation has still to reach, and marked. -/
def setImmutable (s : State) (ls : List Nat) : State :=
  ls.foldl (fun s l =>
    let s := placeLine s l
    let s := match lineAt s l with
      | some x => putLine s l { x with dirty := false, replicas := if x.acks = [] then x.replicas else [] }
      | none => s
    { s with immuts := if s.immuts.contains l then s.immuts else l :: s.immuts }) s

/-- The lines of the device's own memory that lie wholly below a committed length of n slots, as the map and the headers give them (R133):
of a chunk that cannot be read now, none. -/
def prefixLines (s : State) (ctx d n : Nat) : List Nat :=
  let spc := slotsPerChunk s d
  (chunkSpan spc 0 n).flatMap fun k =>
    match squChunk s ctx d k with
    | .ok (some c) =>
      (match squXlate s ctx .read c.data with
      | .ok y => if leafDev y.2 ≠ s.devnum then []
                 else (List.range (Nat.min spc (n - k * spc) * descEsz s d / 128)).map fun j => lineOf y.1 + j
      | .error _ => [])
    | _ => []

/-- A line at rest, as an attachment finds it. -/
def squRest (s : State) (d : Nat) : Except SquStop Unit :=
  match lineAt s (lineOf d) with
  | some x => if x.state = .moving || x.state = .collapsing then .error .busy else .ok ()
  | none => .ok ()

/-- A descriptor attached (R251): ATTACHED set, its line pinned at its anchor with no replica, and the lines below its committed length
immutable (R133; at the attachment DEDUCED, log 19). -/
def attachDesc (s : State) (ctx d : Nat) (q : Seq) : State :=
  let s := unitWrite s (d + 4) (bytesOf 4 1)
  let l := lineOf d
  let s := putLine s l { home := anchorOf s l, pin := true, since := s.time }
  putSeq (setImmutable s (prefixLines s ctx d q.clen)) d { q with ctx := ctx }

/-- The state with the sequence of a descriptor attached, and its physical address (R251). -/
def attached (s : State) (ctx : Nat) (va : Word) : Except SquStop (Nat × State) := do
  let r ← squPa s ctx .read va
  let d ← squPlaced s va r
  if (afind s.seqs d).isSome then .ok (d, s)
  else
    let _ ← squPa s ctx .write va
    match descBad s d false with
    | some o => .error (.fail 0x50 (some va.toNat) (w64 o))
    | none =>
      let ma := mapVa s d 0
      let m ← squPa s ctx .read ma
      let _ ← squPlaced s ma m
      let _ ← squRest s d
      .ok (d, attachDesc s ctx d { clen := descField s d 0x18 8, rlen := descField s d 0x20 8 })

/-- The sequence of an attached descriptor. -/
def seqAt (s : State) (d : Nat) : Seq := aget {} s.seqs d

/-- SEQ.RES of one lane: its first index, its status, the state (R253). -/
def squRes (s : State) (ctx d k : Nat) : Except SquStop (Nat × Nat × State) :=
  let q := seqAt s d
  let spc := slotsPerChunk s d
  if q.dropped then .ok (q.rlen, 4, s)
  else if q.clen + 4096 < q.rlen + k then .ok (q.rlen, 1, s)
  else if descField s d 0x10 8 * spc < q.rlen + k then .ok (q.rlen, 2, s)
  else
    match squChunks s ctx d (chunkSpan spc q.rlen k) with
    | .error e => .error e
    | .ok cs =>
      if cs.any fun c => match c.2 with | some c => !c.res | none => true then .ok (q.rlen, 3, s)
      else .ok (q.rlen, 0, putSeq s d { q with rlen := q.rlen + k })

/-- The longest run of filled slots from a slot on (R254). -/
def runFrom (filled : List Nat) : Nat → Nat → Nat
  | 0, n => n
  | fuel + 1, n => if filled.contains n then runFrom filled fuel (n + 1) else n

/-- The lines that lie wholly below a new committed length and held a slot from the old one on, from the recorded address
of each slot (R133, R254). -/
def newlyFixed (esz old new : Nat) (addrs : List (Nat × Nat)) : List Nat :=
  (List.range (new - old)).flatMap fun j =>
    match afind addrs (old + j) with
    | none => []
    | some pa =>
      if esz < 128 then (if (pa + esz) % 128 = 0 then [lineOf pa] else [])
      else (List.range (esz / 128)).map fun i => lineOf pa + i

/-- SEQ.CMT of one lane (R254). -/
def squCmt (s : State) (ctx d : Nat) (va : Word) (idx n : Nat) : Except SquStop State :=
  let q := seqAt s d
  let spc := slotsPerChunk s d
  let esz := descEsz s d
  let bad := fun c slot => Except.error (SquStop.fail c (some va.toNat) (w64 slot))
  if n = 0 then .ok s
  else if q.dropped then bad 0x55 0
  else if q.rlen < idx + n then bad 0x53 (Nat.max idx q.rlen)
  else if idx < q.clen then bad 0x54 idx
  else
    match (List.range n).find? fun j => q.filled.contains (idx + j) with
    | some j => bad 0x54 (idx + j)
    | none => do
      let cs ← squChunks s ctx d (chunkSpan spc idx n)
      let areas ← cs.mapM fun c => (squArea s ctx d .read c).map fun a => (c.1, a)
      let addrs := (List.range n).foldl (fun m j =>
        aput m (idx + j) (aget 0 areas ((idx + j) / spc) + (idx + j) % spc * esz)) q.addrs
      let filled := q.filled ++ (List.range n).map (idx + ·)
      let clen := runFrom filled 4096 q.clen
      let s := setImmutable s (newlyFixed esz q.clen clen addrs)
      .ok (putSeq s d { q with
        clen := clen, filled := filled.filter (clen ≤ ·), addrs := addrs.filter fun a => clen ≤ a.1 })

/-- REFS of a chunk changed (R257, R258, REFS_RANGE). -/
def squRefs (s : State) (ctx : Nat) (c : Chunk) (n : Nat) : Except SquStop State :=
  if 2 ^ 32 ≤ n then .error (.fail 0x57 (some c.hva.toNat) 0#64) else squPut s ctx (c.hva + 8#64) (bytesOf 4 n)

/-- The chunks of a fork's prefix shared: the parent's entries into the child's map, REFS raised (R257). -/
def squShare (ctx d ch : Nat) : List Nat → State → Except SquStop State
  | [], s => .ok s
  | k :: ks, s => do
    match (← squChunk s ctx d k) with
    | none => .error (.fail 0x56 (some (mapVa s d k).toNat) 0#64)
    | some c =>
      let x ← squPa s ctx .write (mapVa s ch k)
      let _ ← squPlaced s (mapVa s ch k) x
      let s ← squPut s ctx (mapVa s ch k) (bytesOf 8 c.entry.toNat)
      squShare ctx d ch ks (← squRefs s ctx c (c.refs + 1))

/-- A failed access of the fork copy as FORK_COPY (R257, R404). -/
def forkCause (d : Word) (x : Except SquStop Nat) : Except SquStop Nat :=
  match x with
  | .error (.fail c _ _) => .error (.fail 0x58 (some d.toNat) (w64 c))
  | x => x

/-- SEQ.FORK: its status and the state (R257). -/
def squFork (s : State) (ctx d : Nat) (va cva : Word) : Except SquStop (Nat × State) := do
  let r ← squPa s ctx .read cva
  let ch ← squPlaced s cva r
  let q := seqAt s d
  let n := descField s ch 0x30 8
  let esz := descEsz s d
  let spc := slotsPerChunk s d
  if q.clen < n then .ok (1, s)
  else if descField s ch 0x01 1 ≠ descField s d 0x01 1 || descField s ch 0x02 2 ≠ descField s d 0x02 2
      || descField s ch 0x04 4 ≠ 0 || (afind s.seqs ch).isSome then .ok (2, s)
  else
    let _ ← squPa s ctx .write cva
    match descBad s ch true with
    | some o => .error (.fail 0x50 (some cva.toNat) (w64 o))
    | none =>
      let own ← if n % spc = 0 then pure none else squChunk s ctx ch (n / spc)
      if descField s ch 0x10 8 * spc < n || (n % spc ≠ 0 && own.isNone) then .ok (3, s)
      else
        let s ← squShare ctx d ch (List.range (n / spc)) s
        let s ← match own with
          | none => pure s
          | some _ => do
            let src ← squChunk s ctx d (n / spc)
            let a ← forkCause cva (squArea s ctx d .read (n / spc, src))
            let b ← forkCause cva (squArea s ctx ch .write (n / spc, own))
            let len := n % spc * esz
            let _ ← forkCause cva (((List.range ((len + 127) / 128)).mapM fun i => squReads s cva (a + 128 * i)).map fun _ => 0)
            pure (unitWrite s b (memBytes s.mem a len))
        let _ ← squRest s ch
        let s := unitWrite s (ch + 0x28) (bytesOf 8 va.toNat)
        .ok (0, attachDesc s ctx ch { clen := n, rlen := n })

/-- A chunk loses a reference; with the last, RES and the immutable bits of its lines are cleared and their replicas
invalidated (R133, R258): those of the data area that the header then names, so that an area which a chunk move has left stays
immutable (DESIGN CHOICE, log 19: the manual does not say when that area's bits are cleared). Answers 1 for such a chunk. -/
def squRelease (s : State) (ctx : Nat) (c : Chunk) : Except SquStop (Nat × State) := do
  if c.refs = 0 then .error (.fail 0x57 (some c.hva.toNat) 0#64)
  else
    let s ← squRefs s ctx c (c.refs - 1)
    if c.refs ≠ 1 then .ok (0, s)
    else
      let s ← squPut s ctx (c.hva + 0x0D#64) [0#8]
      let x ← squXlate s ctx .read c.data
      let l := lineOf x.1
      let inArea := fun m => l ≤ m && m < l + 512
      let lines := s.lines.map fun y =>
        if inArea y.1 then (y.1, { y.2 with replicas := [], state := if y.2.state = .shared then .home else y.2.state }) else y
      .ok (1, { s with immuts := s.immuts.filter (fun m => !inArea m), lines := lines })

/-- The chunks below the committed length released in order: how many lost their last reference (R258). -/
def squDropChunks (ctx d : Nat) : List Nat → Nat → State → Except SquStop (Nat × State)
  | [], n, s => .ok (n, s)
  | k :: ks, n, s => do
    match (← squChunk s ctx d k) with
    | none => .error (.fail 0x56 (some (mapVa s d k).toNat) 0#64)
    | some c =>
      let r ← squRelease s ctx c
      squDropChunks ctx d ks (n + r.1) r.2

/-- SEQ.DROP: the number of chunks that lost their last reference, and the state (R258). -/
def squDrop (s : State) (ctx d : Nat) : Except SquStop (Nat × State) :=
  let q := seqAt s d
  match squDropChunks ctx d (chunkSpan (slotsPerChunk s d) 0 q.clen) 0 s with
  | .error e => .error e
  | .ok (n, s) =>
    let s := unitWrite s (d + 4) (bytesOf 4 3)
    .ok (n, putSeq s d { q with clen := 0, rlen := 0, filled := [], addrs := [], dropped := true })

/-! ### Requests -/

/-- ENGINE of a sequence unit (Table 19-5): the slice of the descriptor's anchor. -/
def squEngine (s : State) (d : Nat) : Nat :=
  let a := anchorOf s (lineOf d)
  engineOf 6 (reticleOfSlice a) (a % Config.slicesPerReticle)

/-- The place of a request in the order of issue: that of its access, or its own (R251, log 19). -/
def squAge (r : SquReq) : Nat := r.acc.getD r.id

/-- A request of a saved team is withdrawn (Table 14-1). -/
def squGone (s : State) (r : SquReq) : Bool := (teamAt s (warpAt s r.warp).team).status = .saved

/-- Earlier accesses of the same threads have taken effect as a request needs: all of them for a release, with the writes that it covers
visible at its scope (R145, R153); for the others, the acquires (R144). A saved team's request is withdrawn (Table 14-1). -/
def squReady (s : State) (r : SquReq) : Bool :=
  let m := match r.lane with
    | some l => laneBit l
    | none => r.run
  !squGone s r && match r.op with
  | .cmt | .fork | .drop =>
    ((accsOf s r.warp).all fun a => squAge r ≤ a.id || pendingMask a &&& m = 0#64) && !unseen s (warpRet s r.warp) r.scope
  | _ => (accsOf s r.warp).all fun a => squAge r ≤ a.id || acqMask a &&& m = 0#64

/-- A request is ready, and the oldest of its sequence (R251): a later one waits for it, ready or not. -/
def squTurn (s : State) (r : SquReq) : Bool :=
  squReady s r && s.squ.all fun x =>
    x.desc ≠ r.desc || squGone s x || decide (squAge r < squAge x) || (squAge r = squAge x && decide (r.id ≤ x.id))

/-- What a served request gives back. -/
inductive SquOut
  | res (idx status : Nat)
  | cmt
  | g (x : Nat)
  | bound (d x : Nat)

/-- The step of a request (R251). -/
def squStep (s : State) (r : SquReq) : Except SquStop (SquOut × State) := do
  let ctx := warpCtx s r.warp
  let (d, s) ← attached s ctx r.va
  match r.op with
  | .res => do
    let x ← squRes s ctx d r.count
    .ok (.res x.1 x.2.1, x.2.2)
  | .cmt => do
    let s ← squCmt s ctx d r.va r.idx r.count
    .ok (.cmt, s)
  | .len => .ok (.g (seqAt s d).clen, s)
  | .bind => .ok (.bound d (seqAt s d).clen, s)
  | .fork => do
    let x ← squFork s ctx d r.va r.child
    .ok (.g x.1, x.2)
  | .drop => do
    let x ← squDrop s ctx d
    .ok (.g x.1, x.2)

/-- The request leaves the queue. -/
def squDone (s : State) (r : SquReq) : State := { s with squ := s.squ.filter fun x => x.id ≠ r.id }

/-- A lane of an access changed by f, and the access kept while a lane is live. -/
def onLane (s : State) (id l : Nat) (f : LaneAcc → LaneAcc) : State :=
  match accAt s id with
  | none => s
  | some a => keepAcc s { a with lanes := a.lanes.map fun x => if x.lane = l then f x else x }

/-- The run that a request holds goes on. -/
def squRelease_ (s : State) (r : SquReq) : State := putWarp s r.warp (releaseHold r.id (warpAt s r.warp))

/-- A run still waits for a request. -/
def squHeld (s : State) (r : SquReq) : Bool :=
  let w := warpAt s r.warp
  (w.holds ++ (match w.handler with | some h => h.holds | none => [])).any fun h => h.1 = r.id

/-- What a request gives back reaches its warp. -/
def squDeliver (s : State) (r : SquReq) (o : SquOut) : State :=
  let s := squDone s r
  match o, r.acc with
  | .res idx st, some a =>
    onLane s a (r.lane.getD 0) fun l => { l with res := bytesOf 8 idx, stat := st, done := true }
  | .cmt, some a => onLane s a (r.lane.getD 0) fun l => { l with done := true, live := false }
  | .g x, _ =>
    let s' := squRelease_ s r
    if !squHeld s r then s
    else
      let w := setG (warpNow s' r.warp) r.dst (w64 x)
      let w := if r.op = .len then
          { w with ql := w.ql.map fun q =>
              if q.desc = some r.desc then { q with value := w64 (Nat.max q.value.toNat x) } else q }
        else w
      putWarp s' r.warp w
  | .bound d x, _ =>
    if !squHeld s r then s
    else
      let s := squRelease_ s r
      putWarp s r.warp (setQl (warpAt s r.warp) r.dst { desc := some d, value := w64 x })
  | _, none => s

/-- A failed request: the sequence is as it was, and the lanes take a deferred fault (R371, R404). -/
def squFail (s : State) (r : SquReq) (cause : Nat) (addr : Option Nat) (syn : Word) : State :=
  let e := squEngine s r.desc
  let s := squDone { s with freeCtr := s.freeCtr + 1 } r
  let s := match r.acc, r.lane with
    | some a, some l => onLane s a l fun l => { l with live := false }
    | _, _ => squRelease_ s r
  detect s r.warp
    { pc := r.pc, deferred := true, engine := e
      lanes := (match r.lane with | some l => [l] | none => lanesOf r.run).map fun l =>
        { lane := l, cause := cause, addr := addr, syn := syn } }

/-! ### Instructions -/

/-- The request of one lane of SEQ.RES or SEQ.CMT. -/
def squOfLane (a : Acc) (id : Nat) (since : Nat) (l : LaneAcc) : SquReq :=
  { id := id, op := if a.kind = .seqRes then .res else .cmt, desc := l.pas.headD 0, va := l.va, scope := a.scope
    warp := a.warp, lane := some l.lane, acc := some a.id, idx := leVal l.data, count := leVal l.data2
    since := since, pc := a.pc, run := a.run }

/-- Lanes of an access that have their translation send their requests. -/
def squSend (s : State) (id : Nat) : State :=
  match accAt s id with
  | none => s
  | some a =>
    let ls := a.lanes.filter fun l => l.live && !l.wait && !l.sent
    let s := ls.foldl (fun s l =>
      { s with squ := s.squ ++ [squOfLane a s.nextId s.time l], nextId := s.nextId + 1 }) s
    putAcc s { a with lanes := a.lanes.map fun l => if l.wait then l else { l with sent := true } }

/-- A sequence access issues and its lanes send their requests. -/
def runSeqAcc (s : State) (x : MemInstr) : State :=
  let id := s.nextId
  let s := runMem s x
  (s.accs.filter fun a => id ≤ a.1 && (a.2.kind = .seqRes || a.2.kind = .seqCmt)).foldl (fun s a => squSend s a.1) s

/-- The descriptor address of LDS and SEQL: gr(G) (Table 8-7). -/
def seqVa (o : LmOp) (s : State) (_ : Nat) : Word := greg (me s) o.base.toNat

/-- SEQ.RES (R253). -/
def seqResInstr (s : State) (o : LmOp) : MemInstr :=
  { ban := ⟨true, false⟩, causes := regCauses s [vdst o.d 2, vgroup (o.d.toNat + 2) 1, vsrc o.b 1], lanes := lmLanes o
    form := { need := .readWrite, unit := 128 }, addr := seqVa o
    fill := fun s a => { a with data2 := groupBytes (me s) o.b 4 a.lane }
    acc := lmAcc o .seqRes 128 o.d.toNat }
/-- SEQ.RES (R253). -/
def execSeqRes (o : LmOp) (s : State) : Host.Outcome State Fault Refusal := .next (runSeqAcc s (seqResInstr s o))

/-- SEQ.CMT (R254). -/
def seqCmtInstr (s : State) (o : LmOp) : MemInstr :=
  { ban := ⟨true, false⟩, causes := regCauses s [vsrc o.a 2, vsrc o.b 1], lanes := lmLanes o
    form := { need := .readWrite, unit := 128 }, addr := seqVa o
    fill := fun s a => { a with
      data := groupBytes (me s) o.a 8 a.lane, data2 := groupBytes (me s) o.b 4 a.lane }
    acc := { lmAcc o .seqCmt 128 0 with ord := .release } }
/-- SEQ.CMT (R254). -/
def execSeqCmt (o : LmOp) (s : State) : Host.Outcome State Fault Refusal := .next (runSeqAcc s (seqCmtInstr s o))

/-- A uniform sequence instruction: the run holds until its request is served (R255). -/
def runSeqUni (s : State) (op : SquOp) (dst : Nat) (a : BitVec 6) (child : Word) (x : UmExt) : State :=
  checked s {} [] fun s =>
    let va := greg (me s) a.toNat
    let k := s.cur.warp
    if !qgovHolds (me s) x.gov then advance (undoClear s) 2 s.cur.mask
    else if op = .bind && va = 0#64 then advance (setMe s (setQl (me (undoClear s)) dst {})) 2 s.cur.mask
    else if va.toNat % 128 ≠ 0 then stopRun s 0x20 128#64 (some va.toNat)
    else
      match translate s k .read va with
      | .miss => notEligible (askWalks s k
          [{ page := pageOf va, va := va, lane := lowBit s.cur.mask, pc := curPc s }])
      | .absent _ => notEligible s
      | .bad c y => stopRun s c y (some va.toNat)
      | .ok pa _ =>
        let s := undoClear s
        let r : SquReq := { id := s.nextId, op := op, desc := pa, va := va, child := child, scope := x.scope.toNat, warp := k
                            dst := dst, since := s.time, pc := curPc s, run := s.cur.mask }
        holdRun { s with squ := s.squ ++ [r], nextId := s.nextId + 1 } 2 s.cur.mask r.id

/-- SEQ.BIND (R256). -/
def execSeqBind (d a : BitVec 6) (x : UmExt) (s : State) : Host.Outcome State Fault Refusal :=
  .next (runSeqUni s .bind (d.toNat % 8) a 0#64 x)
/-- SEQ.LEN (R256). -/
def execSeqLen (d a : BitVec 6) (x : UmExt) (s : State) : Host.Outcome State Fault Refusal :=
  .next (runSeqUni s .len d.toNat a 0#64 x)
/-- SEQ.FORK (R257). -/
def execSeqFork (d a b : BitVec 6) (x : UmExt) (s : State) : Host.Outcome State Fault Refusal :=
  .next (runSeqUni s .fork d.toNat a (greg (settle (now s) (me s)) b.toNat) x)
/-- SEQ.DROP (R258). -/
def execSeqDrop (d a : BitVec 6) (x : UmExt) (s : State) : Host.Outcome State Fault Refusal :=
  .next (runSeqUni s .drop d.toNat a 0#64 x)

/-! ### LDS -/

/-- What the resolution of one lane of LDS gives (R132): an element address, a status, a wait, or a cause, precise or
deferred. -/
inductive Lds
  | elem (va : Word) (pa : Nat) (leaf : Word)
  | status (n : Nat)
  | miss (va : Word)
  | absent
  | bad (cause : Nat) (addr : Word) (syn : Word)
  | lost (cause : Nat) (addr : Word) (syn : Word)
  deriving DecidableEq, Repr

/-- A read of the resolution, as an ordinary load of the warp (R132): `f` takes the physical address, or none where another device owns
the page, whose bytes the manual does not give (log 5). -/
def ldsRead (s : State) (k fr : Nat) (va : Word) (f : Option Nat → Lds) : Lds :=
  match translate s k .read va with
  | .ok pa e =>
    if leafDev e ≠ s.devnum then f none
    else
      match poisonCause s pa false with
      | some c => .lost c va (if c = 0x24 then w64 (domainAddr s.devnum pa) else Config.freeWord fr)
      | none => f (some pa)
  | .miss => .miss va
  | .absent _ => .absent
  | .bad c y => .bad c va y

/-- Three free values of a lane of LDS: a word that another device returns, or a failing tier's status (log 5). -/
def ldsFree (s : State) (l : Nat) : Nat := s.freeCtr + 3 * l

/-- The element address of a lane of LDS of n bytes: descriptor, position, and head with offset (R132, R234). -/
def ldsLane (s : State) (k n l : Nat) (desc : Word) (pos hb : Nat) : Lds :=
  let fr := ldsFree s l
  if desc.toNat % 128 ≠ 0 then .bad 0x20 desc 128#64
  else ldsRead s k fr desc fun x =>
    match x with
    | none => .lost 0x5D desc 0#64
    | some d =>
    let esz := descEsz s d
    let nhead := descField s d 0x02 2
    let h := hb / 65536
    let o := hb % 65536
    let clen := match afind s.seqs d with
      | some q => q.clen
      | none => descField s d 0x18 8
    let spc := slotsPerChunk s d
    if nhead ≤ h || esz / nhead < o + n then .bad 0x26 desc (w64 (o + 65536 * h))
    else if clen ≤ pos then .status 1
    else ldsRead s k fr (mapVa s d (pos / spc)) fun ep =>
      let e := match ep with
        | some ep => w64 (memVal s.mem ep 8)
        | none => Config.freeWord fr
      let hva := e &&& 0x01FFFFFFFFFFFFE0#64
      if bit e 0 = false then .status 3
      else ldsRead s k fr hva fun hp =>
        let flags := match hp with
          | some hp => memVal s.mem (hp + 0x0D) 1
          | none => (Config.freeWord (fr + 1)).toNat
        let data := match hp with
          | some hp => memVal s.mem hp 8
          | none => (Config.freeWord (fr + 2)).toNat
        if flags % 2 = 0 then .status 2
        else
          let a := w64 (data + pos % spc * esz + h * (esz / nhead) + o)
          if a.toNat % n ≠ 0 then .bad 0x20 a (w64 n)
          else
            match translate s k .read a with
            | .ok pa e => .elem a pa e
            | .miss => .miss a
            | .absent _ => .absent
            | .bad c y => .bad c a y

/-- The operands of a lane of LDS, kept with the access so that a waiting lane can be resolved again. -/
def ldsData (desc : Word) (pos hb : Nat) : List Byte := bytesOf 8 desc.toNat ++ bytesOf 8 pos ++ bytesOf 4 hb

/-- A lane of LDS resolved from its kept operands. -/
def ldsAgain (s : State) (k n : Nat) (l : LaneAcc) : Lds :=
  ldsLane s k n l.lane (w64 (leVal (l.data.take 8))) (leVal ((l.data.drop 8).take 8)) (leVal (l.data.drop 16))

/-- The lane of an access after its resolution. -/
def ldsPart (n : Nat) (l : LaneAcc) : Lds → LaneAcc
  | .elem va pa e => { l with
      va := va, pas := [pa], dev := leafDev e, uc := leafUc e, prop := leafProp e, wait := false
      hint := if leafUc e then 0 else leafHint e }
  | .status st => { l with stat := st, res := List.replicate n 0#8, done := true, wait := false }
  | _ => { l with wait := true }

/-- The status register of LDS: the one after the value's group (R234). -/
def ldsStat (o : LmOp) (n : Nat) : Nat := o.d.toNat + groupRegs n

/-- Uses of the lines that the resolution of a lane read: its descriptor, its map entry and its header (R125, R126). -/
def ldsUses (s : State) (k : Nat) (va : Word) : State :=
  match translate s k .read va with
  | .ok pa e =>
    if leafDev e ≠ s.devnum || uncached s (leafUc e) pa then s
    else useByLoad (if leafHint e = 2 then s else placeLine s (lineOf pa)) k (warpRet s k) (leafUc e) (leafHint e = 2) pa
  | _ => s

/-- The virtual addresses that the resolution of a lane reads, as far as it gets (R132). -/
def ldsVas (s : State) (k : Nat) (desc : Word) (pos : Nat) (r : Lds) : List Word :=
  match translate s k .read desc, r with
  | .ok _ _, .status 1 => [desc]
  | .ok d _, .elem _ _ _ | .ok d _, .status _ =>
    let ma := mapVa s d (pos / slotsPerChunk s d)
    (match translate s k .read ma with
    | .ok ep _ =>
      let e := w64 (memVal s.mem ep 8)
      if bit e 0 then [desc, ma, e &&& 0x01FFFFFFFFFFFFE0#64] else [desc, ma]
    | _ => [desc])
  | _, _ => []

/-- A lane of LDS has made its length check. -/
def ldsChecked : Lds → Bool
  | .elem _ _ _ | .status _ => true
  | _ => false

/-- The effect of LDS of n bytes (R132, R234). -/
def ldsEffect (n : Nat) (o : LmOp) (s : State) : State :=
  let k := s.cur.warp
  let desc := seqVa o s 0
  let ls := lmLanes o s
  let mask := ls.foldl (fun m l => m ||| laneBit l) 0#64
  if crowded s (flagOf o.flag) then notEligible s
  else if acqPending s k mask then notEligible s
  else
    let att := match translate s k .read desc with
      | .ok _ _ => if ls = [] then Except.ok (0, s) else attached s (warpCtx s k) desc
      | _ => .error (.wait 0)
    let fail := match att with
      | .error (.fail c a y) => some (c, a, y)
      | _ => none
    let busy := match att with
      | .error .busy => true
      | _ => false
    let s := match att with
      | .ok x => x.2
      | .error _ => s
    let parts := ls.map fun l =>
      let pos := leVal (groupBytes (me s) o.a 8 l)
      let hb := leVal (groupBytes (me s) o.b 4 l)
      let l0 : LaneAcc := { lane := l, va := desc, data := ldsData desc pos hb }
      (l0, match fail with
        | some x => Lds.lost x.1 (w64 (x.2.1.getD 0)) x.2.2
        | none => ldsLane s k n l desc pos hb)
    let walks := parts.filterMap fun p => match p.2 with
      | .miss va => some { page := pageOf va, va := va, lane := p.1.lane, pc := curPc s : WalkReq }
      | _ => none
    if busy then notEligible s
    else if walks ≠ [] then notEligible (askWalks s k walks)
    else
      let s := (parts.flatMap fun p => ldsVas s k desc (leVal ((p.1.data.drop 8).take 8)) p.2).foldl (fun s va => ldsUses s k va) s
      let s := if parts = [] then s else { s with freeCtr := s.freeCtr + 192 }
      let s := if parts.any fun p => ldsChecked p.2 then refreshQl s k else s
      let bad := parts.filterMap fun p => match p.2 with
        | .bad c a y => some { lane := p.1.lane, cause := c, addr := some a.toNat, syn := y : LaneCause }
        | _ => none
      let lost := parts.filterMap fun p => match p.2 with
        | .lost c a y => some { lane := p.1.lane, cause := c, addr := some a.toNat, syn := y : LaneCause }
        | _ => none
      let good := parts.filterMap fun p => match p.2 with
        | .bad _ _ _ => none
        | .lost _ _ _ => none
        | r => some (ldsPart n p.1 r)
      let txm := regionLanes s
      let banned := good.foldl (fun m l =>
        if bit txm l.lane && l.pas ≠ [] && uncached s l.uc (l.pas.headD 0) then m ||| laneBit l.lane else m) 0#64
      let s := faultLanes (undoClear (setMe s { me s with walkBad := [] })) bad
      let eng := match fail, translate s k .read desc with
        | some _, .ok pa _ => squEngine s pa
        | _, _ => coreEngine 0 s.cur.core
      let s := if lost = [] then s else detect s k
        { pc := curPc s, deferred := true, engine := eng
          lanes := lost }
      let y := abortLanes s k banned 9
      let keep := good.filter fun l => !bit y.2 l.lane
      let run := s.cur.mask &&& ~~~y.2
      let r := openAcc y.1 { lmAcc o .lds n o.d.toNat with lanes := keep, run := run }
      advance r.1 2 (run &&& ~~~causeMask bad)

/-- LDS (R234). -/
def execLds (sz : StSize) (o : LmOp) (s : State) : Host.Outcome State Fault Refusal :=
  let n := stBytes sz
  .next (checked s {}
    (regCauses s [vdst o.d (groupRegs n), vgroup (ldsStat o n) 1, vsrc o.a 2, vsrc o.b 1]) (ldsEffect n o))

end Sys2Proof.Machine
end

