-- ==== Sys2Proof/Machine/Paging.lean ====
section
/-!
DEFINITION. The device's fault queue (R398) and the accesses of agents other than threads: the matrix unit, the chain and
request engines and the dispatcher, which translate by walks of their own and wait in the queue (R398, R402, R404).
-/
namespace Sys2Proof.Machine
open Sys2Proof

/-- The page of a context is pending (R398). -/
def pagePending (s : State) (ctx page : Nat) : Bool := s.fqueue.any fun p => p.ctx = ctx && p.page = page

/-- ENGINE of the page-walk unit of a reticle. -/
def walkEngine (reticle : Nat) : Nat := engineOf 7 reticle 0

/-- Pages that the fault queue holds (R398). -/
def fqueueSize : Nat := 4096

/-- A page enters the queue with its record (R398). -/
def admitPage (s : State) (ctx page : Nat) (r : Record) : State :=
  let x := stampRecord s { r with cause := 0x30, sev := 1, action := 2, ctx := ctx }
  publish { x.2 with fqueue := x.2.fqueue ++ [{ ctx := ctx, page := page, seq := x.1.seq, since := s.time }] } x.1

/-- An access that met a missing page: it attaches to the page's record, makes one, or waits at its walker (R398). -/
def enqueuePage (s : State) (ctx page : Nat) (r : Record) : State :=
  if pagePending s ctx page then s
  else if s.fqueue.length < fqueueSize && s.fqWait = [] then admitPage s ctx page r
  else
    let s := if s.fqFull then s
      else report { s with fqFull := true }
        { cause := 0x3C, sev := 1, engine := r.engine, ctx := ctx, syn := w64 fqueueSize }
    if s.fqWait.any fun p => p.1 = ctx && p.2.1 = page then s
    else { s with fqWait := s.fqWait ++ [(ctx, page, r)] }

/-- The part of a record that names the threads, PC and address of an access (Table 20-2, T P A). -/
def threadRecord (s : State) (k lane : Nat) (pc va : Word) (syn : Word) : Record :=
  let w := warpAt s k
  let tm := teamAt s w.team
  { flags := 3, engine := walkEngine (reticleOf tm.core), ctx := tm.ctx, warp := w.wid, lane := lane, grid := tm.grid
    team := tm.index, pc := pc.toNat, addr := va.toNat, syn := syn }

/-- The level at which a walk of a missing page ended (R398). -/
def absentLevel (s : State) (ctx : Nat) (va : Word) : Nat :=
  match walk s.mem s.poison (ctxAt s ctx).root va.toNat with
  | .absent n => n
  | _ => 0

/-- What an access of an agent came to. -/
inductive Ag (α : Type)
  | ok (x : α)
  | wait (page : Nat)
  | busy (s : State)
  | fail (cause : Nat) (addr : Word) (syn : Word)

/-- The byte address and leaf of an agent's access (R402). -/
def agPa (s : State) (ctx : Nat) (need : Need) (va : Word) : Ag (Nat × Word) :=
  match xlate s ctx need va with
  | .ok pa e => .ok (pa, e)
  | .wait _ => .wait (pageOf va)
  | .bad c y => .fail c va y

/-- What an agent that is no thread reads and writes as: its number at other devices, the warp and reticle for which homes serve it, and
the hint of its record, 0 for none (R128, R275). -/
structure Agent where
  who     : Nat
  warp    : Nat
  reticle : Nat
  hint    : Nat := 0

/-- The hint in force for an agent's access to a page (R128). -/
def agHint (g : Agent) (e : Word) : Nat := if leafUc e then 0 else if g.hint = 0 then leafHint e else g.hint

/-- n bytes that an agent reads at another device: the owner's answer, which the agent asks for and awaits (R323). -/
def agRemote (s : State) (g : Agent) (dev : Nat) (va : Word) (n : Nat) : Ag (List Byte × State) :=
  match s.replies.find? fun r => r.who = g.who && r.va = va.toNat && (r.cause ≠ 0 || r.data.length = n) with
  | some r => if r.cause ≠ 0 then .fail r.cause va r.syn else .ok (r.data, { s with replies := s.replies.erase r })
  | none =>
    if s.remotes.any fun r => r.acc = g.who && r.va = va.toNat && r.n = n then .busy s
    else .busy (sendAgent s g.who dev va n true)

/-- n bytes read by an agent within one line, as the wafer cache serves them; uncorrectable data stops it (R368, R405). -/
def agRead (s : State) (ctx : Nat) (g : Agent) (va : Word) (n : Nat) : Ag (List Byte × State) :=
  match agPa s ctx .read va with
  | .wait p => .wait p
  | .busy s => .busy s
  | .fail c a y => .fail c a y
  | .ok (pa, e) =>
    if leafDev e ≠ s.devnum then agRemote s g (leafDev e) va n
    else
      match poisonCause s pa false with
      | some c => .fail c va (tierSyn s pa c).1
      | none =>
        let h := agHint g e
        let s := placeFor s (leafUc e) h pa
        let bs := serveBytes s g.warp g.reticle (leafUc e) pa n
        .ok (bs, applyHint (useByLoad s g.warp g.reticle (leafUc e) (h = 2) pa) h g.reticle pa (leafUc e) true)

/-- Bytes written by an agent within one line; a line that is moving or still has replicas makes the agent wait while
it collapses (R126, R127), a write to an immutable line is refused (R404), and one at another device is the owner's (R323). -/
def agWrite (s : State) (ctx : Nat) (g : Agent) (va : Word) (bs : List Byte) : Ag State :=
  match agPa s ctx .write va with
  | .wait p => .wait p
  | .busy s => .busy s
  | .fail c a y => .fail c a y
  | .ok (pa, e) =>
    if leafDev e ≠ s.devnum then .ok (sendAgent s g.who (leafDev e) va 0 true)
    else
      match tierFails s pa, storeRejected s pa with
      | some c, _ => .fail c va (tierSyn s pa c).1
      | none, some c => .fail c va 0#64
      | none, none =>
        let h := agHint g e
        let s := placeFor s (leafUc e) h pa
        if stackDead s pa then .ok s
        else if writable s (lineOf pa) (leafProp e) then
          .ok (applyHint (homeWrite s (some (g.warp, g.reticle)) (leafUc e) (leafProp e) (h = 2) pa bs) h g.reticle pa (leafUc e) false)
        else .busy (collapseLine s (lineOf pa))

/-- The page of a waiting agent enters the fault queue (R398). -/
def agWait (s : State) (ctx page : Nat) (r : Record) : State :=
  enqueuePage s ctx page { r with syn := w64 (absentLevel s ctx (w64 (page * 65536))), addr := page * 65536, flags := r.flags ||| 1 }

end Sys2Proof.Machine
end

