-- ==== Sys2Proof/Machine/Tile.lean ====
section
/-!
DEFINITION. The tile table (R120, R121), the TILE instructions (R273),
and RQ.KICK (R274).
-/
namespace Sys2Proof.Machine
open Sys2Proof

/-! ### The tile table -/

/-- A tile-table entry (Table 6-6). -/
abbrev TileEntry := BitVec 128
/-- An entry of a core's table. -/
def tileAt (s : State) (core e : Nat) : TileEntry := aget 0#128 (coreAt s core).table e
/-- The table with an entry replaced. -/
def putTile (s : State) (core e : Nat) (x : TileEntry) : State :=
  let c := coreAt s core
  putCore s core { c with table := aset 0#128 c.table e x }
/-- ALLOC. -/
def tileAlloc (x : TileEntry) : Bool := bit x 26
/-- OWNER. -/
def tileOwner (x : TileEntry) : Nat := (fld x 29 3).toNat
/-- STATE: 0 empty, 1 filling, 2 ready, 3 draining. -/
def tileState (x : TileEntry) : Nat := (fld x 27 2).toNat
/-- PENDW. -/
def tilePendW (x : TileEntry) : Nat := (fld x 12 12).toNat
/-- PENDR. -/
def tilePendR (x : TileEntry) : Nat := (fld x 0 12).toNat
/-- OFFSET in bytes. -/
def tileOff (x : TileEntry) : Nat := (fld x 38 10).toNat * 1024
/-- SIZE in bytes. -/
def tileSize (x : TileEntry) : Nat := ((fld x 32 6).toNat + 1) * 1024
/-- The tag: TENSOR and C3 to C0 (R120). -/
def tileTag (x : TileEntry) : Nat := (fld x 48 80).toNat
/-- STATE replaced. -/
def setState (x : TileEntry) (n : Nat) : TileEntry := setFld x 27 2 n
/-- PENDW replaced. -/
def setPendW (x : TileEntry) (n : Nat) : TileEntry := setFld x 12 12 n
/-- PENDR replaced. -/
def setPendR (x : TileEntry) (n : Nat) : TileEntry := setFld x 0 12 n
/-- An entry is allocated to the team at a place. -/
def tileOwned (x : TileEntry) (place : Nat) : Bool := tileAlloc x && tileOwner x = place
/-- The entries of the team at a place, with their numbers. -/
def teamTiles (s : State) (core place : Nat) : List (Nat × TileEntry) :=
  (coreAt s core).table.filter fun e => tileOwned e.2 place
/-- The tag in a pair of g registers (R273). -/
def tagOf (lo hi : Word) : Nat := lo.toNat + 2 ^ 64 * (hi.toNat % 65536)
/-- A new entry of a team (R273). -/
def newTile (tag place off size : Nat) : TileEntry :=
  BitVec.ofNat 128 (tag * 2 ^ 48 + off * 2 ^ 38 + size * 2 ^ 32 + place * 2 ^ 29 + 2 ^ 26)

/-! ### Requests in the engine -/

/-- A field of a request record (Table 12-4, Table 12-5). -/
def reqField (r : Req) (off n : Nat) : Nat := leVal ((r.bytes.drop off).take n)
/-- KIND. -/
def reqKind (r : Req) : Nat := reqField r 0x00 1
/-- A bit of RFLAGS. -/
def reqFlag (r : Req) (k : Nat) : Bool := reqField r 0x01 1 / 2 ^ k % 2 = 1
/-- DTILE. -/
def reqDtile (r : Req) : Bool := reqFlag r 3
/-- STILE. -/
def reqStile (r : Req) : Bool := reqFlag r 4
/-- A request names a tile of its team (R277). -/
def reqNames (r : Req) (e : Nat) : Bool :=
  (reqDtile r && reqField r 0x08 1 = e) || (reqStile r && reqField r 0x09 1 = e)

/-- A chain's TENT. -/
def chainTent (c : Chain) : Nat := leVal ((c.bytes.drop 0x1F).take 1)
/-- A tile of a matrix-queue item. -/
def mxTile (x : MxItem) : Option Nat :=
  match x.work with
  | .mma _ _ t _ => some t
  | .aclr _ => none
  | .drain _ t _ => some t

/-- An MX instruction or CHAIN of a team that names an entry is in flight (R271, R277). -/
def mxNames (s : State) (core team e : Nat) : Bool :=
  let c := coreAt s core
  ((c.queue ++ c.waiting).any fun x => x.team = team && mxTile x = some e)
    || (c.chains.any fun x => x.team = team && chainTent x = e && chainTent x ≠ 0xFF)
    || (teamAt s team).latch.any fun h => h.tile = e

/-- A request, MX instruction or CHAIN of a team that names an entry is in the engine or in flight (Table 12-3). -/
def tileBusy (s : State) (core team e : Nat) : Bool :=
  mxNames s core team e || (coreAt s core).reqs.any fun r => r.team = team && reqNames r e

/-! ### TILE (R273) -/

/-- A TILE instruction: what it does to the state at issue, and the g registers it writes with latency 4; none while it is
not eligible. -/
def runTile (s : State) (q : QPred) (causes : List (Nat × Word)) (f : State → Option (State × List PWrite)) : State :=
  checked s {} causes fun s =>
    if !qpredHolds (me s) q then advance (undoClear s) (extWidth q) s.cur.mask
    else
      match f s with
      | none => notEligible s
      | some x =>
        let s := undoClear x.1
        advance (setMe s (addPend (me s) (now s + 4) x.2)) (extWidth q) s.cur.mask

/-- gd: the entry and the status (R273). -/
def tileResult (d : BitVec 6) (entry status : Nat) : List PWrite := [.g d.toNat (w64 (entry + 256 * status))]

/-- The tag in an even pair of g registers. -/
def tagAt (s : State) (a : BitVec 6) : Nat := tagOf (greg (me s) a.toNat) (greg (me s) (a.toNat + 1))

/-- A TILE.ALLOC that takes no entry: its status, with an entry number that the manual does not state (log 5). -/
def noTile (s : State) (d : BitVec 6) (status : Nat) : State × List PWrite :=
  let f := freeValue s
  (f.2, tileResult d (f.1.toNat % 256) status)

/-- TILE.ALLOC (R273). -/
def execTileAlloc (d a b : BitVec 6) (q : QPred) (s : State) : Host.Outcome State Fault Refusal :=
  .next (runTile s q (gpairCauses a) fun s =>
    let c := s.cur.core
    let t := myTeam s
    let tag := tagAt s a
    let gb := greg (me s) b.toNat
    let off := (fld gb 0 10).toNat
    let size := (fld gb 16 6).toNat
    let mine := teamTiles s c t.place
    let free := (List.range 256).find? fun e => !tileAlloc (tileAt s c e)
    match mine.find? fun e => tileTag e.2 = tag, free with
    | some e, _ => some (s, tileResult d e.1 2)
    | none, none => some (noTile s d 1)
    | none, some e =>
      let lo := off * 1024
      let hi := lo + (size + 1) * 1024
      if mine.any fun x => tileOff x.2 < hi && lo < tileOff x.2 + tileSize x.2 then some (noTile s d 3)
      else if t.tileb < hi then some (noTile s d 4)
      else some (putTile s c e (newTile tag t.place off size), tileResult d e 0))

/-- TILE.FIND (R273). -/
def execTileFind (d a : BitVec 6) (q : QPred) (s : State) : Host.Outcome State Fault Refusal :=
  .next (runTile s q (gpairCauses a) fun s =>
    match (teamTiles s s.cur.core (myTeam s).place).find? fun e => tileTag e.2 = tagAt s a with
    | some e => some (s, [.g d.toNat (w64 (e.1 + 65536 * tileState e.2))])
    | none => some (s, tileResult d 0 5))

/-- The entry that gr(A) bits 7:0 name. -/
def entryAt (s : State) (a : BitVec 6) : Nat := (greg (me s) a.toNat).toNat % 256

/-- TILE.INV: held while its tile is filling or draining (R122, R273). -/
def execTileInv (d a : BitVec 6) (q : QPred) (s : State) : Host.Outcome State Fault Refusal :=
  .next (runTile s q [] fun s =>
    let e := entryAt s a
    let x := tileAt s s.cur.core e
    if !tileOwned x (myTeam s).place then some (s, tileResult d e 7)
    else if tileState x = 1 || tileState x = 3 then none
    else if tilePendR x ≠ 0 then some (s, tileResult d e 6)
    else some (putTile s s.cur.core e (setState x 0), tileResult d e 0))

/-- TILE.REL (R273). -/
def execTileRel (d a : BitVec 6) (q : QPred) (s : State) : Host.Outcome State Fault Refusal :=
  .next (runTile s q [] fun s =>
    let e := entryAt s a
    let x := tileAt s s.cur.core e
    if !tileOwned x (myTeam s).place then some (s, tileResult d e 7)
    else if tilePendW x ≠ 0 || tilePendR x ≠ 0 || tileBusy s s.cur.core (me s).team e then some (s, tileResult d e 6)
    else some (putTile s s.cur.core e 0#128, tileResult d e 0))

/-- TILE.STAT (R273). -/
def execTileStat (d a : BitVec 6) (q : QPred) (s : State) : Host.Outcome State Fault Refusal :=
  .next (runTile s q (gpairCauses d) fun s =>
    let x := tileAt s s.cur.core (entryAt s a)
    let x := if tileOwned x (myTeam s).place then x else 0#128
    some (s, [.g d.toNat (fld x 0 64), .g (d.toNat + 1) (fld x 64 64)]))

/-! ### RQ.KICK (R274) -/

/-- The flag of a record, counted while the request runs. -/
def recFlag (bs : List Byte) : Option Nat :=
  let f := leVal ((bs.drop 3).take 1)
  if f < 12 then some f else none

/-- The records of a kick as requests, their names resolved (R20, R274). -/
def kickReqs (s : State) (off n : Nat) : List Req :=
  (List.range n).map fun j =>
    let bs := memBytes (myTeam s).tile (off + 64 * j) 64
    let names := (List.range 8).map fun k => resolveName s s.cur.core (leVal ((bs.drop (0x20 + 2 * k)).take 2))
    { id := s.nextId + j, team := (me s).team, warp := s.cur.warp, pc := curPc s, run := s.cur.mask, bytes := bs
      cores := if leVal (bs.take 1) = 6 then names else [], flag := recFlag bs, kicked := j, off := off + 64 * j
      since := s.time }

/-- A flag would pass 63 with the records' flags counted (R71, R274). -/
def kickOverflow (w : Warp) (rs : List Req) : Bool :=
  (List.range 12).any fun f => 63 < flagCount w f + (rs.filter fun r => r.flag = some f).length

/-- A DRAIN of the warp is in flight (R272). -/
def drainPending (s : State) (k : Nat) : Bool :=
  let c := coreAt s (teamAt s (warpAt s k).team).core
  (c.queue ++ c.waiting).any fun x => x.warp = k && (match x.work with | .drain _ _ _ => true | _ => false)

/-- The stage-4 causes of RQ.KICK (Table 21-5). -/
def kickCauses (tileb a n : Nat) : List (Nat × Word × Option Nat) :=
  (if n = 0 || 256 < n then [(0x07, w64 n, none)] else [])
    ++ (if a % 64 ≠ 0 then [(0x20, 64#64, some a)] else [])
    ++ (if tileb < a + 64 * n || tileb ≤ a then [(0x23, w64 tileb, some a)] else [])

/-- RQ.KICK (R274). -/
def execRqKick (a b : BitVec 6) (q : QPred) (s : State) : Host.Outcome State Fault Refusal :=
  .next (checked s {} [] fun s =>
    let w := me s
    let off := (greg w a.toNat).toNat
    let n := (greg w b.toNat).toNat
    let c := coreAt s s.cur.core
    if !qpredHolds w q then advance (undoClear s) (extWidth q) s.cur.mask
    else
      match kickCauses (myTeam s).tileb off n with
      | x :: _ => stopRun s x.1 x.2.1 x.2.2
      | [] =>
        let rs := kickReqs s off n
        if 256 < c.reqs.length + n || kickOverflow w rs || drainPending s s.cur.warp
            || !accsDone s s.cur.warp s.cur.mask (fun _ => true) then notEligible s
        else
          let s := undoClear { putCore s s.cur.core { c with reqs := c.reqs ++ rs } with nextId := s.nextId + n }
          advance (setMe s (rs.foldl (fun w r => flagUp w r.flag) (me s))) (extWidth q) s.cur.mask)

end Sys2Proof.Machine
end

