-- ==== Sys2Proof/Machine/Matrix.lean ====
section
/-!
DEFINITION. The matrix unit: MMA, ACLR and DRAIN with their queue, the gang's rendezvous latch and the work of the unit
(R41 to R43, R261 to R272, R288, R103, R104, R106, R107).
-/
namespace Sys2Proof.Machine
open Sys2Proof

/-! ### Shapes -/

/-- K of a KW (R264). -/
def kwK : Nat → Nat | 0 => 128 | 1 => 64 | 2 => 64 | _ => 32
/-- Bits of an element of a KW (R263). -/
def kwBits : Nat → Nat | 0 => 4 | 1 => 6 | 2 => 8 | _ => 16
/-- Elements of a block of a slot; 0 without blocks (Table 3-3). -/
def blkSize (x : Word) : Nat := if slotBlk x = 0 then 0 else 2 ^ (slotBlk x + 2)
/-- Bits of a slot's element format. -/
def slotBits (x : Word) : Nat := match slotEf x with | some f => efBits f | none => 32
/-- K' of an MMA (R264). -/
def mmaK (o : MmaOp) : Nat := kwK o.kw.toNat / 2 ^ o.shp.toNat
/-- Members of an MMA: max(GS, 1) (R267). -/
def mmaUnits (o : MmaOp) : Nat := Nat.max o.gs.toNat 1
/-- The token price of a 32-row group (Table 12-1). -/
def mmaPrice (o : MmaOp) : Nat := 16 / 2 ^ o.shp.toNat

/-- Registers of a half of A that an MMA reads (R265). -/
def mmaRegs (o : MmaOp) : Nat :=
  let bits := kwBits o.kw.toNat
  if o.shp.toNat = 2 then cdiv (mmaK o * bits) 32 else if o.kw.toNat = 1 then 6 else 8

/-- The registers that an MMA reads: elements, scales and zero points (R265). -/
def mmaReads (o : MmaOp) (sa : Word) : List Nat :=
  let a := o.a.toNat
  (List.range (mmaRegs o)).map (a + ·) ++ (if slotScf sa ≠ 0 then [a + 8, a + 9] else [])
    ++ (if slotZpm sa = 1 then [a + 10, a + 11] else [])

/-- Rows of A as an MMA captures them at issue: registers A to A+11 of every lane (R265, R268). -/
def mmaCapture (w : Warp) (a : Nat) : List (List W32) := (List.range 12).map fun j => vrow w (a + j)

/-- Bytes of the B tile that an MMA reads (R266). -/
def mmaBytes (o : MmaOp) (sb : Word) : Nat :=
  let k := mmaK o
  let arr := if blkSize sb = 0 then 0 else k / blkSize sb * 128
  k * 16 * kwBits o.kw.toNat + (if slotScf sb ≠ 0 then arr else 0) + (if slotZpm sb = 1 then arr else 0)

/-! ### Illegal uses -/

/-- An accumulator is bound to a team. -/
def accBound (t : Team) (acc : Nat) : Bool := t.accs.contains acc

/-- The first offending field of an MMA, by its lowest bit in its word (Table 21-5, log 12). -/
def mmaUse (s : State) (o : MmaOp) : Option Nat :=
  let w := me s
  let sa := slotReg w o.sa.toNat
  let sb := slotReg w o.sb.toNat
  let bits := kwBits o.kw.toNat
  let lim := if o.shp.toNat = 0 then kwK o.kw.toNat / 2 else mmaK o
  if slotBits sa ≠ bits || slotBits sb ≠ bits then some 8
  else if slotEf sa = some .fp32 || lim < blkSize sa then some 23
  else if slotEf sb = some .fp32 || mmaK o < blkSize sb then some 20
  else if o.a.toNat % 8 ≠ 0 then some 10
  else if o.gs.toNat = 1 || o.gs.toNat = 7 || o.gs.toNat ≠ gangSize w.gang then some 14
  else
    match w.reuse with
    | some r => if r.a ≠ o.a.toNat then some 10 else if r.kw ≠ o.kw.toNat then some 8
                else if accBound (myTeam s) o.acc.toNat then none else some 18
    | none => if accBound (myTeam s) o.acc.toNat then none else some 18

/-- MX_USE as a cause of stage 2. -/
def mxCause (x : Option Nat) : List (Nat × Word) :=
  match x with
  | some b => [(0x6B, w64 b)]
  | none => []

/-- REG_NOT_HELD for the first register that an MMA reads and the warp does not hold (R80, R265). -/
def mmaHeld (s : State) (o : MmaOp) : List (Nat × Word) :=
  let w := me s
  if w.reuse.isSome then []
  else
    match (mmaReads o (slotReg w o.sa.toNat)).find? fun r => 8 * w.blocks ≤ r with
    | some r => [(0x10, w64 r)]
    | none => []

/-- A cause of stage 4 of the matrix unit, for the whole run. -/
def mxStop (s : State) (cause : Nat) (syn : Word) (addr : Option Nat) : State :=
  faultRun s (if cause = 0x6B then 1 else 0) cause syn addr

/-! ### The queue -/

/-- The matrix queue has room for an instruction that issues (R262). -/
def mxRoom (c : Core) : Bool := c.waiting = [] && c.queue.length < 8

/-- Tile-store stores of the run's threads that have still to take effect (R266). -/
def tileStoresDone (s : State) (k : Nat) (m : Word) : Bool :=
  (accsOf s k).all fun a => !a.ts || pureRead a.kind || pendingMask a &&& m = 0#64

/-- The tile of an entry counts one more, or one fewer, reader (R266). -/
def readTile (s : State) (core e : Nat) (up : Bool) : State :=
  let x := tileAt s core e
  let n := tilePendR x
  putTile s core e (setPendR x (if up then n + 1 else n - 1))

/-- A latch whose held MMAs must agree: the lowest extension bit of the first field in which two differ (R42, Table 20-7). -/
def heldDiffer (a b : Held) : Option Nat :=
  if a.tile ≠ b.tile then some 26
  else if a.op.sa ≠ b.op.sa then some 23
  else if a.op.sb ≠ b.op.sb then some 20
  else if a.op.acc ≠ b.op.acc then some 18
  else if a.op.gs ≠ b.op.gs then some 14
  else if a.op.kw ≠ b.op.kw then some 8
  else if a.op.shp ≠ b.op.shp then some 5
  else none

/-- The held MMAs of the gang of a warp. -/
def gangHeld (s : State) (t : Nat) (g : W32) : List Held :=
  (teamAt s t).latch.filter fun h => sameGang (warpAt s (warpKey t h.wid)).gang g

/-- An MMA enters its gang's latch (R42, R266): the first member's raises PENDR, and one that differs from another held
strikes them all (R370). -/
def enterLatch (s : State) (h : Held) : State :=
  let t := (me s).team
  let x := teamAt s t
  let others := gangHeld s t (me s).gang
  let s := putTeam s t { x with latch := x.latch ++ [h] }
  let s := if others = [] then readTile s s.cur.core h.tile true else s
  match others.findSome? fun y => heldDiffer y h with
  | none => s
  | some b => strikeLatch s t (h.wid :: others.map (·.wid)) 0x44 (w64 b)

/-- The reuse latch after an MMA (R268). -/
def nextReuse (w : Warp) (o : MmaOp) (rows : List (List W32)) : Option Reuse :=
  if o.reu then (match w.reuse with | some r => some r | none => some { a := o.a.toNat, kw := o.kw.toNat, rows := rows })
  else none

/-- MMA (R263 to R268, R42). -/
def execMma (o : MmaOp) (s : State) : Host.Outcome State Fault Refusal :=
  .next (checked s ⟨true, true⟩ (mmaHeld s o ++ mxCause (mmaUse s o)) fun s =>
    let w := me s
    let core := s.cur.core
    let c := coreAt s core
    let e := (greg w o.tg.toNat).toNat % 256
    let x := tileAt s core e
    let own := tileOwned x (myTeam s).place
    if !own then mxStop s 0x6B 26#64 none
    else if tileState x ≠ 2 || !mxRoom c || crowded s (flagOf o.flag) || !tileStoresDone s s.cur.warp s.cur.mask then
      notEligible s
    else if tileSize x < mmaBytes o (slotReg w o.sb.toNat) then mxStop s 0x6B 26#64 none
    else
      let rows := match w.reuse with
        | some r => r.rows
        | none => mmaCapture w o.a.toNat
      let s := undoClear s
      let h : Held := { wid := w.wid, op := o, tile := e, rows := rows, at_ := now s, pc := curPc s, run := s.cur.mask
                        units := unitsDone w s.cur }
      let w := flagUp { usePix (me s) s.cur with reuse := nextReuse (me s) o rows } (flagOf o.flag)
      if o.gs.toNat = 0 then
        let s := readTile (setMe s (spendTokens w)) core e true
        let c := coreAt s core
        let item : MxItem := { team := w.team, warp := s.cur.warp, pc := curPc s, run := s.cur.mask, work := .mma o [h] e 0
                               flag := flagOf o.flag }
        advance (putCore s core { c with queue := c.queue ++ [item] }) 2 s.cur.mask
      else enterLatch (advance (setMe s w) 2 s.cur.mask) h)

/-- The illegal uses of ACLR (R261). -/
def aclrUse (s : State) (acc : BitVec 2) : Option Nat :=
  let t := myTeam s
  if !t.accs.contains acc.toNat && t.accs.any (fun a => acc.toNat < a) then some 17 else none

/-- An accumulator bound to a team (R261). -/
def bindAcc (s : State) (core t acc : Nat) : State :=
  let c := coreAt s core
  let x := teamAt s t
  let s := putCore s core { c with accTeam := aput c.accTeam acc t }
  putTeam s t { x with accs := if x.accs.contains acc then x.accs else x.accs ++ [acc] }

/-- ACLR (R261, R270): it binds at issue and clears in queue order. -/
def execAclr (acc : BitVec 2) (s : State) : Host.Outcome State Fault Refusal :=
  .next (checked s ⟨true, true⟩ (mxCause (aclrUse s acc)) fun s =>
    let c := coreAt s s.cur.core
    let t := (me s).team
    let other := match afind c.accTeam acc.toNat with
      | some u => u ≠ t
      | none => false
    if other || !mxRoom c then notEligible s
    else
      let s := bindAcc (undoClear s) s.cur.core t acc.toNat
      let c := coreAt s s.cur.core
      let item : MxItem := { team := t, warp := s.cur.warp, pc := curPc s, run := s.cur.mask, work := .aclr acc.toNat }
      advance (putCore s s.cur.core { c with queue := c.queue ++ [item] }) 1 s.cur.mask)

/-- The illegal uses of DRAIN (R271). -/
def drainUse (s : State) (o : DrainOp) : Option Nat :=
  let ef := slotEf (slotReg (me s) o.slot.toNat)
  if o.units.toNat = 0 || 6 < o.row0.toNat + o.units.toNat then some 10
  else if o.mode.toNat = 2 && (ef = some .fp32 || ef = some .i8 || ef = some .n8 || ef.isNone) then some 17
  else if accBound (myTeam s) o.acc.toNat then none else some 15

/-- Bytes of a drained row (R271). -/
def drainRow (o : DrainOp) (x : Word) : Nat :=
  match o.mode.toNat with
  | 0 => 512
  | 1 => 256
  | _ => 16 * slotBits x

/-- Bytes that DRAIN writes at gr(SG) (R271). -/
def drainScales (o : DrainOp) (x : Word) : Nat :=
  if o.mode.toNat ≠ 2 || blkSize x = 0 then 0
  else o.units.toNat * 32 * (128 / blkSize x) * (if slotZpm x = 1 then 2 else 1)

/-- Generator steps of a DRAIN: one for every element that it rounds (R102). -/
def drainSteps (o : DrainOp) (x : Word) : Nat :=
  if o.mode.toNat = 0 || slotRnd x ≠ .stochastic then 0 else o.units.toNat * 32 * 128

/-- DRAIN (R271). -/
def execDrain (o : DrainOp) (s : State) : Host.Outcome State Fault Refusal :=
  .next (checked s ⟨true, true⟩ (mxCause (drainUse s o)) fun s =>
    let w := me s
    let core := s.cur.core
    let c := coreAt s core
    let e := (greg w o.tg.toNat).toNat % 256
    let x := tileAt s core e
    let sl := slotReg w o.slot.toNat
    let sg := (greg w o.sg.toNat).toNat
    let n := drainScales o sl
    if n ≠ 0 && (myTeam s).tileb < sg + n then mxStop s 0x23 (w64 (myTeam s).tileb) (some sg)
    else if !tileOwned x (myTeam s).place then mxStop s 0x6B 26#64 none
    else if tileState x ≠ 2 || tilePendR x ≠ 0 || mxNames s core w.team e || !mxRoom c || crowded s (flagOf o.flag)
        || !tileStoresDone s s.cur.warp s.cur.mask then notEligible s
    else if tileSize x < o.units.toNat * 32 * drainRow o sl then mxStop s 0x6B 26#64 none
    else
      let s := undoClear s
      let item : MxItem := { team := w.team, warp := s.cur.warp, pc := curPc s, run := s.cur.mask, work := .drain o e sg
                             seed := w.seed, flag := flagOf o.flag }
      let w := { me s with seed := (srSteps (drainSteps o sl) w.seed).2 }
      let s := setMe s (spendTokens (flagUp w (flagOf o.flag)))
      let c := coreAt s core
      advance (putCore s core { c with queue := c.queue ++ [item] }) 2 s.cur.mask)

/-! ### The gang's latch opens -/

/-- The gang of a team whose latch is complete: its members' MMAs in their order, when it is formed (R42). -/
def latchReady (s : State) (t : Nat) : Option (List Held) :=
  (teamAt s t).latch.findSome? fun h =>
    let g := (warpAt s (warpKey t h.wid)).gang
    let ms := (gangMembers g).filterMap fun m => (teamAt s t).latch.find? fun y => y.wid = m
    if gangFormed s t g && ms.length = gangSize g then some ms else none

/-- The claimant of a joint MMA: the warp of position 0 (R288). -/
def gangClaimant (t : Nat) (ms : List Held) : Nat := warpKey t ((ms.headD ⟨0, ⟨0, 0, 0, 0, 0, false, 0, 0, 0, 0⟩, 0, [], 0, 0, 0, 0⟩).wid)

/-- GANG_LATCH_OPEN: the joint MMA, its claim granted, leaves the latch for the matrix queue, or waits beside a full one
(R42, R43, R262, R288). -/
def execGangLatchOpen (team : Nat) (s : State) : Host.Outcome State Fault Refusal :=
  .next (match latchReady s team with
  | none => s
  | some ms =>
    let k := gangClaimant team ms
    if !(warpAt s k).standing then s
    else
      match ms with
      | [] => s
      | h :: _ =>
        let x := teamAt s team
        let s := putWarp s k (spendTokens (warpAt s k))
        let s := putTeam s team { x with latch := x.latch.filter fun y => !(ms.any fun m => m.wid = y.wid) }
        let c := coreAt s x.core
        let item : MxItem := { team := team, warp := k, pc := h.pc, run := h.run, work := .mma h.op ms h.tile h.units }
        if c.queue.length < 8 && c.waiting = [] then putCore s x.core { c with queue := c.queue ++ [item] }
        else putCore s x.core { c with waiting := c.waiting ++ [item] })

/-! ### The work of the unit -/

/-- The block-scale format of a slot (Table 3-3). -/
def scfFmt (x : Word) : NFmt :=
  match slotScf x with
  | 2 => .fl fe4m3
  | 3 => .fl fe5m2
  | _ => .e8m0

/-- An element value with its block scale and tensor scale (R103). -/
def scaled (x : Word) (f : EFmt) (z code scale : Nat) : Num :=
  let v := elemVal f z code
  let v := if slotScf x ≠ 0 then mulNum v (numVal (scfFmt x) scale) else v
  if slotTs x then mulNum v (ofFp32 (slotTscale x)) else v

/-- The zero point of an element: none, ZPT, or its block's (R96). -/
def zeroOf (x : Word) (f : EFmt) (block : Nat) : Nat := qntZero x f block

/-- Bytes of n registers of captured rows from register j on, in a lane, as one number (R265). -/
def laneNum (rows : List (List W32)) (l j n : Nat) : Nat :=
  leVal ((List.range n).flatMap fun i => bytesOf 4 (laneAt (rows.getD (j + i) zeroRow) l).toNat)

/-- A element k of row i (R265, R267). -/
def mmaA (o : MmaOp) (x : Word) (rows : List (List W32)) (i k : Nat) : Num :=
  let half := kwK o.kw.toNat / 2
  let l := i + 32 * (k / half)
  let e := k % half
  let bits := kwBits o.kw.toNat
  let code := laneNum rows l 0 8 / 2 ^ (bits * e) % 2 ^ bits
  let j := if blkSize x = 0 then 0 else e / blkSize x
  let byte := fun r => laneNum rows l r 2 / 256 ^ j % 256
  match slotEf x with
  | some f => scaled x f (zeroOf x f (byte 10)) code (byte 8)
  | none => .nan

/-- B element (k, n) of the tile at an offset of the team's tile store (R266, R267). -/
def mmaB (o : MmaOp) (x : Word) (tile : Mem) (off k n : Nat) : Num :=
  let bits := kwBits o.kw.toNat
  let row := 16 * bits
  let b := bits * n / 8
  let code := memVal tile (off + k * row + b) 3 / 2 ^ (bits * n % 8) % 2 ^ bits
  let kk := mmaK o
  let j := if blkSize x = 0 then 0 else k / blkSize x
  let arr := if blkSize x = 0 then 0 else kk / blkSize x * 128
  let s0 := off + kk * row
  let z0 := if slotScf x ≠ 0 then s0 + arr else s0
  match slotEf x with
  | some f => scaled x f (zeroOf x f (memVal tile (z0 + 128 * j + n) 1)) code (memVal tile (s0 + 128 * j + n) 1)
  | none => .nan

/-- The accumulator of a core. -/
def accOf (c : Core) (acc : Nat) : List (Nat × W32) := aget [] c.accs acc
/-- Element (i, n) of an accumulator. -/
def accElem (a : List (Nat × W32)) (i n : Nat) : W32 := aget 0#32 a (128 * i + n)

/-- One row group of an MMA: rows 32u to 32u + 31 of the accumulator from member u's A and the B tile (R104, R267). -/
def mmaGroup (a : List (Nat × W32)) (o : MmaOp) (sa sb : Word) (rows : List (List W32)) (tile : Mem) (off u : Nat) :
    List (Nat × W32) :=
  let ks := List.range (mmaK o)
  (List.range 32).foldl (fun acc i =>
    let as := ks.map fun k => mmaA o sa rows i k
    (List.range 128).foldl (fun acc n =>
      let terms := (ks.zip as).map fun x => mulNum x.2 (mmaB o sb tile off x.1 n)
      aset 0#32 acc (128 * (32 * u + i) + n) (toFp32 (sumNum false (ofFp32 (accElem a (32 * u + i) n) :: terms)))) acc) a

/-- The item at the head of the queue leaves it, and one that waited outside takes the place (R262). -/
def mxDone (s : State) (core : Nat) : State :=
  let c := coreAt s core
  let q := c.queue.drop 1
  match c.waiting with
  | [] => putCore s core { c with queue := q }
  | x :: xs => putCore s core { c with queue := q ++ [x], waiting := xs }

/-- The slots of the warp of an item. -/
def mxSlot (s : State) (k : Nat) (n : BitVec 3) : Word := slotReg (warpAt s k) n.toNat

/-- MATRIX_MMA_GROUP: the unit completes the next row group of the MMA at the head of its queue, and with the last the MMA
itself (R267). -/
def execMatrixMmaGroup (core : Nat) (s : State) : Host.Outcome State Fault Refusal :=
  .next (match (coreAt s core).queue with
  | [] => s
  | x :: rest =>
    match x.work with
    | .mma o ms tile u =>
      let c := coreAt s core
      let t := teamAt s x.team
      let rows := match ms.drop u with | m :: _ => m.rows | [] => []
      let off := tileOff (tileAt s core tile)
      let a := mmaGroup (accOf c o.acc.toNat) o (mxSlot s x.warp o.sa) (mxSlot s x.warp o.sb) rows t.tile off u
      let s := putCore s core { c with
        accs := aput c.accs o.acc.toNat a, queue := { x with work := .mma o ms tile (u + 1) } :: rest }
      if u + 1 < mmaUnits o then s
      else
        let s := ms.foldl (fun s m =>
          let k := warpKey x.team m.wid
          putWarp s k (flagDown (warpAt s k) (flagOf m.op.flag))) s
        mxDone (readTile s core tile false) core
    | _ => s)

/-- MATRIX_ACLR_EXECUTE: the unit sets every element of the accumulator to +0 (R270). -/
def execMatrixAclrExecute (core : Nat) (s : State) : Host.Outcome State Fault Refusal :=
  .next (match (coreAt s core).queue with
  | [] => s
  | x :: _ =>
    match x.work with
    | .aclr acc =>
      let c := coreAt s core
      mxDone (putCore s core { c with accs := aput c.accs acc [] }) core
    | _ => s)

/-! ### Draining -/

/-- |x|. -/
def absNum : Num → Num
  | .nan => .nan
  | .inf _ => .inf false
  | .fin _ n d => .fin false n d
/-- The larger of two numbers. -/
def maxNum (a b : Num) : Num := if numLt a b then b else a
/-- The smaller of two numbers. -/
def minNum (a b : Num) : Num := if numLt b a then b else a
/-- A finite number. -/
def isFin : Num → Bool
  | .fin _ _ _ => true
  | _ => false
/-- The value zero. -/
def isZero : Num → Bool
  | .fin _ n _ => n = 0
  | _ => false

/-- The largest finite value of a floating element format. -/
def efMax (f : EFmt) : Num :=
  match nfmt f with
  | .fl g => flVal g (maxCode g)
  | _ => .fin false 1 1

/-- The range of a block (Table 5-6). -/
def blockRange (f : EFmt) (zpm z : Nat) (ys : List Num) : Num :=
  let zero := zeroNum false
  let hi := ys.foldl maxNum zero
  let lo := ys.foldl minNum zero
  if !isOb f then divNum (ys.foldl (fun m y => maxNum m (absNum y)) zero) (efMax f)
  else
    let top := 2 ^ efBits f - 1
    if zpm = 1 then divNum (sumNum false [hi, negNum lo]) (.fin false top 1)
    else
      let a := if top - z = 0 then zero else divNum hi (.fin false (top - z) 1)
      let b := if z = 0 then zero else divNum (negNum lo) (.fin false z 1)
      maxNum a b

/-- The canonical NaN of a block-scale format. -/
def scaleNan (x : Word) : Nat := roundNum (scfFmt x) .nearestEven false .nan 0
/-- The smallest positive code of a block-scale format (R106). -/
def scaleLeast (x : Word) : Nat := if slotScf x = 1 then 0 else 1

/-- A block requantised: its scale code, its zero point and the codes of its elements (R106, R107); `us` are the random
bits of its elements. -/
def requant (x : Word) (f : EFmt) (vs : List Num) (us : List Nat) : Nat × Nat × List Nat :=
  let ys := if slotTs x then vs.map fun v => divNum v (ofFp32 (slotTscale x)) else vs
  let fixed := if slotZpm x = 1 then 0 else zeroOf x f 0
  let code := fun (z : Nat) (q : Num) (u : Nat) =>
    if isOb f then roundOb (efBits f) z (slotRnd x) q u else roundNum (nfmt f) (slotRnd x) true q u
  let codes := fun (z : Nat) (sc : Num) => (List.range ys.length).map fun j => code z (divNum (ys.getD j .nan) sc) (us.getD j 0)
  let flat := List.replicate ys.length (if isOb f then fixed else 0)
  if blkSize x = 0 then (0, 0, codes fixed (.fin false 1 1))
  else if ys.any fun y => !isFin y then (scaleNan x, fixed, flat)
  else
    let rng := blockRange f (slotZpm x) fixed ys
    if isZero rng then (scaleLeast x, fixed, flat)
    else
      let sc := roundNum (scfFmt x) .towardPos true rng 0
      let v := numVal (scfFmt x) sc
      let lo := ys.foldl minNum (zeroNum false)
      let z := if slotZpm x = 1 then
          (roundInt .nearestEven 0 ((2 ^ efBits f : Nat) - 1) (divNum (negNum lo) v) 0).toNat
        else fixed
      (sc, z, codes z v)

/-- Codes of a number of bits packed from bit 0 upwards (R97). -/
def packCodes (bits : Nat) (cs : List Nat) : Nat := cs.foldr (fun c n => c % 2 ^ bits + 2 ^ bits * n) 0

/-- A drained row: its bytes, its scales and its zero points (R271). -/
def drainRowBytes (o : DrainOp) (x : Word) (vals : List W32) (us : List Nat) : List Byte × List Byte × List Byte :=
  match o.mode.toNat with
  | 0 => (vals.flatMap fun v => bytesOf 4 v.toNat, [], [])
  | 1 => ((List.range 128).flatMap fun n =>
      bytesOf 2 (roundNum (.fl bf16) (slotRnd x) (slotSat x) (ofFp32 (laneAt vals n)) (us.getD n 0)), [], [])
  | _ =>
    match slotEf x with
    | none => ([], [], [])
    | some f =>
      let b := if blkSize x = 0 then 128 else blkSize x
      let rs := (List.range (128 / b)).map fun j =>
        requant x f ((vals.drop (b * j)).take b |>.map ofFp32) ((us.drop (b * j)).take b)
      let codes := rs.flatMap fun r => r.2.2
      let scales := if blkSize x = 0 then [] else rs.map fun r => BitVec.ofNat 8 r.1
      let zeros := if blkSize x = 0 || slotZpm x ≠ 1 then [] else rs.map fun r => BitVec.ofNat 8 r.2.1
      (bytesOf (16 * efBits f) (packCodes (efBits f) codes), scales, zeros)

/-- The tile store after a DRAIN (R271). -/
def drainTile (o : DrainOp) (x : Word) (a : List (Nat × W32)) (tile : Mem) (off sg : Nat) (seed : Word) : Mem :=
  let us := (srSteps (drainSteps o x) seed).1
  let rb := drainRow o x
  let per := if blkSize x = 0 then 0 else 128 / blkSize x
  let rows := o.units.toNat * 32
  (List.range rows).foldl (fun m i =>
    let vals := (List.range 128).map fun n => accElem a (32 * o.row0.toNat + i) n
    let r := drainRowBytes o x vals ((us.drop (128 * i)).take 128)
    memWrite (memWrite (memWrite m (off + i * rb) r.1) (sg + i * per) r.2.1) (sg + rows * per + i * per) r.2.2) tile

/-- MATRIX_DRAIN_EXECUTE: the unit writes the drained rows and scales to the tile store and the DRAIN completes (R271,
R272). -/
def execMatrixDrainExecute (core : Nat) (s : State) : Host.Outcome State Fault Refusal :=
  .next (match (coreAt s core).queue with
  | [] => s
  | x :: _ =>
    match x.work with
    | .drain o e sg =>
      let c := coreAt s core
      let t := teamAt s x.team
      let tile := drainTile o (mxSlot s x.warp o.slot) (accOf c o.acc.toNat) t.tile (tileOff (tileAt s core e)) sg x.seed
      let s := putTeam s x.team { t with tile := tile }
      mxDone (putWarp s x.warp (flagDown (warpAt s x.warp) x.flag)) core
    | _ => s)

end Sys2Proof.Machine
end

