-- ==== Sys2Proof/Machine/Tokens.lean ====
section
/-!
DEFINITION. The token pocket of a cluster (R286, R289): its count, what is held for the head of the reservation queue, and
spending the oldest tokens first.
-/
namespace Sys2Proof.Machine
open Sys2Proof

/-- Tokens of a pocket (R286). -/
def pocketCount (c : Cluster) : Nat := c.pocket.foldl (fun n x => n + x.2) 0
/-- Tokens that are not held for the head of the queue (R287). -/
def freeTokens (c : Cluster) : Nat := pocketCount c - c.held

/-- n tokens taken from a pocket listed by lap, the oldest first (R286). -/
def takeOldest : Nat → List (Nat × Nat) → List (Nat × Nat)
  | _, [] => []
  | n, (lap, k) :: rest => if k ≤ n then takeOldest (n - k) rest else (lap, k - n) :: rest

/-- A price charged to a pocket (R287). -/
def charge (c : Cluster) (n : Nat) : Cluster := { c with pocket := takeOldest n c.pocket }

/-- A price charged to a pocket for a context, whose tokens of the period it counts (R287, R296). -/
def chargeFor (s : State) (cl ctx n : Nat) : State :=
  let r := reticleAt s (cl / 10)
  putReticle (putCluster s cl (charge (clusterAt s cl) n)) (cl / 10) { r with spent := aset 0 r.spent ctx (aget 0 r.spent ctx + n) }

/-- n tokens of a lap put into a pocket (R286). -/
def addTokens (c : Cluster) (lap n : Nat) : Cluster :=
  if n = 0 then c else { c with pocket := aput c.pocket lap (aget 0 c.pocket lap + n) }

/-- Tokens that fit: a pocket holds at most 255 (R286). -/
def pocketRoom (c : Cluster) : Nat := 255 - pocketCount c

end Sys2Proof.Machine
end

