-- ==== Sys2Proof/Machine/Chain.lean ====
section
/-!
DEFINITION. The chain engine: CHAIN, its record, its element loop and its unit event (R281 to R283).
-/
namespace Sys2Proof.Machine
open Sys2Proof

/-- A field of a chain record (Table 12-7). -/
def chainField (bs : List Byte) (off n : Nat) : Nat := leVal ((bs.drop off).take n)
/-- NOPS. -/
def chainNops (bs : List Byte) : Nat := chainField bs 0x1C 1
/-- Operation word j. -/
def chainOp (bs : List Byte) (j : Nat) : Nat := chainField bs (0x20 + 4 * j) 4
/-- Code of an operation word. -/
def opCode (w : Nat) : Nat := w / 2 ^ 24
/-- An operation reads the second source. -/
def opReads1 (w : Nat) : Bool := opCode w = 5 || opCode w = 6 || opCode w = 7
/-- An operation takes k. -/
def opTakesK (w : Nat) : Bool := (1 ≤ opCode w && opCode w ≤ 4) || opCode w = 7
/-- The operations of a record. -/
def chainOps (bs : List Byte) : List Nat := (List.range (Nat.min 8 (chainNops bs))).map (chainOp bs)
/-- Some operation reads the second source. -/
def chainReads1 (bs : List Byte) : Bool := (chainOps bs).any opReads1

/-- The offset of the first field of a record that breaks Table 12-7 or Table 12-8 (log 12). -/
def chainBad (s : State) (bs : List Byte) : Option Nat :=
  let f := chainField bs
  let slot := slotReg (me s) (f 0x1A 1)
  let cord := f 0x1D 1
  let scope := cord / 4 % 8
  let efBad := match slotEf slot with
    | some e => isOb e || e = .i8 || e = .n8
    | none => true
  let tent := f 0x1F 1
  if !chainReads1 bs && f 0x08 8 ≠ 0 then some 0x08
  else if 4 < f 0x18 1 then some 0x18
  else if 4 < f 0x19 1 || (!chainReads1 bs && f 0x19 1 ≠ 0) then some 0x19
  else if 7 < f 0x1A 1 || efBad then some 0x1A
  else if 8 ≤ f 0x1B 1 then some 0x1B
  else if f 0x1C 1 = 0 || 8 < f 0x1C 1 then some 0x1C
  else if 32 ≤ cord || scope = 0 || scope = 7 then some 0x1D
  else if f 0x1E 1 ≠ 0 then some 0x1E
  else if tent ≠ 0xFF && !tileOwned (tileAt s s.cur.core tent) (myTeam s).place then some 0x1F
  else
    ((List.range 8).find? fun j =>
      let w := chainOp bs j
      if j < chainNops bs then opCode w = 0 || 0x0E < opCode w || (!opTakesK w && w % 2 ^ 24 ≠ 0) else w ≠ 0).map
      fun j => 0x20 + 4 * j

/-- Elements of a charged unit (R283). -/
def chainUnit : Nat := 1024

/-- The token price of a unit of a chain (R283); a record with more than eight operations, which is refused once it issues, is priced as
one with eight (log 12). -/
def chainPrice (bs : List Byte) : Nat := Nat.min (chainNops bs) 8 + 1

/-- A cause of stage 4 of CHAIN, for the whole run; the chain engine names a bad record (Table 20-9). -/
def chainStop (s : State) (cause : Nat) (syn : Word) (addr : Option Nat) : State :=
  faultRun s (if cause = 0x69 then 3 else 0) cause syn addr

/-- The stage-4 causes of a CHAIN before its record is read (Table 21-5). -/
def chainCauses (tileb off n : Nat) : List (Nat × Word × Option Nat) :=
  (if 16777215 < n then [(0x07, w64 n, none)] else [])
    ++ (if off % 64 ≠ 0 then [(0x20, 64#64, some off)] else [])
    ++ (if tileb < off + 64 then [(0x23, w64 tileb, some off)] else [])

/-- CHAIN (R281). The acquire that CORD bit 0 asks for before the first read holds it while a write that the thread may have observed is
unseen at that scope (R282, R144). -/
def execChain (o : ChainOp) (s : State) : Host.Outcome State Fault Refusal :=
  .next (checked s ⟨true, true⟩ [] fun s =>
    let w := me s
    let core := s.cur.core
    let off := (greg w o.rg.toNat).toNat
    let n := (greg w o.ng.toNat).toNat
    match chainCauses (myTeam s).tileb off n with
    | x :: _ => chainStop s x.1 x.2.1 x.2.2
    | [] =>
      if crowded s (flagOf o.flag) || drainPending s s.cur.warp || !accsDone s s.cur.warp s.cur.mask (fun _ => true) then
        notEligible s
      else
        let bs := memBytes (myTeam s).tile off 64
        match chainBad s bs with
        | some f => chainStop s 0x69 (w64 f) (some off)
        | none =>
          let tent := chainField bs 0x1F 1
          let cord := chainField bs 0x1D 1
          if tent ≠ 0xFF && tileState (tileAt s core tent) ≠ 2 then notEligible s
          else if cord % 2 = 1 && unseen s (reticleOf core) (cord / 4 % 8) then notEligible s
          else
            let s := undoClear s
            let slot := slotReg w (chainField bs 0x1A 1)
            let first := unitsDone w s.cur
            let steps := if slotRnd slot = .stochastic then n - first else 0
            let c := coreAt s core
            let ch : Chain :=
              { id := s.nextId, team := w.team, warp := s.cur.warp, pc := curPc s, run := s.cur.mask, port := s.cur.port
                bytes := bs, count := n, flag := flagOf o.flag, seed := w.seed, since := s.time
                next := first, paid := (first / chainUnit + 1) * chainUnit }
            let w := { usePix (me s) s.cur with seed := (srSteps steps w.seed).2 }
            let s := setMe s (spendTokens (flagUp w (flagOf o.flag)))
            let s := { putCore s core { c with chains := c.chains ++ [ch] } with nextId := s.nextId + 1 }
            advance s 2 s.cur.mask)

/-! ### The element loop -/

/-- The format of a source stream (Table 12-7). -/
def chainSrcFmt : Nat → FlFmt | 0 => fp32 | 1 => fp16 | 2 => bf16 | 3 => fe4m3 | _ => fe5m2
/-- Bytes of an element of a source stream. -/
def chainSrcBytes : Nat → Nat | 0 => 4 | 1 => 2 | 2 => 2 | _ => 1

/-- x after one operation (Table 12-8). -/
def chainApply (w : Nat) (x s1 : W32) : W32 :=
  let k := w32 (w % 2 ^ 24 * 256)
  let v := ofFp32
  match opCode w with
  | 0x01 => toFp32 (sumNum false [v x, v k])
  | 0x02 => toFp32 (mulNum (v x) (v k))
  | 0x03 => w32 (fMinMax fp32 true x.toNat k.toNat)
  | 0x04 => w32 (fMinMax fp32 false x.toNat k.toNat)
  | 0x05 => toFp32 (sumNum false [v x, v s1])
  | 0x06 => toFp32 (mulNum (v x) (v s1))
  | 0x07 => toFp32 (sumNum false [mulNum (v x) (v s1), v k])
  | 0x08 => sfuExp2 x
  | 0x09 => sfuRcp x
  | 0x0A => sfuRsq x
  | 0x0B => sfuTanh x
  | 0x0C => w32 (signCode fp32 (fun _ => false) x.toNat)
  | 0x0D => w32 (signCode fp32 (fun b => !b) x.toNat)
  | _ => w32 (fMinMax fp32 true x.toNat 0)

/-- The end of the range that a tile-store stream may use, and its start: the named tile's, or the team's (R281). -/
def chainRange (s : State) (c : Chain) : Nat × Nat :=
  let t := teamAt s c.team
  let e := chainTent c
  if e = 0xFF then (0, t.tileb)
  else let x := tileAt s t.core e; (tileOff x, tileOff x + tileSize x)

/-- A chain as an agent. -/
def chainAgent (s : State) (c : Chain) : Agent := { who := c.id, warp := c.warp, reticle := reticleOf (teamAt s c.team).core }

/-- n bytes of a stream of a chain read at an address. -/
def chainRead (s : State) (c : Chain) (ts : Bool) (a : Nat) (n : Nat) : Ag (List Byte × State) :=
  let t := teamAt s c.team
  if a % n ≠ 0 then .fail 0x20 (w64 a) 0#64
  else if ts then
    let r := chainRange s c
    if a < r.1 || r.2 < a + n then .fail 0x23 (w64 a) 0#64 else .ok (memBytes t.tile a n, s)
  else agRead s t.ctx (chainAgent s c) (w64 a) n

/-- Bytes of a stream of a chain written at a global address: both pages of one that crosses into the next are ready before either is
written. -/
def chainPut (s : State) (c : Chain) (a : Nat) (bs : List Byte) : Ag State :=
  let t := teamAt s c.team
  let put := fun s a bs => agWrite s t.ctx (chainAgent s c) (w64 a) bs
  let m := 65536 - a % 65536
  if bs.length ≤ m then put s a bs
  else
    match put s (a + m) (bs.drop m) with
    | .ok _ =>
      (match put s a (bs.take m) with
      | .ok s => put s (a + m) (bs.drop m)
      | x => x)
    | x => x

/-- Bytes of a stream of a chain written at an address. -/
def chainWrite (s : State) (c : Chain) (ts : Bool) (a : Nat) (bs : List Byte) : Ag State :=
  let t := teamAt s c.team
  if ts then
    let r := chainRange s c
    if a < r.1 || r.2 < a + bs.length then .fail 0x23 (w64 a) 0#64
    else .ok (putTeam s c.team { t with tile := memWrite t.tile a bs })
  else chainPut s c a bs

/-- The bytes that hold the destination of a chain at an address, as they stand; at another device they are free values (log 14). -/
def chainOld (s : State) (c : Chain) (ts : Bool) (a n : Nat) : List Byte :=
  let t := teamAt s c.team
  if ts then memBytes t.tile a n
  else (List.range n).map fun j =>
    match agPa s t.ctx .write (w64 (a + j)) with
    | .ok x => if leafDev x.2 = s.devnum then memByte s.mem x.1 else (bytesOf 1 (Config.freeWord s.freeCtr).toNat).headD 0#8
    | _ => 0#8

/-- The bytes that element i of a destination of n elements changes: their offset, how many, and how the old ones give the new ones. An
element of a packed group keeps the bits of the others (R97, R282). The last one clears what is left of its group: the padding that R97
gives a 6-bit group, and the high half of the last byte of an odd count of 4-bit elements (DESIGN CHOICE, log 9: there R97 is silent). -/
def chainDst (bits i n code : Nat) : Nat × Nat × (List Byte → List Byte) :=
  if bits % 8 = 0 then (i * (bits / 8), bits / 8, fun _ => bytesOf (bits / 8) code)
  else
    let group := if bits = 6 then 4 else 2
    let size := bits * group / 8
    let lo := bits * (i % group)
    let last := if i + 1 = n then size - 1 else (lo + bits - 1) / 8
    let len := last - lo / 8 + 1
    let at_ := lo % 8
    (i / group * size + lo / 8, len, fun old =>
      let v := leVal old
      bytesOf len (v % 2 ^ at_ + code * 2 ^ at_ + (if i + 1 = n then 0 else v / 2 ^ (at_ + bits) * 2 ^ (at_ + bits))))

/-- One element of a chain (R282): the state after it. -/
def chainElem (s : State) (c : Chain) (i u : Nat) : Ag State :=
  let f := chainField c.bytes
  let sp := f 0x1B 1
  let n0 := chainSrcBytes (f 0x18 1)
  let n1 := chainSrcBytes (f 0x19 1)
  let slot := mxSlot s c.warp (BitVec.ofNat 3 (f 0x1A 1))
  let ef := (slotEf slot).getD .fp32
  match chainRead s c (sp % 2 = 1) (f 0x00 8 + i * n0) n0 with
  | .wait p => .wait p
  | .busy s => .busy s
  | .fail a b d => .fail a b d
  | .ok (b0, s) =>
    let r1 := if chainReads1 c.bytes then chainRead s c (sp / 2 % 2 = 1) (f 0x08 8 + i * n1) n1 else .ok ([], s)
    match r1 with
    | .wait p => .wait p
    | .busy s => .busy s
    | .fail a b d => .fail a b d
    | .ok (b1, s) =>
      let x := toFp32 (flVal (chainSrcFmt (f 0x18 1)) (leVal b0))
      let y := toFp32 (flVal (chainSrcFmt (f 0x19 1)) (leVal b1))
      let x := (chainOps c.bytes).foldl (fun x w => chainApply w x y) x
      let code := roundNum (nfmt ef) (slotRnd slot) (slotSat slot) (ofFp32 x) u
      let d := chainDst (efBits ef) i c.count code
      let a := f 0x10 8 + d.1
      let ts := sp / 4 % 2 = 1
      if f 0x10 8 % (cdiv (efBits ef) 8) ≠ 0 then .fail 0x20 (w64 a) 0#64
      else chainWrite s c ts a (d.2.2 (chainOld s c ts a d.2.1))

/-- The chains of a core with one replaced. -/
def putChain (s : State) (core : Nat) (c : Chain) : State :=
  let x := coreAt s core
  putCore s core { x with chains := x.chains.map fun y => if y.id = c.id then c else y }

/-- The key under which a chain claims tokens, apart from those of warps (R283, log 16). -/
def chainKey (id : Nat) : Nat := 2 ^ 40 + id

/-- The chain's reservation, if it has one, ends (R289). -/
def endChainClaim (s : State) (core : Nat) (c : Chain) : State :=
  let cl := clusterAt s (clusterOf core)
  if cl.resv.contains (chainKey c.id) then putCluster s (clusterOf core) (dropResv cl (chainKey c.id)) else s

/-- The chain leaves the core. -/
def dropChain (s : State) (core : Nat) (c : Chain) : State :=
  let s := endChainClaim (forget s c.id) core c
  let x := coreAt s core
  putCore s core { x with chains := x.chains.filter fun y => y.id ≠ c.id }

/-- A chain ends with CHAIN_ACCESS for the cause of an access (R282). -/
def failChain (s : State) (core : Nat) (c : Chain) (cause addr : Nat) : State :=
  detect (dropChain s core c) c.warp
    { pc := c.pc, deferred := true, engine := coreEngine 3 core, pix := pixOf c.pc c.next
      lanes := (lanesOf c.run).map fun l => { lane := l, cause := 0x6A, addr := some addr, syn := w64 cause } }

/-- Elements processed up to a limit, one at a time, while nothing stops the chain (R282). -/
def chainLoop : Nat → State → Nat → Chain → Nat → State
  | 0, s, core, c, _ => putChain s core c
  | fuel + 1, s, core, c, limit =>
    if limit ≤ c.next then putChain s core c
    else
      let slot := mxSlot s c.warp (BitVec.ofNat 3 (chainField c.bytes 0x1A 1))
      let st := slotRnd slot = .stochastic
      let r := srStep c.seed
      match chainElem s c c.next (if st then r.1 else 0) with
      | .ok s => chainLoop fuel s core { c with next := c.next + 1, seed := if st then r.2 else c.seed } limit
      | .busy s => putChain s core c
      | .wait p =>
        agWait (putChain s core c) (teamAt s c.team).ctx p (threadRecord s c.warp (lowBit c.run) c.pc 0#64 0#64)
      | .fail cause a _ => failChain s core c cause a.toNat

/-- A chain whose writes at other devices have completed, and that has written its last element, performs its release and sets its flag (R282). -/
def chainEnd (s : State) (core : Nat) (c : Chain) : State :=
  let cord := chainField c.bytes 0x1D 1
  if agentBusy s c.id || (cord / 2 % 2 = 1 && unseen s (reticleOf core) (cord / 4 % 8)) then s
  else dropChain (putWarp s c.warp (flagDown (warpAt s c.warp) c.flag)) core c

/-- The element after the unit of 1,024 in which a chain stands (R283). -/
def unitEnd (c : Chain) : Nat := (c.next / chainUnit + 1) * chainUnit

/-- CHAIN_UNIT: a chain's unit is processed as far as it is charged; the next one then claims its tokens (R283). -/
def execChainUnit (core chain : Nat) (s : State) : Host.Outcome State Fault Refusal :=
  .next (match (coreAt s core).chains.find? fun c => c.id = chain with
  | none => s
  | some c =>
    if let some y := agentLost s c.id then failChain s core c y.cause y.va
    else if c.count ≤ c.next then chainEnd s core c
    else if c.paid ≤ c.next then s
    else chainLoop chainUnit s core c (Nat.min c.count c.paid))

end Sys2Proof.Machine
end

