-- ==== Sys2Proof/Machine/Control.lean ====
section
/-!
DEFINITION. The uniform instructions that change the course of a warp: BRX (R195), EXIT (R196), RALLOC and RFREE (R199, R67,
R68), GANG (R200), TSYNC, YIELD and SLEEP (R202, R203), TRAP and ERET (R204, R354).
-/
namespace Sys2Proof.Machine
open Sys2Proof

/-! ### Reads through translations with X = 1 -/

/-- What a code read gives: bytes, a state in which the warp waits, or a cause with its syndrome. -/
inductive CodeRead
  | bytes (bs : List Byte)
  | held (s : State)
  | bad (cause : Nat) (syn : Word)

/-- The cold-text piece that a packet lies in and that is not yet loaded (R325): its number, the address over 4,096. -/
def coldPiece (s : State) (k : Nat) (pkt : Word) : Option Nat :=
  let t := teamAt s (warpAt s k).team
  let c := ctxAt s t.ctx
  let code := recField (recordOf s t) 0x28 8
  if code = 0 then none
  else
    match readVa s t.ctx (w64 (code + 0x18)) 16 with
    | .error _ => none
    | .ok bs =>
      let lo := leVal (bs.take 8)
      let n := leVal (bs.drop 8)
      let p := pkt.toNat / 4096
      if lo ≤ pkt.toNat && pkt.toNat < lo + n && !c.cold.contains p then some p else none

/-- n bytes of one packet read as instruction fetch reads them, for a run of a warp (R156, R195, R325, R401, FETCH_POISON). -/
def codeRead (s : State) (k : Nat) (m pc va : Word) (n : Nat) : CodeRead :=
  if (coldPiece s k va).isSome then .held s
  else
    match translate s k .exec va with
    | .ok pa _ =>
      (match poisonCause s pa false with
      | some c => .bad (if c = 0x24 then 0x2B else c) 0#64
      | none => .bytes (memBytes s.mem pa n))
    | .miss => .held (askWalks s k [{ page := pageOf va, va := va, lane := lowBit m, pc := pc, exec := true }])
    | .absent _ => .held s
    | .bad c y => .bad c y

/-- A code read within an instruction: its bytes go on, a wait holds the run, for a piece of cold text as for a page (R325), and a cause
strikes it with the address read. -/
def withCode (s : State) (va : Word) (n : Nat) (f : List Byte → State) : State :=
  match codeRead s s.cur.warp s.cur.mask (curPc s) va n with
  | .bytes bs => f bs
  | .held t => notEligible (putWarp t t.cur.warp { warpAt t t.cur.warp with coldFor := coldPiece s s.cur.warp va })
  | .bad c y => stopRun s c y (some va.toNat)

/-- The label of the PAD in slot 0 of a packet, when its slot 0 is a PAD (R195). -/
def padLabel (slot0 : Nat) : Option Nat := if slot0 / 2 ^ 16 = 0x8D00 then some (slot0 % 65536) else none

/-- BRX (R195). -/
def execBrx (a : BitVec 6) (x : UbExt) (s : State) : Host.Outcome State Fault Refusal :=
  .next (checked s {} [] fun s =>
    let s := setMe s { me s with coldFor := none }
    if !qgovHolds (me s) x.gov then branchTo s 2 [] none
    else
      let h := s.cur.pkt + 16#64 * sx64 x.toff
      let i := (greg (me s) a.toNat).toNat
      withCode s h 6 fun hd =>
        if leVal (hd.take 4) ≤ i then stopRun s 0x08 (w64 i) (some h.toNat)
        else
          withCode s (h + w64 (16 + 4 * i)) 4 fun en =>
            let target := h + 16#64 * sx64 (w32 (leVal en))
            let label := leVal (hd.drop 4)
            withCode s (slotPc target 0) 4 fun p =>
              let found := padLabel (leVal p)
              if found = some label then branchTo s 2 [] (some (slotPc target 0))
              else stopRun s 0x09 (w64 (label + 65536 * found.getD 0)) (some target.toNat))

/-! ### EXIT -/

/-- EXIT (R196). -/
def execExit (q : QPred) (s : State) : Host.Outcome State Fault Refusal :=
  .next (checkedU s ⟨true, false⟩ [] fun s =>
    let s := undoClear s
    if qpredHolds (me s) q then exitRun s s.cur.warp s.cur.mask else advance s (extWidth q) s.cur.mask)

/-! ### Register blocks -/

/-- Blocks that a warp frees refill the emergency set first; the emergency grant is over once it is full (R68). -/
def giveBlocks (s : State) (core n : Nat) : State :=
  let x := coreAt s core
  let e := Nat.min n (Config.emergencyBlocks - x.emerg)
  putCore s core { x with
    emerg := x.emerg + e, free := x.free + (n - e)
    granting := x.granting && decide (x.emerg + e < Config.emergencyBlocks) }

/-- The warp with n more blocks, whose registers hold 0 (R80, R199). -/
def addBlocks (w : Warp) (n : Nat) : Warp :=
  { w with blocks := w.blocks + n, v := w.v.filter fun r => r.1 < 8 * w.blocks }

/-- The stage-2 cause of RALLOC (R199, Table 20-4). -/
def rallocCauses (w : Warp) (n : Nat) : List (Nat × Word) :=
  if n = 0 || 15 < w.blocks + n then [(0x15, w64 (n + 256 * w.blocks))] else []

/-- The warps on a core. -/
def coreWarps (s : State) (core : Nat) : List Nat :=
  (s.warps.filter fun x =>
    let t := teamAt s x.2.team
    t.core = core && (t.status = .resident || t.status = .saving) && !x.2.exited).map (·.1)

/-- The free general blocks that could ever exist on the core beside a warp (RALLOC_NEVER, Table 20-7). -/
def everFree (s : State) (k core : Nat) : Nat :=
  (coreWarps s core).foldl (fun n j =>
    let w := warpAt s j
    n - (if j = k then w.blocks else w.launched)) Config.generalBlocks

/-- RALLOC (R67, R199). -/
def execRalloc (n : BitVec 4) (q : QPred) (s : State) : Host.Outcome State Fault Refusal :=
  .next (checkedU s ⟨true, false⟩ (rallocCauses (me s) n.toNat) fun s =>
    let s := undoClear s
    let k := s.cur.warp
    let c := s.cur.core
    let x := coreAt s c
    if !qpredHolds (me s) q then advance s (extWidth q) s.cur.mask
    else if x.allocs = [] && n.toNat ≤ x.free then
      let s := putCore s c { x with free := x.free - n.toNat }
      advance (setMe s (addBlocks (me s) n.toNat)) (extWidth q) s.cur.mask
    else if everFree s k c + 4 < n.toNat then
      let s := parkRun s (extWidth q) s.cur.mask .ralloc
      detect s k { pc := curPc s, deferred := true, engine := coreEngine 0 c
                   lanes := (lanesOf s.cur.mask).map fun l => { lane := l, cause := 0x4B, syn := w64 n.toNat } }
    else
      let r := freshId s
      let s := putCore r.2 c { x with
        allocs := x.allocs ++ [{ warp := k, n := n.toNat, run := s.cur.mask, age := r.1 }] }
      parkRun s (extWidth q) s.cur.mask .ralloc)

/-- The stage-2 cause of RFREE (R199, Table 20-4). -/
def rfreeCauses (w : Warp) (n : Nat) : List (Nat × Word) :=
  if n = 0 || w.blocks < n + 1 then [(0x16, w64 (n + 256 * w.blocks))] else []

/-- A pending write of a register below a limit, or of no v register. -/
def keepsWrite (cap : Nat) (x : Pend) : Bool :=
  match x.w with
  | .v r _ _ => decide (r < cap)
  | _ => true

/-- The destination of an access whose whole result lies at or above a limit (R199). -/
def lostResult (cap : Nat) (a : Acc) : Bool :=
  match a.kind with
  | .load _ | .lds | .atom _ _ | .waitadd _ | .seqRes => decide (cap ≤ a.dst)
  | _ => false

/-- RFREE (R68, R199). -/
def execRfree (n : BitVec 4) (q : QPred) (s : State) : Host.Outcome State Fault Refusal :=
  .next (checkedU s ⟨true, false⟩ (rfreeCauses (me s) n.toNat) fun s =>
    let s := undoClear s
    let k := s.cur.warp
    let w := me s
    if !qpredHolds w q then advance s (extWidth q) s.cur.mask
    else
      let cap := 8 * (w.blocks - n.toNat)
      let s := setMe s { w with
        blocks := w.blocks - n.toNat, pend := w.pend.filter (keepsWrite cap), v := w.v.filter fun r => r.1 < cap }
      let s := (accsOf s k).foldl (fun s a => putAcc s { a with cap := Nat.min a.cap cap }) s
      let s := discardLanes s k fun a _ => lostResult cap a
      advance (giveBlocks s s.cur.core n.toNat) (extWidth q) s.cur.mask)

/-! ### Gangs -/

/-- The faults of a GANG source (R41, R200, Table 21-5). -/
def gangBad (nwarps wid : Nat) (x : Word) : Bool :=
  let g := w32 x.toNat
  let n := gangSize g
  let m := gangMembers g
  (fld x 30 34).toNat ≠ 0 || n = 1 || n = 7 || ((List.range 6).any fun j => n ≤ j && (fld g (4 * j) 4).toNat ≠ 0)
    || (m.eraseDups).length ≠ m.length || (m.any fun w => nwarps ≤ w) || (n ≠ 0 && !m.contains wid)

/-- The GANG register of a source: its SIZE and members, and POS from the list (R200). -/
def gangWord (wid : Nat) (x : Word) : W32 :=
  let g := w32 (x.toNat % 2 ^ 27)
  setFld g 27 3 (if gangSize g = 0 then 0 else (gangMembers g).idxOf wid)

/-- GANG (R200). -/
def execGang (a : BitVec 6) (q : QPred) (s : State) : Host.Outcome State Fault Refusal :=
  .next (checkedU s ⟨true, true⟩ [] fun s =>
    let w := me s
    let x := greg w a.toNat
    if !qpredHolds w q then advance (undoClear s) (extWidth q) s.cur.mask
    else if gangBad (myTeam s).nwarps w.wid x then stopRun s 0x0C (w64 (x.toNat % 2 ^ 32)) none
    else
      let s := leaveGang (undoClear s) w.team w.wid false
      advance (setMe s { me s with gang := gangWord w.wid x }) (extWidth q) s.cur.mask)

/-! ### Time, yielding and waiting -/

/-- TSYNC: the run parks until the next multiple of the time slot (R202). -/
def execTsync (q : QPred) (s : State) : Host.Outcome State Fault Refusal :=
  .next (checkedU s ⟨true, true⟩ [] fun s =>
    let s := undoClear s
    let slot := Nat.max 1 s.tslot
    if qpredHolds (me s) q then
      parkRun s (extWidth q) s.cur.mask (.tsync (slot * (timeAt s s.cur.core / slot + 1)))
    else advance s (extWidth q) s.cur.mask)

/-- YIELD: the warp ranks last at the port's next issue opportunity, and a bind of the port to it ends (R73, R203). -/
def execYield (q : QPred) (s : State) : Host.Outcome State Fault Refusal :=
  .next (checked s {} [] fun s =>
    if qpredHolds (me s) q then
      let c := s.cur.core
      let x := coreAt s c
      let ports := (List.range x.ports.length).map fun j =>
        let p := x.ports.getD j {}
        let p := if p.bound = some s.cur.warp then { p with bound := none, nbound := 0 } else p
        if j = s.cur.port then { p with yielded := some s.cur.warp } else p
      retire (putCore s c { x with ports := ports }) (extWidth q) [] none 2 none s.cur.mask
    else retire s (extWidth q) [] none 2 none s.cur.mask)

/-- SLEEP: the run parks for NSEC ns of %TIME (R203). -/
def execSleep (ns : BitVec 18) (q : QPred) (s : State) : Host.Outcome State Fault Refusal :=
  .next (checkedU s ⟨true, false⟩ [] fun s =>
    let s := undoClear s
    if qpredHolds (me s) q then parkRun s (extWidth q) s.cur.mask (.sleep (timeAt s s.cur.core + ns.toNat))
    else advance s (extWidth q) s.cur.mask)

/-! ### Traps -/

/-- TRAP: a precise fault of the run that resumes at the next instruction (R204). -/
def execTrap (imm : BitVec 8) (q : QPred) (s : State) : Host.Outcome State Fault Refusal :=
  .next (checkedU s ⟨true, true⟩ [] fun s =>
    if qpredHolds (me s) q then
      detect (undoClear s) s.cur.warp
        { pc := curPc s, resume := nextPc s.cur (extWidth q), engine := coreEngine 0 s.cur.core, pix := (me s).pix
          lanes := (lanesOf s.cur.mask).map fun l => { lane := l, cause := 0x00, syn := zx64 imm } }
    else advance (undoClear s) (extWidth q) s.cur.mask)

/-- A store of the warp has still to take effect. -/
def storesPending (s : State) (k : Nat) (m : Word) : Bool :=
  !accsDone s k m fun a => match a with
    | .store | .stg _ | .ustore | .atom _ _ | .red _ _ | .waitadd _ | .mbar _ => true
    | _ => false

/-- ERET: outside a handler it is an illegal use; in one it waits for the handler's stores and returns (R354). -/
def execEret (s : State) : Host.Outcome State Fault Refusal :=
  .next (checked s {} (if s.cur.inHandler then [] else [(0x0D, 0#64)]) fun s =>
    let f := match (me s).handler with
      | some h => h.f
      | none => 0#64
    if storesPending s s.cur.warp f then notEligible s
    else checkPoints (leaveHandler s s.cur.warp) (me s).team)

end Sys2Proof.Machine
end

