-- ==== Sys2Proof/Machine/Perform.lean ====
section
/-!
DEFINITION. How outstanding accesses take effect: the order that a thread keeps (R142 to R145), service at a slice or tier
agent (R139 to R141, R125 to R128), atomics and waits (R236 to R239), mbar objects (R241), remote accesses (R323), the return
of values (R229), and watchpoints (R430).
-/
namespace Sys2Proof.Machine
open Sys2Proof

/-! ### Debug stops -/

/-- A halt begins, unless a command or stop is under way (R427, R428): the context's teams are pre-empted. -/
def beginHalt (s : State) (cn why index : Nat) : State :=
  let c := ctxAt s cn
  if dbgReg c 0x60 % 2 = 0 || c.dbgBusy || c.halted || c.stepping.isSome then s
  else
    let s := putCtx s cn { c with dbgBusy := true, dbgHalt := true, dbgWhy := why, dbgIndex := index, stopped := true, inSwitch := true }
    { s with agenda := ((residentTeams s cn).map fun t => Todo.event (.preemptRequest t)) ++ s.agenda }

/-- The watchpoint of a context that matches n bytes at an address (R430). -/
def watchpointAt (c : Ctx) (va n : Nat) (reads writes : Bool) : Option Nat :=
  (List.range 2).find? fun k =>
    let a := dbgReg c (0xA0 + 0x10 * k)
    let l := dbgReg c (0xA8 + 0x10 * k)
    let len := l % 2 ^ 17
    len ≠ 0 && va < a + len && a < va + n && ((reads && l / 2 ^ 30 % 2 = 1) || (writes && l / 2 ^ 31 % 2 = 1))

/-- A lane access of a warp takes effect under the watchpoints of its context (R430). -/
def watchpoint (s : State) (k lane : Nat) (va n : Nat) (reads writes : Bool) : State :=
  let w := warpAt s k
  let cn := (teamAt s w.team).ctx
  let c := ctxAt s cn
  if c.dbg = [] then s
  else if dbgReg c 0x60 / 4 % 2 = 0 && bit (txLanes w) lane && w.handler.isNone then s
  else
    match watchpointAt c va n reads writes with
    | some j => beginHalt s cn 3 j
    | none => s

/-! ### Hints and placement -/

/-- The hint in force for a lane (R128). -/
def hintOf (a : Acc) (l : LaneAcc) : Nat :=
  if l.uc then 0
  else match a.hint with
    | .none => l.hint
    | .pin => 1
    | .stream => 2
    | .rep => 3

/-! ### Order -/

/-- An access that the slices or the tile store serve; sequence requests are served by their units. -/
def servable (a : Acc) : Bool := a.kind ≠ .seqRes && a.kind ≠ .seqCmt

/-- Two ranges share a byte. -/
def overlap (a n b m : Nat) : Bool := decide (a < b + m) && decide (b < a + n)
/-- The bytes of each part of an access. -/
def partBytes (a : Acc) (l : LaneAcc) : Nat := a.bytes / Nat.max 1 l.pas.length
/-- Two accesses of one thread touch one location (Table 7-3). -/
def sameLocation (x y : Acc) : Bool :=
  x.ts = y.ts && x.lanes.any fun p => p.live && !p.done && y.lanes.any fun q =>
    (p.lane = q.lane || p.lane = 64 || q.lane = 64) && q.live && !q.done
      && (overlap p.va.toNat x.bytes q.va.toNat y.bytes
        || p.pas.any fun a => q.pas.any fun b => overlap a (partBytes x p) b (partBytes y q))
/-- What is pending of an earlier access has gone to the device that owns the locations of a later one: both travel on one channel, in
order (R323). -/
def oneChannel (own : Nat) (x y : Acc) : Bool :=
  match y.lanes.map (·.dev) with
  | [] => false
  | d :: ds => d ≠ own && ds.all (· = d) && x.lanes.all fun l => !(l.live && !l.done) || (l.sent && l.dev = d)

/-- An earlier access of a warp keeps a later one back (Table 7-3, R323). A load waits for a store to its own location, which is
stronger than forwarding and gives the same value (R141, R155). -/
def orderBlocks (own : Nat) (x y : Acc) : Bool :=
  acqMask x &&& pendingMask y ≠ 0#64
    || (pendingMask x &&& pendingMask y ≠ 0#64 && (isRel y || (((drains x && drains y) || sameLocation x y) && !oneChannel own x y)))

/-- A line is leased to the open region of another warp than k, within the lease's term of 1,024 aclk (R247). -/
def leasedBy (s : State) (k line : Nat) : Bool :=
  s.warps.any fun x => x.1 ≠ k && match x.2.tx with
    | some t => t.leases.any fun h => h.1 = line && decide (aclkAt s (teamAt s x.2.team).core ≤ h.2 + 1024)
    | none => false

/-- A lane whose access queues behind a lease of one of its lines (R247, R151). -/
def leaseWaits (s : State) (a : Acc) (l : LaneAcc) : Bool :=
  !a.ts && l.dev = s.devnum && l.pas.any fun pa => leasedBy s a.warp (lineOf pa)

/-- A lane of an access still to be served. -/
def unserved (l : LaneAcc) : Bool := l.live && !l.done && !l.wait && !l.sent
/-- An access may be served now (R142 to R145). -/
def accReady (s : State) (a : Acc) : Bool :=
  servable a && !a.merged && !a.stopped && a.lanes.any (fun l => unserved l && !leaseWaits s a l) && (accsOf s a.warp).all (fun x => a.id ≤ x.id || !orderBlocks s.devnum x a)
    && !(isRel a && unseen s (warpRet s a.warp) a.scope)

/-! ### Values of atomics -/

/-- The new value of an ATOM operation (Table 11-2, R110). -/
def atomNew (op : AtomOp) (ty : Aty) (old b b2 : Nat) : Nat :=
  let n := 8 * atyBytes ty
  let sg := atySigned ty
  match op with
  | .add =>
    if ty = .fp32 then (toFp32 (sumNum false [ofFp32 (w32 old), ofFp32 (w32 b)])).toNat else (old + b) % 2 ^ n
  | .min => if ty = .fp32 then fMinMax fp32 false old b else if ival sg n b < ival sg n old then b else old
  | .max => if ty = .fp32 then fMinMax fp32 true old b else if ival sg n old < ival sg n b then b else old
  | .and => old &&& b
  | .or => old ||| b
  | .xor => old ^^^ b
  | .exch => b
  | .cas => if old = b then b2 else old

/-! ### mbar objects -/

/-- The updates of an mbar object: INIT, EXP, ARV and the engine's counting (R241); none where a count would pass
2^32 - 1. -/
def mbarUpdate (op count : Nat) (x : Nat × Nat × Nat) : Option (Nat × Nat × Nat) :=
  if op = 0 then some (count, 0, 0)
  else
    let e := if op = 1 then x.1 + count else x.1
    let g := if op = 1 then x.2.1 else x.2.1 + count
    if 2 ^ 32 ≤ e || 2 ^ 32 ≤ g then none
    else if e ≠ 0 && g = e then some (0, 0, (x.2.2 + 1) % 2 ^ 32)
    else some (e, g, x.2.2)

/-- The fields EXPECT, GOT and ROUND of an object (Table 11-3). -/
def mbarFields (tile : Mem) (a : Nat) : Nat × Nat × Nat := (memVal tile a 4, memVal tile (a + 4) 4, memVal tile (a + 8) 4)

/-- The waits of a run on mbar objects, without those that now hold. -/
def mbarLeft (tile : Mem) (ls : List (Nat × Nat × Nat)) : List (Nat × Nat × Nat) :=
  ls.filter fun x => memVal tile (x.2.1 + 8) 4 = x.2.2

/-- Runs of a team that wait on mbar objects are looked at again; one whose every lane's condition holds wakes with an
acquire (R241, R150). -/
def mbarWake (s : State) (t : Nat) : State :=
  let x := teamAt s t
  let f := fun pcs : List PcEntry => normPcs (pcs.map fun e =>
    match e.park with
    | some (.mbar ls) => let r := mbarLeft x.tile ls; { e with park := if r = [] then none else some (.mbar r) }
    | _ => e)
  let parked := fun pcs : List PcEntry => (pcs.filter fun e => match e.park with | some (.mbar _) => true | _ => false).length
  (teamWarps t x).foldl (fun s k =>
    let w := warpAt s k
    let w' := { w with pcs := f w.pcs, handler := w.handler.map fun h => { h with runs := f h.runs } }
    let s' := putWarp s k w'
    if parked w'.pcs < parked w.pcs then refreshQl s' k else s') s

/-- An mbar object of a team updated, its reserved word written 0; none where a count would pass its limit (R241, R389, MBAR_RANGE). -/
def mbarCount (s : State) (t a op count : Nat) : Option State :=
  let x := teamAt s t
  match mbarUpdate op count (mbarFields x.tile a) with
  | none => none
  | some (e, g, r) =>
    let tile := memWrite x.tile a (bytesOf 4 e ++ bytesOf 4 g ++ bytesOf 4 r ++ bytesOf 4 0)
    some (mbarWake (putTeam s t { x with tile := tile }) t)

/-! ### Waiters -/

/-- The slice on whose watch list a word's waiters stand: its line's home, with which they move (R239). -/
def watchSlice (s : State) (pa : Nat) : Nat :=
  match lineAt s (lineOf pa) with
  | some x => x.home
  | none => anchorOf s (lineOf pa)

/-- A lane registers as a waiter; at a full watch list of the home the core re-reads the word every microsecond (R239). -/
def addWatch (s : State) (k lane pa n : Nat) (cond : WaitCond) (ty : Aty) (value : Nat) : State :=
  let slice := watchSlice s pa
  let full := s.watchCap ≤ (s.watches.filter fun x => x.poll.isNone && x.tag.isNone && watchSlice s x.pa = slice).length
  let x := freshId s
  let s := { x.2 with watches := x.2.watches ++ [{
    id := x.1, warp := k, lane := lane, pa := pa, bytes := n, cond := cond, ty := ty, value := value
    poll := if full then some (s.time + 1000) else none }] }
  if full then report s { cause := 0x48, engine := engineOf 4 (reticleOfSlice slice) (slice % Config.slicesPerReticle) } else s

/-- The lanes of a warp that are registered on words. -/
def watchMask (s : State) (k : Nat) : Word :=
  s.watches.foldl (fun m x => if x.warp = k then m ||| laneBit x.lane else m) 0#64

/-- The run that an access holds goes on, or parks for its lanes that wait (R238, R239). -/
def parkWatch (s : State) (a : Acc) : State :=
  let m := watchMask s a.warp
  let held := fun hs : List (Nat × Word) => (hs.filter fun h => h.1 = a.id).foldl (fun m h => m ||| h.2) 0#64
  let f := fun (hs : List (Nat × Word)) (pcs : List PcEntry) =>
    mapLanes (held hs) (fun e =>
      let wait := e.mask &&& held hs &&& m
      { e with park := if wait = 0#64 then none else some (.watch wait) }) pcs
  let w := warpAt s a.warp
  putWarp s a.warp (releaseHold a.id { w with
    pcs := f w.holds w.pcs, handler := w.handler.map fun h => { h with runs := f h.holds h.runs } })

/-! ### Service of one lane -/

/-- What serving a lane came to: the state, the lane, and a cause that strikes it with its engine. -/
abbrev Served := State × LaneAcc × Option (LaneCause × Nat)

/-- A lane that a cause strikes: it writes nothing and does not perform (R368). -/
def failLane (s : State) (l : LaneAcc) (cause pa : Nat) : Served :=
  let y := tierSyn s pa cause
  (y.2, { l with live := false }, some (⟨l.lane, cause, some l.va.toNat, y.1⟩, tierEngine s pa))

/-- A store or sequence cause of the home (R404). -/
def rejectLane (s : State) (l : LaneAcc) (cause pa : Nat) : Served :=
  (s, { l with live := false },
    some (⟨l.lane, cause, some l.va.toNat, 0#64⟩, if cause = 0x51 then squEngine s (128 * lineOf pa) else tierEngine s pa))

/-- The lane has taken effect and returns nothing. -/
def doneLane (l : LaneAcc) : LaneAcc := { l with done := true, live := false }

/-- A request sent to the owner device (R323); its effect there is the owner's. -/
def sendRemote (s : State) (a : Acc) (l : LaneAcc) : Served :=
  let idemp := match a.kind with
    | .load _ | .ldg _ | .lds | .uload _ | .store | .stg _ | .ustore | .waitw _ _ => true
    | _ => false
  let x := freshId s
  let r : Remote := { tag := x.1, acc := a.id, lane := l.lane, dev := l.dev, port := ylPort s, idemp := idemp, since := s.time }
  let t := { x.2 with remotes := x.2.remotes ++ [r] }
  match a.kind with
  | .waitw c ty =>
    ({ t with watches := t.watches ++ [{ id := x.1, warp := a.warp, lane := l.lane, pa := l.pas.headD 0, bytes := a.bytes, cond := c
                                         ty := ty, value := leVal l.data, tag := some x.1, dev := l.dev }] }, doneLane l, none)
  | _ => (t, { l with sent := true }, none)

/-- An access of the tile store takes effect at the core (R119, R229, R236, R241). -/
def serveTile (s : State) (a : Acc) (l : LaneAcc) : Served :=
  let t := (warpAt s a.warp).team
  let x := teamAt s t
  let p := l.pas.headD 0
  let old := memBytes x.tile p a.bytes
  let put := fun bs : List Byte => putTeam s t { x with tile := memWrite x.tile p bs }
  match a.kind with
  | .load _ =>
    let bs := (List.range a.bytes).map fun j => if l.data2.getD j 0#8 = 1#8 then l.data.getD j 0#8 else old.getD j 0#8
    (s, { l with res := bs, done := true }, none)
  | .store => (put l.data, doneLane l, none)
  | .atom op ty => (put (bytesOf a.bytes (atomNew op ty (leVal old) (leVal l.data) (leVal l.data2))),
      { l with res := old, done := true }, none)
  | .red op ty => (put (bytesOf a.bytes (atomNew (redAtom op) ty (leVal old) (leVal l.data) 0)), doneLane l, none)
  | .mbar op =>
    match mbarCount s t p op (leVal l.data) with
    | some s => (s, doneLane l, none)
    | none =>
      let f := mbarFields x.tile p
      (s, { l with live := false },
        some (⟨l.lane, 0x42, some p, w64 (f.1 + 2 ^ 32 * f.2.1)⟩, coreEngine 0 x.core))
  | _ => (s, doneLane l, none)

/-- The read-set entry of a load of a TRY.G region: the bytes that memory gave, and none for a load that the region did not issue
(R244). -/
def noteRead (s : State) (k : Nat) (inTx : Word) (l : LaneAcc) (n : Nat) (bs : List Byte) : State :=
  let w := warpAt s k
  match w.tx with
  | none => s
  | some t =>
    if !t.global || !bit inTx l.lane || (afind t.depth l.lane).isNone then s
    else
      let va := l.va.toNat
      let at_ := fun j => if va % 16 ≤ j && j < va % 16 + n && l.data2.getD (j - va % 16) 0#8 ≠ 1#8 then
          some (bs.getD (j - va % 16) 0#8) else none
      let e : TxRead :=
        { lane := l.lane, addr := unitOf va, pa := unitOf (l.pas.headD 0), dev := l.dev
          mask := (List.range 16).foldl (fun m j => if (at_ j).isSome then m + 2 ^ j else m) 0
          data := (List.range 16).map fun j => (at_ j).getD 0#8 }
      putWarp s k { w with tx := some { t with reads := t.reads ++ [e] } }

/-- A lane of an access, after the lanes before it, is the first that its request takes to a line: one LD, ST, LDG or STG is one use of
each line (R338). -/
def firstTouch (before : List LaneAcc) (m : Nat) : Bool :=
  !(before.any fun b => b.done && b.ok && b.pas.any fun pa => lineOf pa = m)

/-- A load is satisfied (R141): from the replica of its reticle or at the home. -/
def serveLoad (s : State) (a : Acc) (before : List LaneAcc) (l : LaneAcc) : Served :=
  let ret := reticleOf (teamAt s (warpAt s a.warp).team).core
  let h := hintOf a l
  let n := partBytes a l
  match l.pas.findSome? fun pa => (poisonCause s pa false).map fun c => (c, pa) with
  | some (c, pa) => failLane s l c pa
  | none =>
    let s := l.pas.foldl (fun s pa => placeFor s l.uc h pa) s
    let bs := l.pas.flatMap fun pa => serveBytes s a.warp ret l.uc pa n
    let s := ((l.pas.map lineOf).eraseDups).foldl (fun s m =>
      useByLoad s a.warp ret l.uc (h = 2 || !firstTouch before m) (128 * m)) s
    let s := applyHints s h ret l.pas l.uc true
    let s := match a.kind with
      | .load _ => noteRead s a.warp a.inTx l a.bytes bs
      | _ => s
    let s := watchpoint s a.warp l.lane l.va.toNat a.bytes true false
    let res := (List.range a.bytes).map fun j => if l.data2.getD j 0#8 = 1#8 then l.data.getD j 0#8 else bs.getD j 0#8
    (s, { l with res := res, done := true }, none)

/-- The lines of a lane at which its write must wait (R126, R127): their collapse begins, and the write is held there. -/
def holdLines (s : State) (a : Acc) (l : LaneAcc) : Option State :=
  let ms := (l.pas.map lineOf).eraseDups.filter fun m => !writable s m l.prop
  if ms = [] then none
  else some (ms.foldl (fun s m =>
    let s := collapseLine s m
    match lineAt s m with
    | some x => putLine s m { x with held := if x.held.contains a.id then x.held else x.held ++ [a.id] }
    | none => s) s)

/-- Bytes written at the home of a lane's location, dropped at a stack that has failed (R139, R405); `counted` says at which lines the
write counts as a use. -/
def writeLane (s : State) (a : Acc) (counted : Nat → Bool) (l : LaneAcc) (bs : List Byte) : State :=
  let ret := reticleOf (teamAt s (warpAt s a.warp).team).core
  let n := partBytes a l
  let h := hintOf a l
  let r := l.pas.foldl (fun (x : State × List Byte) pa =>
    (if stackDead x.1 pa then x.1
     else homeWrite x.1 (some (a.warp, ret)) l.uc l.prop (h = 2 || !counted (lineOf pa)) pa (x.2.take n), x.2.drop n)) (s, bs)
  applyHints r.1 h ret l.pas l.uc false

/-- A write of a lane, after the checks of the home (R139, R404): `f` gives the bytes and the lane afterwards from the old
bytes, and `reads` says that it is an atomic, which uncorrectable data stops and each of whose lanes is a use (R126, R338). -/
def serveWrite (s : State) (a : Acc) (before : List LaneAcc) (l : LaneAcc) (reads : Bool) (f : List Byte → List Byte × LaneAcc) : Served :=
  let h := hintOf a l
  let bad := l.pas.findSome? fun pa =>
    (if reads then poisonCause s pa true else tierFails s pa).map fun c => (c, pa)
  match bad, l.pas.findSome? fun pa => (storeRejected s pa).map fun c => (c, pa) with
  | some (c, pa), _ => failLane s l c pa
  | none, some (c, pa) => rejectLane s l c pa
  | none, none =>
    let s := l.pas.foldl (fun s pa => placeFor s l.uc h pa) s
    match holdLines s a l with
    | some s => (s, { l with sent := true }, none)
    | none =>
      let n := partBytes a l
      let old := l.pas.flatMap fun pa => memBytes s.mem pa n
      let r := f old
      let s := writeLane s a (fun m => reads || firstTouch before m) l r.1
      (watchpoint s a.warp l.lane l.va.toNat a.bytes reads true, r.2, none)

/-- CCTL on a lane's line (R235); lanes that name one line act once. A prefetch places the line as a load with no hint would, under its
page's hint, and counts no use (R128). The line of an attached descriptor stays pinned at its anchor (R251):
unpin and evict leave it. -/
def serveCctl (s : State) (ret op : Nat) (l : LaneAcc) : State :=
  let m := lineOf (l.pas.headD 0)
  if l.uc || !mobile m then s
  else
    match op, lineAt s m with
    | 0, some x => if isDescriptor s (128 * m) then s else putLine s m { x with pin := false }
    | 1, _ => pinLine (placeLine s m) m
    | 2, some x =>
      if x.state = .moving || x.state = .collapsing || isDescriptor s (128 * m) then s else evictLine s m
    | 3, _ => applyHint (placeFor s false l.hint (128 * m)) l.hint ret (128 * m) false true
    | _, _ => s

/-- An eviction asked of a line that is moving or collapsing waits (R235). -/
def cctlWaits (s : State) (op : Nat) (l : LaneAcc) : Bool :=
  op = 2 && !l.uc && (match lineAt s (lineOf (l.pas.headD 0)) with
    | some x => x.state = .moving || x.state = .collapsing
    | none => false)

/-- WAITADD registers the lane when its new value does not meet the threshold (R238). -/
def waitAdded (s : State) (a : Acc) (l : LaneAcc) (ty : Aty) (old : Nat) : State :=
  let n := a.bytes
  let new := atomNew .add ty old (leVal l.data) 0
  let t := leVal l.data2
  if ival (atySigned ty) (8 * n) t ≤ ival (atySigned ty) (8 * n) new then s
  else addWatch s a.warp l.lane (l.pas.headD 0) n .ge ty t

/-- A lane of an access is served, after the lanes before it. -/
def serveLane (s : State) (a : Acc) (before : List LaneAcc) (l : LaneAcc) : Served :=
  if !l.ok then
    (s, if returns a.kind then { l with res := List.replicate a.bytes 0#8, done := true } else doneLane l, none)
  else if a.ts then serveTile s a l
  else if l.dev ≠ s.devnum then sendRemote s a l
  else
    match a.kind with
    | .load _ | .ldg _ | .lds | .uload _ => serveLoad s a before l
    | .store | .stg _ | .ustore => serveWrite s a before l false fun _ => (l.data, doneLane l)
    | .red op ty => serveWrite s a before l true fun old =>
        (bytesOf a.bytes (atomNew (redAtom op) ty (leVal old) (leVal l.data) 0), doneLane l)
    | .atom op ty => serveWrite s a before l true fun old =>
        (bytesOf a.bytes (atomNew op ty (leVal old) (leVal l.data) (leVal l.data2)), { l with res := old, done := true })
    | .waitadd ty =>
      let r := serveWrite s a before l true fun old =>
        (bytesOf a.bytes (atomNew .add ty (leVal old) (leVal l.data) 0), { l with res := old, done := true })
      if r.2.1.done then (waitAdded r.1 a l ty (leVal r.2.1.res), r.2) else r
    | .waitw c ty =>
      let pa := l.pas.headD 0
      match poisonCause s pa false with
      | some c => failLane s l c pa
      | none =>
        let ret := warpRet s a.warp
        let s := placeFor s l.uc (hintOf a l) pa
        let s := useLine s (lineOf pa) ret false l.uc (hintOf a l ≠ 2)
        let s := applyHints s (hintOf a l) ret [pa] l.uc true
        let v := leVal (memBytes s.mem pa a.bytes)
        let n := 8 * a.bytes
        let s := watchpoint s a.warp l.lane l.va.toNat a.bytes true false
        let met := waitHolds c (ival (atySigned ty) n v) (ival (atySigned ty) n (leVal l.data))
        (if met then s else addWatch s a.warp l.lane pa a.bytes c ty (leVal l.data), doneLane l, none)
    | .cctl op => if cctlWaits s op l then (s, l, none) else (serveCctl s (warpRet s a.warp) op l, doneLane l, none)
    | _ => (s, l, none)

/-! ### Service of an access -/

/-- The status predicate of STG is written as its lanes take effect (R232). -/
def stgStatus (a : Acc) (w : Warp) : Warp :=
  match a.kind with
  | .stg ps => (a.lanes.filter fun l => l.done).foldl (fun w l => setProw w ps (laneBit l.lane) (if l.ok then laneBit l.lane else 0#64)) w
  | _ => w

/-- An access once some of its lanes have been served: a wait goes on or parks, an acquire refreshes ql (R86), merged
requests perform with it (R149), and it leaves with its last lane. -/
def afterServe (s : State) (id : Nat) : State :=
  match accAt s id with
  | none => s
  | some a =>
    let fin := a.lanes.all fun l => !l.live || l.done
    let s := match a.kind with
      | .waitw _ _ => if fin then parkWatch s a else s
      | .waitadd _ => if liveAcc a then s else parkWatch s a
      | _ => s
    let s := if fin then putWarp s a.warp (stgStatus a (warpNow s a.warp)) else s
    let s := if fin && isAcq a && 3 ≤ a.scope && a.lanes.any (·.done) then refreshQl s a.warp else s
    let s := if !fin then s
      else ((s.accs.map (·.2)).filter fun x => x.merged && x.tag = some id).foldl (fun s x =>
        keepAcc s { x with lanes := x.lanes.map doneLane }) s
    keepAcc s a

/-- The lanes of LDG and STG take effect one after another (R232): none before an earlier one that still has to. -/
def laneWaits (a : Acc) (before : List LaneAcc) : Bool :=
  match a.kind with
  | .ldg _ | .stg _ => before.any fun l => l.live && !l.done
  | _ => false

/-- The unserved lanes of an access that `sel` names are served, in ascending lane order (R229). -/
def serveLanes (s : State) (a : Acc) (sel : LaneAcc → Bool) : State :=
  let r := a.lanes.foldl (fun (x : State × List LaneAcc × List (LaneCause × Nat)) l =>
    if !unserved l || !sel l || laneWaits a x.2.1 || leaseWaits x.1 a l then (x.1, x.2.1 ++ [l], x.2.2)
    else
      let y := serveLane x.1 a x.2.1 l
      (y.1, x.2.1 ++ [y.2.1], x.2.2 ++ y.2.2.toList)) (s, [], [])
  let s := putAcc r.1 { a with lanes := r.2.1 }
  let s := match r.2.2 with
    | [] => s
    | c :: _ => detect s a.warp
        { pc := a.pc, deferred := true, engine := c.2
          lanes := (r.2.2.map (·.1)).flatMap fun x =>
            if x.lane = 64 then (lanesOf a.run).map fun l => { x with lane := l } else [x] }
  afterServe s a.id

/-- Every unserved lane of an access is served. -/
def serveAcc (s : State) (a : Acc) : State := serveLanes s a fun _ => true

/-- An access whose lanes read and write nothing: it is served as a load. -/
def asLoad (k : AccKind) : Bool :=
  match k with
  | .load _ | .ldg _ | .lds | .uload _ | .waitw _ _ | .cctl _ => true
  | _ => false

/-- LOAD_SERVE: a load, a wait or a cache operation is served (R141, R235, R239). -/
def execLoadServe (acc : Nat) (s : State) : Host.Outcome State Fault Refusal :=
  .next (match accAt s acc with
  | some a => if asLoad a.kind && accReady s a then serveAcc s a else s
  | none => s)

/-- STORE_PERFORM: a store, an atomic or an mbar update performs (R139). -/
def execStorePerform (acc : Nat) (s : State) : Host.Outcome State Fault Refusal :=
  .next (match accAt s acc with
  | some a => if !asLoad a.kind && accReady s a then serveAcc s a else s
  | none => s)

/-- Accesses held at a line perform in arrival order (R126, R127). -/
def serveHeld (s : State) (m : Nat) : State :=
  match lineAt s m with
  | none => s
  | some x =>
    let s := putLine s m { x with held := [] }
    x.held.foldl (fun s id =>
      match accAt s id with
      | none => s
      | some a =>
        let hit := fun l : LaneAcc => l.sent && l.dev = s.devnum && l.live && !l.done && l.pas.any fun pa => lineOf pa = m
        let mine := (a.lanes.filter hit).map (·.lane)
        serveLanes s { a with lanes := a.lanes.map fun l => if hit l then { l with sent := false } else l } fun l =>
          !a.stopped || mine.contains l.lane) s

/-! ### The return of values -/

/-- A group of v registers of a lane written below a limit (R199, R229). -/
def writeGroup (w : Warp) (dst lane cap : Nat) (bs : List Byte) : Warp :=
  (List.range (groupRegs bs.length)).foldl (fun w j =>
    if dst + j < cap then
      setVrow w (dst + j) (laneBit lane) (lanes.map fun _ => w32 (leVal ((bs.drop (4 * j)).take 4)))
    else w) w

/-- A loaded value as its register has it (R231, R191). -/
def widen (signed : Bool) (n : Nat) (bs : List Byte) (dst : Nat) : List Byte :=
  if dst ≤ n then bs else bytesOf dst (if signed then wrapN (8 * dst) (sval (8 * n) (leVal bs)) else leVal bs)

/-- A value returns to its lane. -/
def returnLane (a : Acc) (w : Warp) (l : LaneAcc) : Warp :=
  match a.kind with
  | .load sg => writeGroup w a.dst l.lane a.cap (widen sg a.bytes l.res 4)
  | .ldg ps =>
    let w := writeGroup w a.dst l.lane a.cap l.res
    setProw w ps (laneBit l.lane) (if l.ok then laneBit l.lane else 0#64)
  | .lds =>
    let w := writeGroup w a.dst l.lane a.cap (widen false a.bytes l.res 4)
    writeGroup w (a.dst + groupRegs a.bytes) l.lane a.cap (bytesOf 4 l.stat)
  | .uload sg =>
    let bs := widen sg a.bytes l.res 8
    let w := setG w a.dst (w64 (leVal (bs.take 8)))
    if a.bytes = 16 then setG w (a.dst + 1) (w64 (leVal (bs.drop 8))) else w
  | .seqRes =>
    let w := writeGroup w a.dst l.lane a.cap l.res
    writeGroup w (a.dst + 2) l.lane a.cap (bytesOf 4 l.stat)
  | _ => writeGroup w a.dst l.lane a.cap l.res

/-- LOAD_DATA_RETURN: the values of satisfied lanes are written, and the access finishes with its last lane (R229). -/
def execLoadDataReturn (acc : Nat) (s : State) : Host.Outcome State Fault Refusal :=
  .next (match accAt s acc with
  | none => s
  | some a =>
    let back := a.lanes.filter fun l => l.live && l.done
    let w := back.foldl (fun w l => if l.mute then w else returnLane a w l) (warpNow s a.warp)
    let s := putWarp s a.warp w
    let a := { a with lanes := a.lanes.map fun l => if l.live && l.done then { l with live := false } else l }
    let s := match a.kind with
      | .waitadd _ => if liveAcc a then s else parkWatch s a
      | _ => s
    keepAcc s a)

/-! ### Merging and re-reads -/

/-- Two relaxed REDs that a router may merge (R149): equal operation, type, lanes' locations and scope, at most .device, within
the window of 32 aclk. -/
def mayMerge (s : State) (a b : Acc) : Bool :=
  a.id ≠ b.id && accReady s a && accReady s b && !isRel a && !isRel b && !a.ts && !b.ts && a.kind = b.kind && a.scope = b.scope && a.scope ≤ 4
    && (match a.kind with | .red _ _ => true | _ => false)
    && a.lanes.all (fun l => unserved l && l.dev = s.devnum && b.lanes.any fun m => unserved m && m.pas = l.pas)
    && decide (aclkAt s (teamAt s (warpAt s a.warp).team).core ≤ Nat.min a.issued b.issued + 32)
    && !(s.accs.any fun x => x.2.merged && x.2.tag = some a.id) && !a.merged && !b.merged

/-- RED_MERGE: one request's operands are merged into another's (R110, R149, log 23). -/
def execRedMerge (acc into : Nat) (s : State) : Host.Outcome State Fault Refusal :=
  .next (match accAt s acc, accAt s into with
  | some a, some b =>
    if !mayMerge s a b then s
    else
      match a.kind with
      | .red op ty =>
        let lanes := a.lanes.foldl (fun (ls : List LaneAcc) l =>
          let i := ls.findIdx fun m => m.pas = l.pas
          (List.range ls.length).map fun j =>
            let m := ls.getD j l
            if j = i then
              { m with data := bytesOf a.bytes (atomNew (redAtom op) ty (leVal m.data) (leVal l.data) 0) }
            else m) b.lanes
        let s := putAcc s { b with lanes := lanes }
        putAcc s { a with merged := true, tag := some into }
      | _ => s
  | _, _ => s)

/-- WATCH_REREAD: the core re-reads the word of a waiter that the full watch list did not take (R239). -/
def execWatchReread (watch : Nat) (s : State) : Host.Outcome State Fault Refusal :=
  .next (match s.watches.find? fun x => x.id = watch with
  | none => s
  | some x =>
    match x.poll with
    | none => s
    | some t =>
      if s.time < t then s
      else if watchMet x (memBytes s.mem x.pa x.bytes) then wakeWaiter s x
      else { s with watches := s.watches.map fun y => if y.id = watch then { y with poll := some (s.time + 1000) } else y })

end Sys2Proof.Machine
end

