-- ==== Sys2Proof/Machine/Engine.lean ====
section
/-!
DEFINITION. The request engine: the checks of a record (R275), its start (R274, R276), its acceptance on tiles (R121, R277), its
copies (Table 12-5), multicast (R278), chunk moves (R279), completion (R280) and failure (R372, R403).
-/
namespace Sys2Proof.Machine
open Sys2Proof

/-! ### Records -/

/-- The sides of a request that lie in the tile store (R275): source, destination. -/
def reqSides (r : Req) : Bool × Bool :=
  let f := fun o => reqField r o 1 = 1
  match reqKind r with
  | 0 => (f 0x24, f 0x25)
  | 1 => (f 0x38, f 0x39)
  | 2 => (false, true)
  | 3 => (false, true)
  | 4 => (true, false)
  | 5 => (true, f 0x22)
  | 6 => (f 0x1C, false)
  | _ => (false, false)

/-- The first byte after the fields of a kind (Table 12-5). -/
def kindEnd (kind : Nat) : Nat :=
  match kind with
  | 0 => 0x26 | 1 => 0x3A | 2 => 0x34 | 3 => 0x30 | 4 => 0x30 | 5 => 0x23 | 6 => 0x3A | _ => 0x21

/-- ACQ. -/
def reqAcq (r : Req) : Bool := reqFlag r 0
/-- REL. -/
def reqRel (r : Req) : Bool := reqFlag r 1
/-- EVICT. -/
def reqEvict (r : Req) : Bool := reqFlag r 2
/-- SCOPE. -/
def reqScope (r : Req) : Nat := reqField r 2 1

/-- A record holds a reserved value (R275, RQ_RECORD). -/
def reqReserved (r : Req) : Bool :=
  let k := reqKind r
  let sc := reqScope r
  let fl := reqField r 3 1
  let space := fun o => decide (1 < reqField r o 1)
  decide (7 < k) || decide (32 ≤ reqField r 1 1) || decide (6 < sc) || (sc = 0 && (reqAcq r || reqRel r || k = 5))
    || (12 ≤ fl && fl ≠ 15) || decide (3 < reqField r 0x0A 1)
    || ((r.bytes.drop 0x0B).take 5).any (fun b => b ≠ 0#8) || (r.bytes.drop (kindEnd k)).any (fun b => b ≠ 0#8)
    || (match k with
      | 0 => space 0x24 || space 0x25
      | 1 => space 0x38 || space 0x39
      | 5 => space 0x22
      | 6 => space 0x1C || (List.range 8).any fun j => reqField r 0x1D 1 ≤ j && reqField r (0x20 + 2 * j) 2 ≠ 0
      | _ => false)

/-- A record misuses a tile (R275, RQ_TILE). -/
def reqMisuse (s : State) (core : Nat) (r : Req) : Bool :=
  let place := (teamAt s r.team).place
  let side := reqSides r
  (reqDtile r && (!side.2 || !tileOwned (tileAt s core (reqField r 8 1)) place))
    || (reqStile r && (!side.1 || !tileOwned (tileAt s core (reqField r 9 1)) place)) || (reqEvict r && !reqStile r)

/-- Bytes of an element of a reduce-into. -/
def redBytes (r : Req) : Nat := match reqField r 0x21 1 with | 2 => 8 | 3 => 8 | _ => 4
/-- Entries of BOX of a tensor request. -/
def reqBox (r : Req) (d : Nat) : Nat := reqField r (0x28 + d) 1
/-- Elements of a tensor request's box. -/
def boxCount (r : Req) : Nat := reqBox r 0 * reqBox r 1 * reqBox r 2 * reqBox r 3
/-- 2^LOG2E of a tensor map. -/
def mapElem (r : Req) : Nat := 2 ^ leVal ((r.got.drop 0x2C).take 1)

/-- The tile-store range that a side of a request uses, as offsets from its base: lowest, end (R275). -/
def sideRange (r : Req) (dst : Bool) : Int × Int :=
  let f := fun o n => (reqField r o n : Int)
  let i64 := fun o => sval 64 (reqField r o 8)
  match reqKind r with
  | 0 => let a := f (if dst then 0x18 else 0x10) 8; (a, a + f 0x20 4)
  | 1 =>
    let a := f (if dst then 0x18 else 0x10) 8
    let last := a + (f 0x20 4 - 1) * i64 (if dst then 0x30 else 0x28)
    if reqField r 0x20 4 = 0 then (a, a) else (min a last, max a last + f 0x24 4)
  | 2 => let a := f 0x30 4; (a, a + boxCount r * mapElem r)
  | 3 => let a := f 0x24 4; (a, a + f 0x1C 4 * f 0x20 4)
  | 4 => let a := f 0x24 4; (a, a + f 0x1C 4 * f 0x20 4)
  | 5 => let a := f (if dst then 0x10 else 0x18) (if dst then 8 else 4); (a, a + f 0x1C 4 * redBytes r)
  | _ => let a := f 0x10 8; (a, a + f 0x18 4)

/-- The offset of the field that gives the address of a side. -/
def sideField (r : Req) (dst : Bool) : Nat :=
  match reqKind r with
  | 0 => if dst then 0x18 else 0x10
  | 1 => if dst then 0x18 else 0x10
  | 2 => 0x30
  | 3 => 0x24
  | 4 => 0x24
  | 5 => if dst then 0x10 else 0x18
  | _ => 0x10

/-- The first field of a record beyond its limit, tile ranges aside (R275, RQ_LIMIT, log 12). -/
def reqLimit (r : Req) : Option Nat :=
  let f := reqField r
  if f 4 4 ≠ 0xFFFFFFFF && f 4 4 % 16 ≠ 0 then some 4
  else
    match reqKind r with
    | 2 =>
      if f 0x10 8 % 16 ≠ 0 then some 0x10
      else
        match (List.range 4).find? fun d => f (0x28 + d) 1 = 0 with
        | some d => some (0x28 + d)
        | none =>
          if 65536 < boxCount r then some 0x28
          else ((List.range 4).find? fun d => f (0x2C + d) 1 = 0).map fun d => 0x2C + d
    | 3 => if f 0x18 4 % 4 ≠ 0 then some 0x18 else if f 0x20 4 = 0 || 4096 < f 0x20 4 then some 0x20 else none
    | 4 => if f 0x18 4 % 4 ≠ 0 then some 0x18 else if f 0x20 4 = 0 || 4096 < f 0x20 4 then some 0x20 else none
    | 5 =>
      if f 0x10 8 % redBytes r ≠ 0 then some 0x10
      else if f 0x18 4 % redBytes r ≠ 0 then some 0x18
      else if 5 < f 0x20 1 then some 0x20
      else if 4 < f 0x21 1 || (f 0x21 1 = 4 && 3 ≤ f 0x20 1) then some 0x21 else none
    | 6 => if f 0x1D 1 = 0 || 8 < f 0x1D 1 then some 0x1D else none
    | 7 => if f 0x10 8 % 32 ≠ 0 then some 0x10 else none
    | _ => none

/-- A side named by STILE or DTILE that leaves its tile (R275): the field that breaks the limit. -/
def tileLimit (s : State) (core : Nat) (r : Req) : Option Nat :=
  let out := fun (dst : Bool) (e : Nat) =>
    let x := sideRange r dst
    x.1 < 0 || (tileSize (tileAt s core e) : Int) < x.2
  if reqStile r && out false (reqField r 9 1) then some (sideField r false)
  else if reqDtile r && out true (reqField r 8 1) then some (sideField r true) else none

/-! ### The engine's list of requests -/

/-- A request of a core. -/
def reqAt (s : State) (core id : Nat) : Option Req := (coreAt s core).reqs.find? fun r => r.id = id
/-- A request replaced. -/
def putReq (s : State) (core : Nat) (r : Req) : State :=
  let c := coreAt s core
  putCore s core { c with reqs := c.reqs.map fun x => if x.id = r.id then r else x }
/-- A request leaves the engine. -/
def dropReq (s : State) (core id : Nat) : State :=
  let c := coreAt s core
  putCore s core { c with reqs := c.reqs.filter fun x => x.id ≠ id }

/-- A writing request leaves its tile: the last one leaves it ready, or empty when it or another one failed (Table 6-7, R403). -/
def endWrite (x : TileEntry) (ok : Bool) : TileEntry :=
  let n := tilePendW x - 1
  let x := setPendW x n
  if n = 0 then setState x (if ok then 2 else 0) else x

/-- A reading request leaves its tile: a draining tile with no readers becomes empty, or ready again when the evicting
request failed (Table 6-7, R403). -/
def endRead (x : TileEntry) (evicted : Bool) : TileEntry :=
  let n := tilePendR x - 1
  let x := setPendR x n
  if tileState x = 3 && n = 0 then setState x (if evicted then 0 else 2) else x

/-- An accepted request leaves a tile of its team, in the table of its core or, of a saved team, in its image (R310); until the last one
leaves, the team keeps that a writing or evicting one has failed (R403). -/
def leaveTile (s : State) (t e : Nat) (bad : Bool) (f : Bool → TileEntry → TileEntry) : State :=
  let x := teamAt s t
  let bad := bad || x.spoiled.contains e
  let saved := x.status = .saved
  let y := f (!bad) (if saved then aget 0#128 x.tabImage e else tileAt s x.core e)
  let last := tilePendW y = 0 && tilePendR y = 0
  let rest := x.spoiled.filter fun n => n ≠ e
  let x := { x with spoiled := if bad && !last then e :: rest else rest }
  if saved then putTeam s t { x with tabImage := aput x.tabImage e y } else putTile (putTeam s t x) x.core e y

/-- The tiles of an accepted request, when it ends. -/
def leaveTiles (s : State) (r : Req) (ok : Bool) : State :=
  if r.state < 2 then s
  else
    let s := if reqStile r then leaveTile s r.team (reqField r 9 1) (reqEvict r && !ok) (fun k e => endRead e k) else s
    if reqDtile r then leaveTile s r.team (reqField r 8 1) (!ok) (fun k e => endWrite e k) else s

/-- A request fails with a cause: its flag stays counted (R372, R403). -/
def failReq (s : State) (core : Nat) (r : Req) (cause : Nat) (addr : Option Nat) (syn : Nat) : State :=
  let s := forget (dropReq (leaveTiles s r false) core r.id) r.id
  detect s r.warp
    { pc := r.pc, deferred := true, engine := coreEngine 2 core
      lanes := (lanesOf r.run).map fun l => { lane := l, cause := cause, addr := addr, syn := w64 syn } }

/-- The failure of an access of a request (RQ_ACCESS, RQ_POISON). -/
def failAccess (s : State) (core : Nat) (r : Req) (cause : Nat) (addr : Word) : State :=
  if cause = 0x24 || cause = 0x25 then failReq s core r 0x64 (some addr.toNat) r.kicked
  else failReq s core r 0x63 (some addr.toNat) (cause + 256 * r.kicked)

/-- A request waits for a page (R398). -/
def waitReq (s : State) (core : Nat) (r : Req) (page : Nat) : State :=
  agWait (putReq s core { r with waits := some page }) (teamAt s r.team).ctx page (threadRecord s r.warp (lowBit r.run) r.pc 0#64 0#64)

/-! ### Accesses -/

/-- A request of the engine as an agent (R275). -/
def reqAgent (s : State) (r : Req) : Agent :=
  { who := r.id, warp := r.warp, reticle := reticleOf (teamAt s r.team).core, hint := reqField r 0x0A 1 }

/-- Bytes read by the engine for a request, line by line. -/
def engRead (s : State) (r : Req) (ts : Bool) (va : Word) (n : Nat) : Ag (List Byte × State) :=
  let t := teamAt s r.team
  if ts then
    if t.tileb < va.toNat + n then .fail 0x23 va 0#64 else .ok (memBytes t.tile va.toNat n, s)
  else
    let m := 128 - va.toNat % 128
    if n ≤ m then agRead s t.ctx (reqAgent s r) va n
    else
      match agRead s t.ctx (reqAgent s r) va m with
      | .ok (b, s) =>
        (match agRead s t.ctx (reqAgent s r) (va + w64 m) (n - m) with
        | .ok (c, s) => .ok (b ++ c, s)
        | x => x)
      | x => x

/-- At most 128 bytes written by the engine for a request. -/
def engWrite (s : State) (r : Req) (ts : Bool) (va : Word) (bs : List Byte) : Ag State :=
  let t := teamAt s r.team
  if ts then
    if t.tileb < va.toNat + bs.length then .fail 0x23 va 0#64
    else .ok (putTeam s r.team { t with tile := memWrite t.tile va.toNat bs })
  else
    let m := 128 - va.toNat % 128
    if bs.length ≤ m then agWrite s t.ctx (reqAgent s r) va bs
    else
      match agWrite s t.ctx (reqAgent s r) va (bs.take m) with
      | .ok s => agWrite s t.ctx (reqAgent s r) (va + w64 m) (bs.drop m)
      | x => x

/-- ATY of a code. -/
def atyOf (n : Nat) : Aty := match n with | 0 => .i32 | 1 => .n32 | 2 => .i64 | 3 => .n64 | _ => .fp32
/-- A RED operation of a code. -/
def redOf (n : Nat) : RedOp := match n with | 0 => .add | 1 => .min | 2 => .max | 3 => .and | 4 => .or | _ => .xor

/-- One RED of a reduce-into (Table 12-5, R110). -/
def engRed (s : State) (r : Req) (ts : Bool) (va : Word) (b : List Byte) : Ag State :=
  let op := redAtom (redOf (reqField r 0x20 1))
  let ty := atyOf (reqField r 0x21 1)
  let new := fun old : List Byte => bytesOf b.length (atomNew op ty (leVal old) (leVal b) 0)
  let t := teamAt s r.team
  if ts then
    if t.tileb < va.toNat + b.length then .fail 0x23 va 0#64
    else engWrite s r true va (new (memBytes t.tile va.toNat b.length))
  else
    match agPa s t.ctx .write va with
    | .ok (pa, e) =>
      if leafDev e ≠ s.devnum then .ok (sendAgent s r.id (leafDev e) va 0 false)
      else if let some c := poisonCause s pa true then .fail c va 0#64
      else
        match lowest (pcieCauses s op ty pa) with
        | some c => .fail c.1 va c.2
        | none => engWrite s r false va (new (memBytes s.mem pa b.length))
    | .wait p => .wait p
    | .busy s => .busy s
    | .fail c a y => .fail c a y

/-! ### What a request moves -/

/-- Bytes moved at a time. -/
def pieceBytes : Nat := 64

/-- Pieces of a row of n bytes: their ends fall on aligned units of the destination, which none of them tears (R275). -/
def rowPieces (n : Nat) : Nat := if n = 0 then 0 else cdiv (n + 3) pieceBytes

/-- Piece i of a row of n bytes with a destination: its offset and its bytes. -/
def rowPiece (dst : Word) (n i : Nat) : Nat × Nat :=
  let o := pieceBytes * i - dst.toNat % 4
  (o, Nat.min (pieceBytes * (i + 1) - dst.toNat % 4) n - o)

/-- A piece of the work of a request: a copy, bytes written to the tile store, nothing, or a reduction; with the bytes that it
counts on the mbar. -/
inductive Piece
  | copy (sts : Bool) (src : Word) (dts : Bool) (dst : Word) (n : Nat)
  | fill (dst : Word) (bs : List Byte)
  | skip (n : Nat)
  | red (src : Word) (dts : Bool) (dst : Word) (n : Nat)
  | bad (cause : Nat) (addr : Word)
  deriving DecidableEq, Repr

/-- The bytes that a piece counts (R280). -/
def pieceCount : Piece → Nat
  | .copy _ _ _ _ n => n
  | .fill _ bs => bs.length
  | .skip n => n
  | .red _ _ _ n => n
  | .bad _ _ => 0

/-- The base of a side: its tile's start, or 0 (R275). -/
def sideBase (s : State) (core : Nat) (r : Req) (dst : Bool) : Word :=
  if dst then (if reqDtile r then w64 (tileOff (tileAt s core (reqField r 8 1))) else 0#64)
  else if reqStile r then w64 (tileOff (tileAt s core (reqField r 9 1))) else 0#64

/-- Pieces of a request (Table 12-5). -/
def pieces (r : Req) : Nat :=
  let f := reqField r
  match reqKind r with
  | 0 => rowPieces (f 0x20 4)
  | 1 => f 0x20 4 * rowPieces (f 0x24 4)
  | 2 => boxCount r
  | 3 => f 0x1C 4 * rowPieces (f 0x20 4)
  | 4 => f 0x1C 4 * rowPieces (f 0x20 4)
  | 5 => f 0x1C 4
  | 6 => cdiv (f 0x18 4) pieceBytes
  | _ => 65536 / pieceBytes

/-- A tensor-map request's element i: its piece (R276). -/
def tensorPiece (r : Req) (base : Word) (i : Nat) : Piece :=
  let m := fun o n => leVal ((r.got.drop o).take n)
  let e := mapElem r
  let b := reqBox r
  let idx := fun d => match d with
    | 0 => i % b 0
    | 1 => i / b 0 % b 1
    | 2 => i / b 0 / b 1 % b 2
    | _ => i / b 0 / b 1 / b 2
  let c := fun d => sval 32 (reqField r (0x18 + 4 * d) 4) + ((idx d * reqField r (0x2C + d) 1 : Nat) : Int)
  let rank := m 0x2D 1
  let inside := (List.range rank).all fun d => decide (0 ≤ c d) && decide (c d < (m (0x10 + 4 * d) 4 : Nat))
  let dst := base + w64 (reqField r 0x30 4 + i * e)
  if inside then
    let k := (List.range rank).foldl (fun k d => k + (if d = 0 then c 0 else c d * sval 32 (m (0x1C + 4 * d) 4))) 0
    .copy false (w64 (wrapN 64 (((m 0 8 : Nat) : Int) + k * e))) true dst e
  else .fill dst ((bytesOf 8 (m 8 8)).take e)

/-- Piece i of a request. -/
def piece (s : State) (core : Nat) (r : Req) (i : Nat) : Piece :=
  let f := reqField r
  let side := reqSides r
  let sb := sideBase s core r false
  let db := sideBase s core r true
  let step := fun (stride : Nat) (j : Nat) => w64 (wrapN 64 (sval 64 stride * (j : Int)))
  let element := fun (gather : Bool) =>
    let esz := f 0x20 4
    let per := rowPieces esz
    let j := i / per
    let t := teamAt s r.team
    let ia := f 0x18 4 + 4 * j
    if t.tileb < ia + 4 then .bad 0x23 (w64 ia)
    else
      let idx := memVal t.tile ia 4
      let g := w64 (f 0x10 8 + idx * esz)
      let ts := w64 (f 0x24 4 + j * esz)
      let x := rowPiece (if gather then db + ts else g) esz (i % per)
      let n := x.2
      let g := g + w64 x.1
      let ts := ts + w64 x.1
      if n = 0 then .skip 0
      else if gather then
        if f 0x28 8 ≤ idx then .fill (db + ts) (List.replicate n 0#8) else .copy false g true (db + ts) n
      else if f 0x28 8 ≤ idx then .skip n else .copy true (sb + ts) false g n
  match reqKind r with
  | 0 =>
    let dst := db + w64 (f 0x18 8)
    let x := rowPiece dst (f 0x20 4) i
    if x.2 = 0 then .skip 0 else .copy side.1 (sb + w64 (f 0x10 8 + x.1)) side.2 (dst + w64 x.1) x.2
  | 1 =>
    let per := rowPieces (f 0x24 4)
    let j := i / per
    let dst := db + w64 (f 0x18 8) + step (f 0x30 8) j
    let x := rowPiece dst (f 0x24 4) (i % per)
    if x.2 = 0 then .skip 0 else .copy side.1 (sb + w64 (f 0x10 8 + x.1) + step (f 0x28 8) j) side.2 (dst + w64 x.1) x.2
  | 2 => tensorPiece r db i
  | 3 => element true
  | 4 => element false
  | 5 =>
    let n := redBytes r
    .red (sb + w64 (f 0x18 4 + i * n)) side.2 (db + w64 (f 0x10 8 + i * n)) n
  | _ => .skip 0

/-- A piece carried out. -/
def doPiece (s : State) (r : Req) : Piece → Ag State
  | .copy sts src dts dst n =>
    match engRead s r sts src n with
    | .ok (bs, s) => engWrite s r dts dst bs
    | .wait p => .wait p
    | .busy s => .busy s
    | .fail c a y => .fail c a y
  | .fill dst bs => engWrite s r true dst bs
  | .skip _ => .ok s
  | .red src dts dst n =>
    match engRead s r true src n with
    | .ok (bs, s) => engRed s r dts dst bs
    | .wait p => .wait p
    | .busy s => .busy s
    | .fail c a y => .fail c a y
  | .bad c a => .fail c a 0#64

/-- Bytes counted on the request's mbar object; the request fails where a count would pass its limit (R241, R280). -/
def countReq (s : State) (core : Nat) (r : Req) (n : Nat) : Option State :=
  let a := reqField r 4 4
  if a = 0xFFFFFFFF then some s
  else
    let t := teamAt s r.team
    if t.tileb < a + 16 then some (failReq s core r 0x63 (some a) (0x23 + 256 * r.kicked))
    else mbarCount s r.team a 3 n

/-- MBAR_RANGE of a request. -/
def failCount (s : State) (core : Nat) (r : Req) : State :=
  let a := reqField r 4 4
  let f := mbarFields (teamAt s r.team).tile a
  let s := dropReq (leaveTiles s r false) core r.id
  detect s r.warp
    { pc := r.pc, deferred := true, engine := coreEngine 2 core
      lanes := (lanesOf r.run).map fun l =>
        { lane := l, cause := 0x42, addr := some a, syn := w64 (f.1 + 2 ^ 32 * f.2.1) } }

/-- Pieces carried out until the request ends, waits or fails. -/
def reqLoop : Nat → State → Nat → Req → State
  | 0, s, core, r => putReq s core r
  | fuel + 1, s, core, r =>
    if pieces r ≤ r.next then putReq s core r
    else
      let p := piece s core r r.next
      match doPiece s r p with
      | .wait q => waitReq s core r q
      | .busy s => putReq s core r
      | .fail c a _ => failAccess s core r c a
      | .ok s =>
        match (if reqRel r then some s else countReq s core r (pieceCount p)) with
        | none => failCount s core r
        | some s =>
          if (reqAt s core r.id).isNone then s
          else reqLoop fuel s core { r with next := r.next + 1, since := s.time }

/-- Pieces carried out in one event. -/
def reqBurst : Nat := 1024

/-- All the bytes that a request counts (R280). -/
def reqTotal (r : Req) : Nat :=
  let f := reqField r
  match reqKind r with
  | 0 => f 0x20 4
  | 1 => f 0x20 4 * f 0x24 4
  | 2 => boxCount r * mapElem r
  | 3 => f 0x1C 4 * f 0x20 4
  | 4 => f 0x1C 4 * f 0x20 4
  | 5 => f 0x1C 4 * redBytes r
  | 6 => f 0x18 4 * f 0x1D 1
  | _ => 65536

/-- A request that has written its last byte, its writes at other devices complete, performs its release, counts, and sets its flag
(R280, R323). -/
def finishReq (s : State) (core : Nat) (r : Req) : State :=
  if agentBusy s r.id || (reqRel r && unseen s (reticleOf core) (reqScope r)) then s
  else
    match (if reqRel r then countReq s core r (reqTotal r) else some s) with
    | none => failCount s core r
    | some s =>
      if (reqAt s core r.id).isNone then s
      else
        let s := leaveTiles s r true
        let s := putWarp s r.warp (flagDown (warpAt s r.warp) r.flag)
        dropReq s core r.id

/-! ### Start and acceptance -/

/-- Earlier requests of the same warp have started (R274). -/
def startTurn (s : State) (core : Nat) (r : Req) : Bool :=
  (coreAt s core).reqs.all fun x => x.warp ≠ r.warp || r.id ≤ x.id || 0 < x.state

/-- A name outside the ranges of R19 (MC_NAME). -/
def badName (r : Req) : Option Nat :=
  if reqKind r ≠ 6 then none
  else ((List.range (reqField r 0x1D 1)).map fun j => reqField r (0x20 + 2 * j) 2).find? fun n => !nameOk n

/-- The first bad field of a tensor map (TMAP_INVALID). -/
def mapBad (bs : List Byte) : Option Nat :=
  let m := fun o n => leVal ((bs.drop o).take n)
  let rank := m 0x2D 1
  if 3 < m 0x2C 1 then some 0x2C
  else if m 0 8 % 2 ^ m 0x2C 1 ≠ 0 then some 0
  else if rank = 0 || 4 < rank then some 0x2D
  else
    match (List.range rank).find? fun d => m (0x10 + 4 * d) 4 = 0 with
    | some d => some (0x10 + 4 * d)
    | none => if m 0x2E 2 ≠ 0 then some 0x2E else none

/-- A window that uses a dimension beyond the map's rank (R276). -/
def boxBeyond (r : Req) (bs : List Byte) : Option Nat :=
  let rank := leVal ((bs.drop 0x2D).take 1)
  match (List.range 4).find? fun d => rank ≤ d && reqBox r d ≠ 1 with
  | some d => some (0x28 + d)
  | none => ((List.range 4).find? fun d => rank ≤ d && reqField r (0x18 + 4 * d) 4 ≠ 0).map fun d => 0x18 + 4 * d

/-- A started request that names no tile needs no acceptance (R277). -/
def startedState (r : Req) : Nat := if reqStile r || reqDtile r then 1 else 2

/-- A request whose record has passed its checks starts, unless its tile range breaks its limit. -/
def startReq (s : State) (core : Nat) (r : Req) : State :=
  match tileLimit s core r with
  | some f => failReq s core r 0x61 (some r.off) (f + 256 * r.kicked)
  | none => putReq s core { r with state := startedState r, since := s.time }

/-- RQ_REQUEST_START: the engine checks a record in the order of R275 and starts it, reading its tensor map (R274, R276). -/
def execRqRequestStart (core req : Nat) (s : State) : Host.Outcome State Fault Refusal :=
  .next (match reqAt s core req with
  | none => s
  | some r =>
    if r.state ≠ 0 || !startTurn s core r then s
    else if reqAcq r && !reqReserved r && unseen s (reticleOf core) (reqScope r) then s
    else if reqReserved r then failReq s core r 0x60 (some r.off) r.kicked
    else if reqMisuse s core r then failReq s core r 0x62 (some r.off) r.kicked
    else
      match (reqLimit r).or (if reqKind r = 2 then none else tileLimit s core r), badName r with
      | some f, _ => failReq s core r 0x61 (some r.off) (f + 256 * r.kicked)
      | none, some n => failReq s core r 0x66 none n
      | none, none =>
        if reqKind r = 2 then
          let va := w64 (reqField r 0x10 8)
          match engRead s r false va 48 with
          | .wait p => waitReq s core r p
          | .busy s => s
          | .fail c a _ => failAccess s core r c a
          | .ok (bs, s) =>
            match mapBad bs, boxBeyond r bs with
            | some f, _ => failReq s core r 0x65 (some va.toNat) f
            | none, some f => failReq s core r 0x61 (some r.off) (f + 256 * r.kicked)
            | none, none => startReq s core { r with got := bs }
        else startReq s core r)

/-- A writing request may be accepted on a tile (R121). -/
def mayWrite (x : TileEntry) : Bool := tilePendR x = 0 && tileState x ≠ 3 && tilePendW x < 4095
/-- A reading request may be accepted on a tile (R121). -/
def mayRead (x : TileEntry) : Bool := tileState x = 2 && tilePendR x < 4095

/-- The team and entry that a delivery acts on: of the kicking grid, on the core, with the tag; the lowest place (R278). -/
def mcTarget (s : State) (core : Nat) (d : Delivery) : Option (Nat × Nat) :=
  let ts := s.teams.filter fun t => t.2.core = core && t.2.ctx = d.ctx && t.2.grid = d.grid && t.2.status = .resident
  let hits := ts.filterMap fun t =>
    ((teamTiles s core t.2.place).find? fun e => tileTag e.2 = d.tag).map fun e => (t.2.place, t.1, e.1)
  match hits with
  | [] => none
  | x :: xs => let b := xs.foldl (fun a y => if y.1 < a.1 then y else a) x; some b.2

/-- An earlier request or delivery for a tile of a team waits: those after it on that tile wait behind it (R121, R278). -/
def tileBehind (s : State) (core t e id : Nat) : Bool :=
  let c := coreAt s core
  (c.reqs.any fun x => x.team = t && x.id < id && x.state < 2 && reqNames x e)
    || c.delivs.any fun d => d.id < id && mcTarget s core d = some (t, e)

/-- An earlier request on one of the tiles of a request waits (R121). -/
def behind (s : State) (core : Nat) (r : Req) : Bool :=
  (reqDtile r && tileBehind s core r.team (reqField r 8 1) r.id) || (reqStile r && tileBehind s core r.team (reqField r 9 1) r.id)

/-- TILE_REQUEST_ACCEPT: a started request is accepted on its tiles (R121, R277, Table 6-7). -/
def execTileRequestAccept (core req : Nat) (s : State) : Host.Outcome State Fault Refusal :=
  .next (match reqAt s core req with
  | none => s
  | some r =>
    let d := reqField r 8 1
    let e := reqField r 9 1
    if r.state ≠ 1 || behind s core r then s
    else if (reqDtile r && (!mayWrite (tileAt s core d) || mxNames s core r.team d))
        || (reqStile r && (!mayRead (tileAt s core e) || mxNames s core r.team e)) then s
    else
      let s := if reqStile r then
          let x := tileAt s core e
          putTile s core e (setState (setPendR x (tilePendR x + 1)) (if reqEvict r then 3 else 2))
        else s
      let s := if reqDtile r then
          let x := tileAt s core d
          putTile s core d (setState (setPendW x (tilePendW x + 1)) 1)
        else s
      putReq s core { r with state := 2, since := s.time })

/-! ### Multicast -/

/-- The tag of a multicast record (R120, R278). -/
def reqTag (r : Req) : Nat :=
  (List.range 4).foldl (fun n d => n + reqField r (0x32 + 2 * d) 2 * 2 ^ (16 * d)) 0 + reqField r 0x30 2 * 2 ^ 64

/-- The source of a multicast read on (R278). -/
def mcLoop : Nat → State → Nat → Req → State × Option Req
  | 0, s, core, r => (putReq s core r, some r)
  | fuel + 1, s, core, r =>
    if pieces r ≤ r.next then (putReq s core r, some r)
    else
      let o := pieceBytes * r.next
      let va := sideBase s core r false + w64 (reqField r 0x10 8 + o)
      match engRead s r (reqSides r).1 va (Nat.min pieceBytes (reqField r 0x18 4 - o)) with
      | .wait p => (waitReq s core r p, none)
      | .busy s => (putReq s core r, none)
      | .fail c a _ => (failAccess s core r c a, none)
      | .ok (bs, s) => mcLoop fuel s core { r with next := r.next + 1, got := r.got ++ bs, since := s.time }

/-- The deliveries of a multicast sent to their cores; one to a core outside the embedding returns (R21, R278). -/
def mcSend (s : State) (core : Nat) (r : Req) : State :=
  let t := teamAt s r.team
  let n := reqField r 0x1D 1
  let s := putReq s core { r with state := 3 }
  (r.cores.take n).foldl (fun s c =>
    if !embedded0 s c then
      let s := putReq s core { r with state := 3, failed := true }
      detect s r.warp
        { pc := r.pc, deferred := true, engine := routerEngine c 0
          lanes := (lanesOf r.run).map fun l => { lane := l, cause := 0x8F, syn := w64 r.kicked } }
    else
      let x := freshId s
      let k := coreAt x.2 c
      putCore x.2 c { k with delivs := k.delivs ++ [{
        id := x.1, req := r.id, ctx := t.ctx, grid := t.grid, tag := reqTag r, doff := reqField r 0x1E 2, data := r.got
        home := core, since := s.time }] }) s
where
  /-- A core that holds a position of the torus. -/
  embedded0 (s : State) (c : Nat) : Bool := (logOfCore s c).isSome && !(coreAt s c).failed

/-- Deliveries of a request are still under way. -/
def mcUnderWay (s : State) (r : Req) : Bool := s.cores.any fun c => c.2.delivs.any fun d => d.req = r.id

/-- A delivery leaves its core. -/
def dropDeliv (s : State) (core id : Nat) : State :=
  let c := coreAt s core
  putCore s core { c with delivs := c.delivs.filter fun d => d.id ≠ id }

/-- MULTICAST_DELIVERY: the data at a destination is written once a team of the grid holds the tag and its tile accepts the
write; its bytes are counted at the kicker (R278, R280, R403). -/
def execMulticastDelivery (core deliv : Nat) (s : State) : Host.Outcome State Fault Refusal :=
  .next (match (coreAt s core).delivs.find? fun d => d.id = deliv with
  | none => s
  | some d =>
    match mcTarget s core d with
    | none => s
    | some (t, e) =>
      let x := tileAt s core e
      if !mayWrite x || mxNames s core t e || tileBehind s core t e d.id then s
      else
        match reqAt s d.home d.req with
        | none => dropDeliv s core deliv
        | some r =>
          if tileSize x < d.doff + d.data.length then
            let s := putReq (dropDeliv s core deliv) d.home { r with failed := true }
            detect s r.warp
              { pc := r.pc, deferred := true, engine := coreEngine 2 core
                lanes := (lanesOf r.run).map fun l => { lane := l, cause := 0x61, addr := some r.off
                                                        syn := w64 (0x1E + 256 * r.kicked) } }
          else
            let tm := teamAt s t
            let s := putTeam s t { tm with tile := memWrite tm.tile (tileOff x + d.doff) d.data }
            let s := putTile s core e (if tilePendW x = 0 then setState x 2 else x)
            let s := dropDeliv s core deliv
            if reqRel r then s
            else
              match countReq s d.home r d.data.length with
              | none => failCount s d.home r
              | some s => s)

/-- The steps of an accepted multicast: the source is read, the deliveries are sent, and it ends with the last of them. -/
def mcStep (s : State) (core : Nat) (r : Req) : State :=
  if r.state = 2 then
    match mcLoop reqBurst s core r with
    | (s, some r) => if pieces r ≤ r.next then mcSend s core r else s
    | (s, none) => s
  else if mcUnderWay s r then s
  else if r.failed then dropReq (leaveTiles s r false) core r.id
  else finishReq s core r

/-- RQ_REQUEST_COMPLETE: an accepted request moves its bytes, performs its release, counts and sets its flag (R280). -/
def execRqRequestComplete (core req : Nat) (s : State) : Host.Outcome State Fault Refusal :=
  .next (match reqAt s core req with
  | none => s
  | some r =>
    if r.state < 2 || reqKind r = 7 then s
    else if let some y := agentLost s r.id then failAccess s core r y.cause (w64 y.va)
    else if reqKind r = 6 then mcStep s core r
    else if r.next < pieces r then reqLoop reqBurst s core r
    else finishReq s core r)

/-! ### Chunk moves -/

/-- The header of a chunk move and its data area: the bytes 0x00 to 0x0F, read with acquire (R279). -/
def moveHeader (s : State) (r : Req) : Ag (List Byte × State) := engRead s r false (w64 (reqField r 0x10 8)) 16

/-- NEWDATA and NEWTIER agree with the address space (MOVE_INVALID); none while the page is missing. -/
def moveOk (s : State) (r : Req) : Ag Bool :=
  let nd := reqField r 0x18 8
  match agPa s (teamAt s r.team).ctx .write (w64 nd) with
  | .ok (pa, _) => .ok (nd % 65536 = 0 && tierCode pa = reqField r 0x20 1)
  | .wait p => .wait p
  | .busy s => .busy s
  | .fail c a y => .fail c a y

/-- The 64 KiB of a chunk copied to the new area (R279). -/
def moveLoop : Nat → State → Nat → Req → Nat → State
  | 0, s, core, r, _ => putReq s core r
  | fuel + 1, s, core, r, src =>
    if pieces r ≤ r.next then putReq s core r
    else
      let o := pieceBytes * r.next
      match doPiece s r (.copy false (w64 (src + o)) false (w64 (reqField r 0x18 8 + o)) pieceBytes) with
      | .wait q => waitReq s core r q
      | .busy s => putReq s core r
      | .fail c a _ => failAccess s core r c a
      | .ok s => moveLoop fuel s core { r with next := r.next + 1, since := s.time } src

/-- The lines of a moved chunk's new area are immutable where those of the old area are (R133, R134). -/
def fixMoved (s : State) (ctx old new : Nat) : State :=
  match agPa s ctx .read (w64 old), agPa s ctx .read (w64 new) with
  | .ok x, .ok y =>
    if leafDev x.2 ≠ s.devnum || leafDev y.2 ≠ s.devnum then s
    else setImmutable s (((List.range 512).filter fun j => s.immuts.contains (lineOf x.1 + j)).map fun j => lineOf y.1 + j)
  | _, _ => s

/-- CHUNK_MOVE: the header is read, the area copied, and the new header written in one release at .device scope, keeping
REFS (R279). -/
def execChunkMove (core req : Nat) (s : State) : Host.Outcome State Fault Refusal :=
  .next (match reqAt s core req with
  | none => s
  | some r =>
    if r.state < 2 || reqKind r ≠ 7 then s
    else if let some y := agentLost s r.id then failAccess s core r y.cause (w64 y.va)
    else
      if r.next = 0 && anyCollapsing s then s
      else
      match moveOk s r with
      | .wait p => waitReq s core r p
      | .busy s => s
      | .fail c a _ => failAccess s core r c a
      | .ok false => failReq s core r 0x68 (some (reqField r 0x18 8)) 0
      | .ok true =>
        match moveHeader s r with
        | .wait p => waitReq s core r p
        | .busy s => s
        | .fail c a _ => failAccess s core r c a
        | .ok (h, s) =>
          if r.next < pieces r then moveLoop reqBurst s core r (leVal (h.take 8))
          else if agentBusy s r.id || anyCollapsing s then s
          else
            let new := bytesOf 8 (reqField r 0x18 8) ++ (h.drop 8).take 4 ++ bytesOf 1 (reqField r 0x20 1)
              ++ bytesOf 1 ((h.getD 0x0D 0#8).toNat ||| 1) ++ (h.drop 0x0E).take 2
            match engWrite s r false (w64 (reqField r 0x10 8)) new with
            | .wait p => waitReq s core r p
            | .busy s => s
            | .fail c a _ => failAccess s core r c a
            | .ok s =>
              let s := fixMoved s (teamAt s r.team).ctx (leVal (h.take 8)) (reqField r 0x18 8)
              match (if reqRel r then some s else countReq s core r 65536) with
              | none => failCount s core r
              | some s => if (reqAt s core r.id).isNone then s else finishReq s core r)

/-- MC_WAITING: a delivery that has waited 10 ms for its tag is reported once (R278). -/
def execMcWaiting (core deliv : Nat) (s : State) : Host.Outcome State Fault Refusal :=
  .next (match (coreAt s core).delivs.find? fun d => d.id = deliv with
  | none => s
  | some d =>
    if d.told || s.time < d.since + 10000000 then s
    else
      let c := coreAt s core
      let s := putCore s core { c with delivs := c.delivs.map fun x => if x.id = deliv then { x with told := true } else x }
      report s { cause := 0x67, sev := 1, engine := coreEngine 2 core, ctx := d.ctx, grid := d.grid, syn := w64 (d.tag / 2 ^ 64) })

end Sys2Proof.Machine
end

