-- ==== Sys2Proof/Machine/Regions.lean ====
section
/-!
DEFINITION. Rendezvous instructions (BAR, R240) and TRY regions: opening and nesting (R243), COMMIT (R247), ABORT (R248),
TSTAT (R249) and TBUF.READ (R250).
-/
namespace Sys2Proof.Machine
open Sys2Proof

/-! ### BAR -/

/-- The stage-2 cause of a point at or beyond BARS (R45, Table 20-7). -/
def barCauses (s : State) (k : BitVec 5) : List (Nat × Word) :=
  if (myTeam s).bars.length ≤ k.toNat then [(0x40, w64 k.toNat)] else []

/-- The issuing warp is lower than the one whose instruction fixed a phase's count in this aclk: its own instruction fixes the count
(R240). -/
def fixesFirst (s : State) (b : BarPoint) : Bool :=
  match b.fixer with
  | some x => x.1 = now s && (me s).wid < x.2
  | none => false

/-- A BAR.cnt that is unlike the count which a lower warp fixed in the same aclk is illegal: the runs of its warp leave the point and stand
at it, struck (R240). -/
def strikeCount (s : State) (t wid k n old : Nat) : State :=
  let i := warpKey t wid
  let w := warpAt s i
  let hits := w.pcs.filter fun e => (e.park.map (parkedAt k)).getD false
  hits.foldl (fun s e =>
    let pc := match e.park with | some (.bar _ pc) => pc | _ => e.pc
    detect (putWarp s i (goto e.mask pc (warpAt s i))) i
      { pc := pc, engine := coreEngine 0 (teamAt s t).core
        lanes := (lanesOf e.mask).map fun l => { lane := l, cause := 0x41, syn := w64 (n % 256 + 256 * old) } }) s

/-- The first BAR of a phase fixes its expected count; of several in one aclk, that of the lowest warp (R240). -/
def fixCount (s : State) (k n : Nat) (dflt : Bool) : State :=
  let t := myTeam s
  let b := barPoint t k
  let fix := fun s => setMyTeam s (setPoint (myTeam s) k { b with count := some (n, dflt), fixer := some (now s, (me s).wid) })
  match b.count with
  | none => fix s
  | some (old, std) =>
    if !fixesFirst s b then s
    else if std || old = n then fix s
    else strikeCount (fix s) (me s).team ((b.fixer.map (·.2)).getD 0) k old n

/-- Every earlier access of the run has taken effect, so that an arrival, a release at .team, may be counted (R46, R145). -/
def readyToArrive (s : State) : Bool := accsDone s s.cur.warp s.cur.mask fun _ => true

/-- The run parks at a point of its team (R240). -/
def arriveAt (s : State) (k n : Nat) (dflt : Bool) : State :=
  let s := fixCount (undoClear s) k n dflt
  let s := parkRun s 1 s.cur.mask (.bar k (curPc s))
  checkPoint s (me s).team k

/-- BAR (R240). -/
def execBar (k : BitVec 5) (s : State) : Host.Outcome State Fault Refusal :=
  .next (checked s ⟨true, true⟩ (barCauses s k) fun s =>
    if readyToArrive s then arriveAt s k.toNat (myTeam s).nwarps true else notEligible s)

/-- BAR.arv: the run's lanes are marked at the point and the run goes on (R240). -/
def execBarArv (k : BitVec 5) (s : State) : Host.Outcome State Fault Refusal :=
  .next (checked s ⟨true, true⟩ (barCauses s k) fun s =>
    if !readyToArrive s then notEligible s
    else
      let s := fixCount (undoClear s) k.toNat (myTeam s).nwarps true
      let t := myTeam s
      let b := barPoint t k.toNat
      let wid := (me s).wid
      let m := aget 0#64 b.marked wid ||| s.cur.mask
      let s := setMyTeam s (setPoint t k.toNat { b with marked := aput b.marked wid m })
      checkPoint (advance s 1 s.cur.mask) (me s).team k.toNat)

/-- The count fixed for a phase against the issuing warp, 0 when none is. -/
def fixedCount (s : State) (k : Nat) : Nat :=
  let b := barPoint (myTeam s) k
  match b.count with
  | some c => if fixesFirst s b then 0 else c.1
  | none => 0

/-- BAR.cnt: as BAR, with the count of register B in the lowest lane of the run (R240). -/
def execBarCnt (k : BitVec 5) (b : BitVec 7) (s : State) : Host.Outcome State Fault Refusal :=
  .next (checked s ⟨true, true⟩ (barCauses s k ++ regCauses s [vsrc b 1]) fun s =>
    let n := ((srcRow (me s) b false).getD (lowBit s.cur.mask) 0#64).toNat % 2 ^ 32
    let old := fixedCount s k.toNat
    if n = 0 || 16 < n || (old ≠ 0 && old ≠ n) then stopRun s 0x41 (w64 (n % 256 + 256 * old)) none
    else if readyToArrive s then arriveAt s k.toNat n false else notEligible s)

/-! ### TRY -/

/-- The instance that a TRY opens for the issuing run (R243). -/
def openTx (s : State) (global tt ww : Bool) (target : Word) : Tx :=
  let w := settleAll (me s)
  { global := global, tt := tt, ww := ww, target := target, depth := (lanesOf s.cur.mask).map fun l => (l, 1)
    ckV := w.v, ckP := w.p, ckG := w.g, ckQ := w.q, ckQl := w.ql, opened := s.nextId, inst := s.cur.mask }

/-- Lanes in no region meet a TRY while the warp has an open instance: they go to its target with code 8 (R243). -/
def refuseLanes (m target : Word) (w : Warp) : Warp :=
  if m = 0#64 then w
  else emptyLatches (goto m target (setTstat w m fun _ => tstatVal 8 0 0))

/-- Lanes of the instance meet an inner TRY: one deeper, or aborted with code 8 (R243). -/
def nestLanes (s : State) (t : Tx) (m : Word) (global : Bool) : State :=
  if m = 0#64 then s
  else if t.global ≠ global || t.depth.any (fun d => bit m d.1 && 7 ≤ d.2) then txAbort s s.cur.warp m 8 0
  else
    let t := { t with depth := t.depth.map fun d => if bit m d.1 then (d.1, d.2 + 1) else d }
    advance (setMe s { me s with tx := some t }) 1 m

/-- TRY.L and TRY.G (R243). -/
def runTry (s : State) (global tt ww : Bool) (off : BitVec 17) : State :=
  checked s ⟨false, true⟩ [] fun s =>
    let s := undoClear s
    let target := pktTarget s.cur.pkt off
    match (me s).tx with
    | none => advance (setMe s { me s with tx := some (openTx s global tt ww target) }) 1 s.cur.mask
    | some t =>
      let mine := s.cur.mask &&& txLanes (me s)
      let s := setMe s (refuseLanes (s.cur.mask &&& ~~~mine) target (me s))
      nestLanes s t mine global

/-- TRY.L (R243). -/
def execTryL (ww : Bool) (off : BitVec 17) (s : State) : Host.Outcome State Fault Refusal :=
  .next (runTry s false false ww off)
/-- TRY.G (R243). -/
def execTryG (tt ww : Bool) (off : BitVec 17) (s : State) : Host.Outcome State Fault Refusal :=
  .next (runTry s true tt ww off)

/-! ### COMMIT -/

/-- The stage-2 cause of a COMMIT outside a region, or with scope 0 (R247, Table 20-7); a handler run is outside every
region (R356). The reserved scope code 7 has met RES_VALUE at decode (R383). -/
def commitCauses (s : State) (scope : BitVec 3) : List (Nat × Word) :=
  if s.cur.inHandler || s.cur.mask &&& ~~~txLanes (me s) ≠ 0#64 || scope = 0#3 then [(0x43, 0#64)] else []

/-- COMMIT: an inner one lowers the depth; at the ending one the run parks until every lane of the instance has reached it
(R243, R247). -/
def runCommit (s : State) (global : Bool) (scope : BitVec 3) : State :=
  checked s ⟨false, true⟩ (commitCauses s scope) fun s =>
    let s := undoClear s
    match (me s).tx with
    | none => s
    | some t =>
      let m := s.cur.mask
      let last := maskOf fun l => bit m l && aget 0 t.depth l = 1
      let t := { t with
        depth := t.depth.map fun d => if bit m d.1 && 1 < d.2 then (d.1, d.2 - 1) else d
        reached := t.reached ||| last
        scope := if last = 0#64 then t.scope else scope.toNat, byG := if last = 0#64 then t.byG else global
        leaseAt := if last = 0#64 then t.leaseAt else some (now s), endPc := if last = 0#64 then t.endPc else curPc s }
      let s := advance (setMe s { me s with tx := some t }) 1 (m &&& ~~~last)
      parkRun s 1 last (.commit global scope.toNat)

/-- COMMIT.L (R247). -/
def execCommitL (scope : BitVec 3) (s : State) : Host.Outcome State Fault Refusal := .next (runCommit s false scope)
/-- COMMIT.G (R247). -/
def execCommitG (scope : BitVec 3) (s : State) : Host.Outcome State Fault Refusal := .next (runCommit s true scope)

/-! ### ABORT, TSTAT, TBUF.READ -/

/-- ABORT (R248): the lanes of the run that are in the instance; in a handler, the lanes of F that hold it (R354). -/
def execAbort (imm : BitVec 8) (s : State) : Host.Outcome State Fault Refusal :=
  .next (checked s {} [] fun s =>
    let s := undoClear s
    let m := txLanes (me s) &&& (match (me s).handler with
      | some h => h.f
      | none => s.cur.mask)
    if s.cur.inHandler then
      advance (if m = 0#64 then s else txAbort s s.cur.warp m 1 imm.toNat) 1 s.cur.mask
    else if m = 0#64 then advance s 1 s.cur.mask
    else
      let before := txLanes (me s)
      let s' := advance s 1 (s.cur.mask &&& ~~~before)
      txAbort s' s.cur.warp m 1 imm.toNat)

/-- TSTAT (R249). -/
def execTstat (d : BitVec 7) (s : State) : Host.Outcome State Fault Refusal :=
  .next (checked s {} (regCauses s [vdst d 1]) fun s =>
    let s := undoClear s
    let w := me s
    let row := lanes.map fun l => aget 0#32 w.tstat l
    advance (setMe s (setVrow w d.toNat s.cur.mask row)) 1 s.cur.mask)

/-- The four registers that TBUF.READ returns for a selector (Table 11-4a). -/
def tbufQuad (stores : List TxStore) (sel : Nat) : List W32 :=
  match stores.find? fun e => e.slot = sel % 256 with
  | none => List.replicate 4 0#32
  | some e =>
    if sel / 256 % 2 = 0 then
      [w32 e.addr, w32 (e.addr / 2 ^ 32 % 2 ^ 25), w32 (2 ^ 31 + b2n e.ts * 2 ^ 22 + e.lane * 2 ^ 16 + e.mask),
       w32 ((stores.filter fun x => x.order < e.order).length)]
    else (List.range 4).map fun j => w32 (leVal ((e.data.drop (4 * j)).take 4))

/-- TBUF.READ (R250). -/
def execTbufRead (d a : BitVec 7) (s : State) : Host.Outcome State Fault Refusal :=
  .next (checked s {} (regCauses s [vdst d 4, vsrc a 1]) fun s =>
    let s := undoClear s
    let w := me s
    let stores := match w.tx with
      | some t => t.stores
      | none => []
    let sel := srcRow w a false
    let quads := lanes.map fun l => tbufQuad stores (sel.getD l 0#64).toNat
    let w := (List.range 4).foldl (fun w j =>
      setVrow w (d.toNat + j) s.cur.mask (quads.map fun q => q.getD j 0#32)) w
    advance (setMe s w) 1 s.cur.mask)

end Sys2Proof.Machine
end

