-- ==== Sys2Proof/Machine/Launch.lean ====
section
/-!
DEFINITION. Launch records and their checks (R51 to R54, R57), residency shares (R60), grid entries (R56, R64), and LAUNCH
(R201).
-/
namespace Sys2Proof.Machine
open Sys2Proof

/-! ### Residency share -/

/-- A core of the embedding, in service (R15, R16, R360). -/
def embedded (s : State) (core : Nat) : Bool :=
  core < Config.reticles * Config.coresPerReticle && (logOfCore s core).isSome && !(coreAt s core).failed

/-- A reticle holds an embedded core. -/
def reticleUsed (s : State) (r : Nat) : Bool := (List.range Config.coresPerReticle).any fun k => embedded s (120 * r + k)

/-- The share mask of a context; one that names no reticle with an embedded core reads as 0 (R60). -/
def shareMask (s : State) (c : Ctx) : Word :=
  if (List.range Config.reticles).any fun r => bit c.share r && reticleUsed s r then c.share else 0#64

/-- A core of the context's residency share (R60). -/
def inShare (s : State) (c : Ctx) (core : Nat) : Bool :=
  embedded s core && (let m := shareMask s c; m = 0#64 || bit m (reticleOf core))

/-! ### Record checks -/

/-- Threads of a team (R28). -/
def recThreads (r : List Byte) : Nat := recShape r 0 * recShape r 1 * recShape r 2
/-- Warps of a team (R28). -/
def recWarps (r : List Byte) : Nat := cdiv (recThreads r) Config.width
/-- Teams of a grid (R27). -/
def recTeams (r : List Byte) : Nat := recExtent r 0 * recExtent r 1 * recExtent r 2
/-- REGB. -/
def recRegb (r : List Byte) : Nat := recField r 0x05 1
/-- BARS. -/
def recBars (r : List Byte) : Nat := recField r 0x06 1
/-- TILEB. -/
def recTileb (r : List Byte) : Nat := recField r 0x18 4
/-- SCOPE. -/
def recScope (r : List Byte) : Nat := recField r 0x04 1
/-- COR. -/
def recCor (r : List Byte) : Bool := recField r 0x01 1 % 2 = 1
/-- AFTER. -/
def recAfter (r : List Byte) : Bool := recField r 0x01 1 / 2 % 2 = 1

/-- Teams of a record that one empty core holds (R59). -/
def coreCapacity (r : List Byte) : Nat :=
  let w := recWarps r
  let lim := fun (have_ need : Nat) => if need = 0 then 8 else have_ / need
  [8, lim 16 w, lim Config.generalBlocks (w * recRegb r), lim Config.barriers (recBars r),
    lim Config.tileStoreBytes (recTileb r)].foldl Nat.min 8

/-- A co-resident grid fits its context's share (R57). -/
def corFits (s : State) (c : Ctx) (r : List Byte) : Bool :=
  let cap := coreCapacity r
  let n := recTeams r
  if n ≤ cap then (List.range (Config.reticles * Config.coresPerReticle)).any fun k => inShare s c k
  else cap ≠ 0 && n ≤ cap * ((List.range (Config.reticles * Config.coresPerReticle)).filter fun k => inShare s c k).length

/-- A format slot is valid (R54). -/
def slotOk (x : Word) : Bool :=
  let ef := slotEfCode x
  let blk := (fld x 8 4).toNat
  let scf := (fld x 12 4).toNat
  let zpm := (fld x 18 2).toNat
  let ts := (fld x 32 32)
  let fin := (fld ts 23 8).toNat ≠ 255
  decide (ef < 12) && decide (blk < 6) && decide (scf < 4) && decide (zpm < 3) && decide ((fld x 21 3).toNat < 6)
    && fld x 4 4 = 0#4 && bit x 16 = false
    && ((blk = 0 : Bool) == (scf = 0 : Bool)) && (zpm = 0 || ef = 10 || ef = 11) && (zpm ≠ 1 || blk ≠ 0)
    && (if bit x 17 then fin && (ts &&& 0x7FFFFFFF#32) ≠ 0#32 else ts = 0#32)
where
  /-- EF of a slot as a number. -/
  slotEfCode (x : Word) : Nat := (fld x 0 4).toNat

/-- The first offset of a record that fails Table 3-2. -/
def recordBad (s : State) (c : Ctx) (r : List Byte) : Option Nat :=
  let f := recField r
  let w := recWarps r
  let cor := recCor r && recThreads r ≠ 0 && !corFits s c r
  if f 0x00 1 ≠ 1 then some 0x00
  else if 4 ≤ f 0x01 1 || cor then some 0x01
  else if f 0x02 2 ≠ 256 then some 0x02
  else if f 0x04 1 < 4 || 6 < f 0x04 1 then some 0x04
  else if recRegb r = 0 || 15 < recRegb r || Config.generalBlocks < w * recRegb r then some 0x05
  else if 24 < recBars r then some 0x06
  else if f 0x07 1 ≠ 0 then some 0x07
  else if recShape r 0 = 0 then some 0x10
  else if 1024 < recThreads r then some 0x10
  else if recShape r 1 = 0 then some 0x12
  else if recShape r 2 = 0 then some 0x14
  else if recTileb r % 1024 ≠ 0 || Config.tileStoreBytes < recTileb r then some 0x18
  else if f 0x1C 4 ≠ 0 then some 0x1C
  else if f 0x20 8 % 16 ≠ 0 then some 0x20
  else if f 0x30 8 % 8 ≠ 0 then some 0x30
  else if f 0x40 8 % 8 ≠ 0 then some 0x40
  else if f 0x50 8 % 8 ≠ 0 then some 0x50
  else
    match (List.range 32).find? fun j => f (0x60 + j) 1 ≠ 0 with
    | some j => some (0x60 + j)
    | none => ((List.range 8).find? fun k => !slotOk (w64 (f (0x80 + 8 * k) 8))).map fun k => 0x80 + 8 * k

/-! ### Grid entries -/

/-- Grid entries of a context (R56). -/
def gridEntries : Nat := 1024

/-- The lowest free grid entry of a context (R56). -/
def freeEntry (c : Ctx) : Option Nat := (List.range gridEntries).find? fun e => (gridOf c e).isNone

/-- A grid created from a record (R27, R56, R64, R66). -/
def newGrid (entry serial src depth prio : Nat) (parent : Option Nat) (r : List Byte) : Grid :=
  { entry := entry, serial := serial, record := r, src := src, parent := parent, depth := depth, prio := prio
    deps := [recField r 0x40 8 = 0, recField r 0x50 8 = 0] }

/-- Bytes that the machine cannot know: those that another device would return (log 14). -/
def freeBytes : Nat → State → List Byte × State
  | 0, s => ([], s)
  | n + 1, s =>
    let f := freeValue s
    let r := freeBytes n f.2
    (bytesOf 8 f.1.toNat ++ r.1, r.2)

/-- The launch record at an address as LAUNCH reads it: its bytes, page by page (R51, R201). -/
def launchBytes (s : State) (pas : List (Nat × Nat)) (va : Word) : List Byte :=
  (List.range 256).map fun j =>
    let a := va + w64 j
    memByte s.mem ((aget 0 pas (pageOf a)) + a.toNat % 65536)

/-- LAUNCH writes its status and completes (R201, Table 9-3). -/
def launchDone (s : State) (d : BitVec 6) (q : QPred) (status : Nat) : State :=
  advance (setMe s (setG (me s) d.toNat (w64 status))) (extWidth q) s.cur.mask

/-- The child grid of a valid record, when an entry is free (R201); it follows what its launching team has outstanding (R66, Table
7-5). -/
def launchGrid (s : State) (d : BitVec 6) (q : QPred) (r : List Byte) : State :=
  let t := myTeam s
  let c := myCtx s
  let g := gridOf c t.grid
  match recordBad s c r, freeEntry c with
  | some _, _ => launchDone s d q 1
  | none, none => launchDone s d q 2
  | none, some e =>
    let x := freshId s
    let depth := match g with | some g => g.depth + 1 | none => 1
    let prio := match g with | some g => g.prio | none => 0
    let child := { newGrid e x.1 32 depth prio (some t.grid) r with
      after := ((s.accs.filter fun a => a.2.warp / 16 = (me s).team).map (·.1)) }
    let c := match g with
      | some g => setGrid c { g with children := g.children + 1 }
      | none => c
    launchDone (putCtx x.2 t.ctx { c with grids := c.grids ++ [child] }) d q 0

/-- LAUNCH (R201, R32). -/
def execLaunch (d a : BitVec 6) (q : QPred) (s : State) : Host.Outcome State Fault Refusal :=
  .next (checkedU s ⟨true, true⟩ [] fun s =>
    let w := me s
    let k := s.cur.warp
    let va := greg w a.toNat
    let depth := match gridOf (myCtx s) (myTeam s).grid with | some g => g.depth | none => 1
    let vas := [va, va + 255#64]
    let rs := vas.map fun v => translate s k .read v
    if !qpredHolds w q then advance (undoClear s) (extWidth q) s.cur.mask
    else if w.wid ≠ 0 || bit s.cur.mask 0 = false || 10 ≤ depth then stopRun s 0x0B (w64 depth) none
    else if va.toNat % 64 ≠ 0 then launchDone (undoClear s) d q 1
    else if storesPending s k s.cur.mask then notEligible s
    else if rs.any fun r => match r with | .miss => true | _ => false then
      notEligible (askWalks s k ((vas.zip rs).flatMap fun r => match r.2 with
        | .miss => [{ page := pageOf r.1, va := r.1, lane := lowBit s.cur.mask, pc := curPc s }]
        | _ => []))
    else
      match lowest (rs.flatMap fun r => match r with | .bad c y => [(c, y)] | _ => []) with
      | some c => stopRun s c.1 c.2 (some va.toNat)
      | none =>
        if rs.any fun r => match r with | .absent _ => true | _ => false then notEligible s
        else
          let s := undoClear s
          let pas := (vas.zip rs).flatMap fun r => match r.2 with
            | .ok _ e => [(pageOf r.1, (fld e 16 35).toNat * 65536)]
            | _ => []
          let remote := rs.any fun r => match r with | .ok _ e => leafDev e ≠ s.devnum | _ => false
          let bad := (List.range 3).findSome? fun j =>
            let v := if j = 0 then va else (va &&& ~~~127#64) + w64 (128 * j)
            let pa := aget 0 pas (pageOf v) + v.toNat % 65536
            if v.toNat < va.toNat + 256 then (poisonCause s pa false).map fun c => (c, v, pa) else none
          if remote then
            let r := freeBytes 32 s
            launchGrid r.2 d q r.1
          else
            match bad with
            | some (c, v, pa) =>
              let y := tierSyn s pa c
              detect (advance y.2 (extWidth q) s.cur.mask) k
                { pc := curPc s, deferred := true, engine := coreEngine 0 s.cur.core
                  lanes := (lanesOf s.cur.mask).map fun l => { lane := l, cause := c, addr := some v.toNat, syn := y.1 } }
            | none => launchGrid s d q (launchBytes s pas va))

end Sys2Proof.Machine
end

