-- ==== Sys2Proof/WellFormed.lean ====
section
/-!
DEFINITION. WellFormed: the fields of an instruction hold values that its layout accepts (R161 to R178, R383). The
steps of other agents have no encoding and are well-formed as they stand.
-/
namespace Sys2Proof
open Sys2Proof.Machine

/-- RM holds what the form takes: 0, a mode 0 to 5 or a slot index (Table 8-4). -/
def rmOk (u : RmUse) (rm : BitVec 3) : Bool :=
  match u with
  | .zero => rm.toNat = 0
  | .mode => rm.toNat < 6
  | .slot => true

/-- The pattern fields agree with R167 and the form allows the pattern. -/
def patOk (r : LaRule) (onB : Bool) (pat : Pat) (pv : BitVec 5) : Bool :=
  match pat with
  | .none => !onB && pv.toNat = 0
  | .rot => r.pat && (!onB || r.useB)
  | .rev => r.pat && (!onB || r.useB) && pv.toNat = 0
  | .xor8 => r.pat && (!onB || r.useB) && pv.toNat < 8
  | .bc => r.pat && (!onB || r.useB)

/-- The extension of a layout-LA instruction holds accepted values (Tables 8-3, 8-4, 10-1). -/
def laExtOk (r : LaRule) (b : BitVec 7) : Option LaExt → Bool
  | none => !r.need && (r.useB || b.toNat = 0)
  | some (.op _ nowb c onB pat pv rm sat) =>
      r.k0 && (r.useB || b.toNat = 0) && (r.nowb || !nowb) && (r.useC || c.toNat = 0) && patOk r onB pat pv
        && rmOk r.rm rm && (r.sat || !sat)
  | some (.imm _ nowb imm) => r.k1 && b.toNat = 0 && (r.nowb || !nowb) && imm.toNat < 2 ^ r.immTop
  | some (.conv _ nowb _ _ rm sat) => r.k2 && (r.useB || b.toNat = 0) && (r.nowb || !nowb) && rmOk r.rm rm && (r.sat || !sat)

/-- The fields of a layout-LA instruction hold accepted values. -/
def laOk (r : LaRule) (o : LaOp) : Bool :=
  (!r.dpred || o.d.toNat < 64) && (r.useA || o.a.toNat = 0) && laExtOk r o.b o.ext

/-- The fields of a layout-LM instruction hold accepted values (Tables 8-6, 8-7, 11-1). -/
def lmOk (ty : Option Nat) (r : LmRule) (o : LmOp) : Bool :=
  (if o.ts then r.sp1 else r.sp0) && r.ords.contains o.ord && flagOk r.flag o.flag && scopeOk r.scope o.ts o.scope
    && (r.useD || o.d.toNat = 0)
    && (match r.a with
        | .index => o.ix || o.a.toNat = 0
        | .reg => !o.ix
        | .zero => !o.ix && o.a.toNat = 0)
    && (r.useB || o.b.toNat = 0) && (!r.bPred || o.b.toNat < 64) && (r.off || o.offh.toNat = 0)
    && (!o.ts || o.hint = .none)
    && (match ty with
        | none => true
        | some t => (o.offh.toNat / 8) = t)

/-- The extension of a layout-UA instruction holds accepted values (R185, R187, R188). -/
def uaExtOk (r : UaRule) (b : BitVec 6) (x : Option UaExt) : Bool :=
  match r.ext, x with
  | .opt, none => true
  | .opt, some e => if e.i then b.toNat = 0 && e.imm.toNat < 2 ^ r.immTop else e.imm.toNat = 0
  | .pred, none => true
  | .pred, some e => !e.i && e.imm.toNat = 0
  | .imm, none => false
  | .imm, some e => e.i && e.imm.toNat < 2 ^ r.immTop
  | .sel, none => false
  | .sel, some e => !e.i && e.imm.toNat < 16

/-- The fields of a layout-UA instruction hold accepted values. -/
def uaOk (r : UaRule) (o : UaOp) : Bool :=
  (!r.dq || o.d.toNat < 16) && (r.useA || o.a.toNat = 0) && (r.useB || o.b.toNat = 0) && uaExtOk r o.b o.ext

/-- The fields of a layout-UM instruction hold accepted values (R191, R255). -/
def umOk (r : UmRule) (x : UmExt) : Bool :=
  r.ords.contains x.ord && flagOk r.flag x.flag && scopeOk r.scope false x.scope && (r.off || x.off.toNat = 0)

/-- The instruction has an encoding that the tables of chapter 8 accept. -/
def wellFormed (i : Instr) : Bool :=
  match form i with
  | .la _ _ r o => laOk r o
  | .lm _ _ ty r o => lmOk ty r o
  | .ua _ _ _ r o => uaOk r o
  | .um _ _ _ _ _ ok r x => ok && umOk r x
  | .uq _ _ ok _ => ok
  | .words _ _ ok => ok
  | .event => true

/-- The instruction is well-formed. -/
abbrev WellFormed (i : Instr) : Prop := wellFormed i = true

end Sys2Proof
end

