-- ==== Sys2Proof/Decode.lean ====
section
/-!
DEFINITION. The decoder: the word of a slot, with the word of the next slot, to an instruction or to the cause and
syndrome of stage 2 that its encoding meets (R156 to R178, R382, R383), total on any words; after it the encoder,
written from the same tables.
-/
namespace Sys2Proof
open Sys2Proof.Machine

/-- A cause code with its SYNDROME (Table 20-3). -/
structure DecFault where
  cause : Nat
  syn   : Word
  deriving DecidableEq, Repr

/-- One check of an encoding: whether it is broken, and what it then gives. -/
abbrev Chk := Bool × DecFault

/-- The lowest-numbered cause among the broken checks, the first listed where causes are equal (R363). -/
def worst : List Chk → Option DecFault
  | [] => none
  | (bad, f) :: rest =>
    match worst rest with
    | none => if bad then some f else none
    | some g => if bad && f.cause ≤ g.cause then some f else some g

/-- RES_VALUE: a field of word w whose lowest bit is `lo` holds a reserved code (R383). -/
def resValue (bad : Bool) (w : W32) (lo : Nat) : Chk := (bad, ⟨0x02, zx64 w ||| w64 (lo * 2 ^ 32)⟩)

/-- NONZERO_FIELD: bits lo to lo + n - 1 of w must be 0; the syndrome names the lowest non-zero bit (Table 20-3). -/
def mustZero (w : W32) (lo n : Nat) : Chk :=
  let v := w.toNat / 2 ^ lo % 2 ^ n
  (v ≠ 0, ⟨0x03, zx64 w ||| w64 ((lo + lowBitFrom v n 0) * 2 ^ 32)⟩)

/-- NONZERO_FIELD asked for only when `on` holds. -/
def mustZeroIf (on : Bool) (w : W32) (lo n : Nat) : Chk := (on && (mustZero w lo n).1, (mustZero w lo n).2)

/-- EXT_FORM for the instruction word w (R383). -/
def extForm (bad : Bool) (w : W32) : Chk := (bad, ⟨0x04, zx64 w⟩)

/-- RES_OPCODE for the instruction word w (R382). -/
def resOpcode (w : W32) : DecFault := ⟨0x01, zx64 w⟩

/-- PK codes 0 to 4 (Table 8-4). -/
def patOf (c : Nat) : Option Pat :=
  match c with | 0 => some .none | 1 => some .rot | 2 => some .rev | 3 => some .xor8 | 4 => some .bc | _ => none
/-- EF codes 0 to 11 (Table 3-3). -/
def efOf (c : Nat) : Option EFmt :=
  match c with
  | 0 => some .fp32 | 1 => some .fp16 | 2 => some .bf16 | 3 => some .e4m3 | 4 => some .e5m2 | 5 => some .e2m3
  | 6 => some .e3m2 | 7 => some .e2m1 | 8 => some .i8 | 9 => some .n8 | 10 => some .ob8 | 11 => some .ob4 | _ => none
/-- DT and ST codes 0 to 14 (Table 8-5). -/
def cvtOf (c : Nat) : Option CvtType :=
  match c with
  | 12 => some .i32 | 13 => some .n32 | 14 => some .e8m0 | _ => (efOf c).map .ef
/-- RND codes 0 to 5 (Table 3-3). -/
def rndOf (c : Nat) : Option Rnd :=
  match c with
  | 0 => some .nearestEven | 1 => some .towardZero | 2 => some .towardNeg | 3 => some .towardPos
  | 4 => some .nearestAway | 5 => some .stochastic | _ => none
/-- Integer types (Table 8-9). -/
def ityOf (c : Nat) : Option IType :=
  match c with
  | 0 => some .i32 | 1 => some .n32 | 2 => some .i64 | 3 => some .n64 | 4 => some .i16x2 | 5 => some .n16x2 | _ => none
/-- Floating types (Table 8-9). -/
def ftyOf (c : Nat) : Option FType :=
  match c with | 0 => some .fp32 | 1 => some .fp16x2 | 2 => some .bf16x2 | _ => none
/-- Uniform types (Table 8-10). -/
def utyOf (c : Nat) : Option UType :=
  match c with | 0 => some .n64 | 1 => some .i64 | 2 => some .n32 | 3 => some .i32 | _ => none
/-- VCMP conditions (Table 8-9). -/
def vcondOf (c : Nat) : VCond :=
  match c with | 0 => .eq | 1 => .ne | 2 => .lt | 3 => .le | 4 => .gt | 5 => .ge | 6 => .lo | _ => .hs
/-- FCMP conditions (Table 8-9). -/
def fcondOf (c : Nat) : FCond :=
  match c with | 0 => .eq | 1 => .ne | 2 => .lt | 3 => .le | 4 => .gt | 5 => .ge | 6 => .num | _ => .nan
/-- UCMP conditions (Table 8-12). -/
def ucondOf (c : Nat) : Option UCond :=
  match c with | 0 => some .eq | 1 => some .ne | 2 => some .lt | 3 => some .le | 4 => some .gt | 5 => some .ge | _ => none
/-- Element widths (Table 8-9). -/
def ewidOf (c : Nat) : Option EWidth :=
  match c with | 0 => some .w4 | 1 => some .w8 | 2 => some .w6 | 3 => some .w16 | _ => none
/-- XRD functions (Table 8-9). -/
def xrdOf (c : Nat) : Option XrdKind :=
  match c with | 0 => some .idx | 1 => some .up | 2 => some .dn | 3 => some .xor | _ => none
/-- XRED functions (Table 8-9). -/
def xredOf (c : Nat) : XredOp :=
  match c with
  | 0 => .addI32 | 1 => .addFp32 | 2 => .minI32 | 3 => .maxI32 | 4 => .minFp32 | 5 => .maxFp32 | 6 => .and | _ => .or
/-- LD sizes (Table 8-7). -/
def ldszOf (c : Nat) : Option LdSize :=
  match c with
  | 0 => some .n8 | 1 => some .n16 | 2 => some .n32 | 3 => some .n64 | 4 => some .n128 | 5 => some .i8 | 6 => some .i16
  | _ => none
/-- ST, LDS and UST sizes (Tables 8-7, 8-12). -/
def stszOf (c : Nat) : Option StSize :=
  match c with | 0 => some .n8 | 1 => some .n16 | 2 => some .n32 | 3 => some .n64 | 4 => some .n128 | _ => none
/-- ULD sizes (Table 8-12). -/
def uszOf (c : Nat) : USize :=
  match c with
  | 0 => .n8 | 1 => .n16 | 2 => .n32 | 3 => .n64 | 4 => .n128 | 5 => .i8 | 6 => .i16 | _ => .i32
/-- ATOM operations (Table 11-2). -/
def atomOf (c : Nat) : AtomOp :=
  match c with | 0 => .add | 1 => .min | 2 => .max | 3 => .and | 4 => .or | 5 => .xor | 6 => .exch | _ => .cas
/-- RED operations (Table 11-2). -/
def redOf (c : Nat) : Option RedOp :=
  match c with
  | 0 => some .add | 1 => some .min | 2 => some .max | 3 => some .and | 4 => some .or | 5 => some .xor | _ => none
/-- ATY codes (R169). -/
def atyOf (c : Nat) : Option Aty :=
  match c with
  | 0 => some .i32 | 1 => some .n32 | 2 => some .i64 | 3 => some .n64 | 4 => some .fp32 | 5 => some .n128 | _ => none
/-- WAITW conditions (Table 8-7). -/
def wcondOf (c : Nat) : Option WaitCond :=
  match c with | 0 => some .eq | 1 => some .ne | 2 => some .ge | 3 => some .lt | _ => none
/-- ORD codes (Table 7-2). -/
def ordOf (c : Nat) : Ord := match c with | 0 => .plain | 1 => .acquire | 2 => .release | _ => .acqRel
/-- HINT codes (R168). -/
def hintOf (c : Nat) : Hint := match c with | 0 => .none | 1 => .pin | 2 => .stream | _ => .rep

/-- The governing predicate of a lane extension word (Table 8-3). -/
def govOf (e : W32) : Gov := ⟨bit e 31, fld e 25 6⟩

/-- The governing predicate of a uniform extension word (Table 8-10a). -/
def qgovOf (e : W32) : Option QGov := if bit e 31 then some ⟨bit e 30, fld e 26 4⟩ else none

/-- RM is 0, a mode 0 to 5 or any slot index, as the form takes it. -/
def rmChk (u : RmUse) (e : W32) (lo : Nat) : List Chk :=
  match u with
  | .zero => [mustZero e lo 3]
  | .mode => [resValue (decide (6 ≤ (fld e lo 3).toNat)) e lo]
  | .slot => []

/-- The checks of an EXK 0 word (Table 8-4, R167). -/
def opExtChk (r : LaRule) (e : W32) : List Chk :=
  let pk := (fld e 11 3).toNat
  [mustZeroIf (!r.nowb) e 24 1, mustZeroIf (!r.useC) e 15 7, resValue (decide (5 ≤ pk)) e 11,
   mustZeroIf (!r.pat && decide (pk < 5)) e 11 3,
   mustZeroIf (pk = 0 || pk = 2 || !r.pat) e 6 5, resValue (r.pat && pk = 3 && decide (8 ≤ (fld e 6 5).toNat)) e 6,
   mustZeroIf (pk = 0 || !r.useB || !r.pat) e 14 1, mustZeroIf (!r.sat) e 2 1, mustZero e 0 2] ++ rmChk r.rm e 3

/-- The checks of an EXK 1 word (R166, R219). -/
def immExtChk (r : LaRule) (e : W32) : List Chk :=
  [mustZeroIf (!r.nowb) e 24 1, mustZero e r.immTop (22 - r.immTop)]

/-- The checks of an EXK 2 word (R217). -/
def convExtChk (r : LaRule) (e : W32) : List Chk :=
  [mustZeroIf (!r.nowb) e 24 1, resValue ((fld e 18 4).toNat = 15) e 18, resValue ((fld e 14 4).toNat = 15) e 14,
   mustZeroIf (!r.sat) e 10 1, mustZero e 0 10] ++ rmChk r.rm e 11

/-- The checks of a layout-LA extension word, once it is present. -/
def laExtChk (r : LaRule) (w e : W32) : List Chk :=
  match (fld e 22 2).toNat with
  | 0 => if r.k0 then opExtChk r e else [extForm true w]
  | 1 => if r.k1 then immExtChk r e else [extForm true w]
  | 2 => if r.k2 then convExtChk r e else [extForm true w]
  | _ => [resValue true e 22]

/-- The fields of a layout-LA extension word. -/
def laExtOf (e : W32) : LaExt :=
  match (fld e 22 2).toNat with
  | 0 => .op (govOf e) (bit e 24) (fld e 15 7) (bit e 14) ((patOf (fld e 11 3).toNat).getD .none) (fld e 6 5) (fld e 3 3)
      (bit e 2)
  | 1 => .imm (govOf e) (bit e 24) (fld e 0 22)
  | _ => .conv (govOf e) (bit e 24) ((cvtOf (fld e 18 4).toNat).getD .i32) ((cvtOf (fld e 14 4).toNat).getD .i32)
      (fld e 11 3) (bit e 10)

/-- The extension word of w: `none` when X = 0, `some none` when X = 1 finds no next slot (R159). -/
def extOf (w : W32) (nxt : Option W32) : Option (Option W32) := if bit w 30 then some nxt else none

/-- B is the immediate's place in the EXK 1 form and must then be 0 (Table 8-4). -/
def isImmForm (x : Option (Option W32)) : Bool :=
  match x with
  | some (some e) => (fld e 22 2).toNat = 1
  | _ => false

/-- Layout LA (R162 to R167). -/
def decLa (r : LaRule) (mk : LaOp → Instr) (w : W32) (nxt : Option W32) : Except DecFault Instr :=
  let x := extOf w nxt
  let base := [mustZeroIf r.dpred w 23 1, mustZeroIf (!r.useA) w 10 7, mustZeroIf (!r.useB || (r.k1 && isImmForm x)) w 3 7]
  let ext := match x with
    | none => [extForm r.need w]
    | some none => [extForm true w]
    | some (some e) => laExtChk r w e
  match worst (base ++ ext) with
  | some f => .error f
  | none => .ok (mk ⟨fld w 17 7, fld w 10 7, fld w 3 7,
      match x with
      | some (some e) => some (laExtOf e)
      | _ => none⟩)

/-- The checks of a layout-LM extension word e with base word w (Tables 8-6, 8-7, 11-1). -/
def lmChk (r : LmRule) (w e : W32) : List Chk :=
  let ts := bit e 24
  let ix := bit e 17
  [resValue (if ts then !r.sp1 else !r.sp0) e 24,
   resValue (!r.ords.contains (ordOf (fld e 10 2).toNat)) e 10,
   resValue (!flagOk r.flag (fld e 6 4)) e 6,
   (if r.scope = .zero then mustZero e 12 3 else resValue (!scopeOk r.scope ts (fld e 12 3)) e 12),
   resValue (ts && (fld e 15 2).toNat ≠ 0) e 15,
   mustZeroIf (r.a ≠ .index) e 17 1,
   mustZeroIf (!r.off) e 0 6,
   resValue (r.aty && decide (6 ≤ (fld e 3 3).toNat)) e 3,
   mustZeroIf (!r.useD) w 17 7,
   mustZeroIf (r.a = .zero || (r.a = .index && !ix)) w 10 7,
   mustZeroIf (!r.useB) w 3 7, mustZeroIf r.bPred w 9 1]

/-- The fields of a layout-LM instruction. -/
def lmOf (w e : W32) : LmOp :=
  ⟨fld w 17 7, fld w 10 7, fld w 3 7, govOf e, bit e 24, fld e 18 6, bit e 17, hintOf (fld e 15 2).toNat, fld e 12 3,
   ordOf (fld e 10 2).toNat, fld e 6 4, fld e 0 6⟩

/-- Layout LM, whose extension word is required (R168). -/
def decLm (r : LmRule) (mk : Aty → LmOp → Instr) (w : W32) (nxt : Option W32) : Except DecFault Instr :=
  match extOf w nxt with
  | some (some e) =>
    match worst (lmChk r w e) with
    | some f => .error f
    | none => .ok (mk ((atyOf (fld e 3 3).toNat).getD .i32) (lmOf w e))
  | _ => .error ⟨0x04, zx64 w⟩

/-- QEN = 0 requires QNEG = QN = 0 (Table 8-10a). -/
def qChk (e : W32) : Chk := mustZeroIf (!bit e 31) e 26 5

/-- The checks of a layout-UA extension word (R185, R187, R188). -/
def uaExtChk (r : UaRule) (w e : W32) : List Chk :=
  let i := bit e 25
  qChk e :: (match r.ext with
    | .opt => [mustZeroIf i w 6 6, mustZeroIf (!i) e 0 25]
    | .pred => [mustZero e 0 26]
    | .imm => [extForm (!i) w, mustZeroIf i e r.immTop (25 - r.immTop)]
    | .sel => [mustZero e 4 22])

/-- Layout UA (R173 to R175, R185); `ty` tells whether the TY field is used. -/
def decUa (ty : Bool) (r : UaRule) (mk : UType → UaOp → Instr) (w : W32) (nxt : Option W32) : Except DecFault Instr :=
  let x := extOf w nxt
  let base := [resValue (bit w 2) w 0, mustZeroIf (!ty) w 0 3, mustZeroIf r.dq w 22 2,
    mustZeroIf (!r.useA) w 12 6, mustZeroIf (!r.useB) w 6 6]
  let ext := match x with
    | none => [extForm (r.ext = .imm || r.ext = .sel) w]
    | some none => [extForm true w]
    | some (some e) => uaExtChk r w e
  match worst (base ++ ext) with
  | some f => .error f
  | none => .ok (mk ((utyOf (fld w 0 3).toNat).getD .n64) ⟨fld w 18 6, fld w 12 6, fld w 6 6,
      match x with
      | some (some e) => some ⟨qgovOf e, bit e 25, fld e 0 25⟩
      | _ => none⟩)

/-- Layout UM, whose extension word is required (R191, R255). -/
def decUm (r : UmRule) (base : List Chk) (mk : UmExt → Instr) (w : W32) (nxt : Option W32) : Except DecFault Instr :=
  match extOf w nxt with
  | some (some e) =>
    let chk := [qChk e, resValue (!scopeOk r.scope false (fld e 23 3)) e 23, resValue (bit w 2) w 0, mustZero w 0 3,
      (if r.flag = .zero then mustZero e 21 2 else resValue (!r.ords.contains (ordOf (fld e 21 2).toNat)) e 21),
      (if r.flag = .zero then mustZero e 17 4 else resValue (!flagOk r.flag (fld e 17 4)) e 17),
      mustZeroIf (!r.off) e 0 17]
    match worst (base ++ chk) with
    | some f => .error f
    | none => .ok (mk ⟨qgovOf e, fld e 23 3, ordOf (fld e 21 2).toNat, fld e 17 4, fld e 0 17⟩)
  | _ => .error ((worst (base ++ [resValue (bit w 2) w 0, mustZero w 0 3, extForm true w])).getD ⟨0x04, zx64 w⟩)

/-- A uniform form whose extension word may give only a predicate (R185). -/
def decUq (base : List Chk) (mk : QPred → Instr) (w : W32) (nxt : Option W32) : Except DecFault Instr :=
  let x := extOf w nxt
  let ext := match x with
    | none => []
    | some none => [extForm true w]
    | some (some e) => [qChk e, mustZero e 0 26]
  match worst (base ++ ext) with
  | some f => .error f
  | none => .ok (mk (match x with
      | some (some e) => some (qgovOf e)
      | _ => none))

/-- A form that must not carry an extension word (R171). -/
def decOne (base : List Chk) (i : Instr) (w : W32) : Except DecFault Instr :=
  match worst (extForm (bit w 30) w :: base) with
  | some f => .error f
  | none => .ok i

/-- A form that must carry an extension word, checked by `chk` (R170, R175). -/
def decTwo (base : List Chk) (chk : W32 → List Chk) (mk : W32 → Instr) (w : W32) (nxt : Option W32) :
    Except DecFault Instr :=
  match extOf w nxt with
  | some (some e) =>
    match worst (base ++ chk e) with
    | some f => .error f
    | none => .ok (mk e)
  | _ => .error ((worst (base ++ [extForm true w])).getD ⟨0x04, zx64 w⟩)

/-- VSRD and VGET: an optional EXK 0 word in which only PNEG, PN and NOWB may be non-zero (R171). -/
def decPred (base : List Chk) (mk : Option PredExt → Instr) (w : W32) (nxt : Option W32) : Except DecFault Instr :=
  let x := extOf w nxt
  let ext := match x with
    | none => []
    | some none => [extForm true w]
    | some (some e) =>
      match (fld e 22 2).toNat with
      | 0 => [resValue (decide (5 ≤ (fld e 11 3).toNat)) e 11, mustZero e 0 22]
      | 3 => [resValue true e 22]
      | _ => [extForm true w]
  match worst (base ++ ext) with
  | some f => .error f
  | none => .ok (mk (match x with
      | some (some e) => some ⟨govOf e, bit e 24⟩
      | _ => none))

/-- A reserved type or size code in FN (R382). -/
def badType (w : W32) : Except DecFault Instr := .error ⟨0x02, zx64 w⟩

/-- A reserved opcode or function (R382). -/
def badOp (w : W32) : Except DecFault Instr := .error (resOpcode w)

/-- Lane opcodes 0x01 to 0x12 (Tables 8-8, 8-9). -/
def decInt (op : Nat) (ty : IType) (w : W32) (nxt : Option W32) : Except DecFault Instr :=
  match op with
  | 1 => decLa { k0 := true, k1 := true, pat := true, sat := true } (.vadd ty) w nxt
  | 2 => decLa { k0 := true, k1 := true, pat := true, sat := true } (.vsub ty) w nxt
  | 3 => decLa { k0 := true, k1 := true, pat := true, sat := true } (.vmul ty) w nxt
  | 4 => decLa { k0 := true, k1 := true, pat := true } (.vmulh ty) w nxt
  | 5 => decLa { need := true, k0 := true, useC := true, pat := true, sat := true } (.vmad ty) w nxt
  | 6 => decLa { k0 := true, k1 := true, pat := true } (.vmin ty) w nxt
  | 7 => decLa { k0 := true, k1 := true, pat := true } (.vmax ty) w nxt
  | 8 => decLa { k0 := true, useB := false, pat := true, sat := true } (.vabs ty) w nxt
  | 9 => decLa { k0 := true, k1 := true, pat := true } (.vand ty) w nxt
  | 10 => decLa { k0 := true, k1 := true, pat := true } (.vor ty) w nxt
  | 11 => decLa { k0 := true, k1 := true, pat := true } (.vxor ty) w nxt
  | 12 => decLa { k0 := true, useB := false, pat := true } (.vnot ty) w nxt
  | 13 => decLa { k0 := true, k1 := true, pat := true } (.vshl ty) w nxt
  | 14 => decLa { k0 := true, k1 := true, pat := true } (.vshr ty) w nxt
  | 15 => decLa { k0 := true, k1 := true, pat := true } (.vbfx ty) w nxt
  | 16 => decLa { k0 := true, k1 := true, pat := true } (.vbfi ty) w nxt
  | 17 => decLa { k0 := true, useB := false, pat := true } (.vclz ty) w nxt
  | 18 => decLa { k0 := true, useB := false, pat := true } (.vpopc ty) w nxt
  | _ => badOp w

/-- Lane opcodes 0x18 to 0x1F. -/
def decFloat (op : Nat) (ty : FType) (w : W32) (nxt : Option W32) : Except DecFault Instr :=
  match op with
  | 24 => decLa { k0 := true, k1 := true, pat := true, sat := true, rm := .mode, immTop := fimm ty } (.fadd ty) w nxt
  | 25 => decLa { k0 := true, k1 := true, pat := true, sat := true, rm := .mode, immTop := fimm ty } (.fsub ty) w nxt
  | 26 => decLa { k0 := true, k1 := true, pat := true, sat := true, rm := .mode, immTop := fimm ty } (.fmul ty) w nxt
  | 27 => decLa { need := true, k0 := true, useC := true, pat := true, sat := true, rm := .mode } (.ffma ty) w nxt
  | 28 => decLa { k0 := true, k1 := true, pat := true, immTop := fimm ty } (.fmin ty) w nxt
  | 29 => decLa { k0 := true, k1 := true, pat := true, immTop := fimm ty } (.fmax ty) w nxt
  | 30 => decLa { k0 := true, useB := false, pat := true } (.fneg ty) w nxt
  | 31 => decLa { k0 := true, useB := false, pat := true } (.fabs ty) w nxt
  | _ => badOp w

/-- Lane opcodes 0x13 to 0x17 and 0x20 to 0x29 with one function per FN. -/
def decLaneFn (op fn : Nat) (w : W32) (nxt : Option W32) : Except DecFault Instr :=
  match op with
  | 19 =>
    match fn with
    | 0 => decLa { k0 := true, useB := false, pat := true } .vmov w nxt
    | 1 => decLa { need := true, k1 := true, useA := false, useB := false } .vmovImm w nxt
    | 2 => decLa { need := true, k1 := true, useA := false, useB := false, immTop := 10 } .vmovh w nxt
    | _ => badOp w
  | 20 =>
    match fn with
    | 0 => decLa { need := true, k0 := true, useC := true, pat := true } .vsel w nxt
    | _ => badOp w
  | 23 =>
    match fn with
    | 0 => decLa { k0 := true, nowb := false, dpred := true } .pand w nxt
    | 1 => decLa { k0 := true, nowb := false, dpred := true } .por w nxt
    | 2 => decLa { k0 := true, nowb := false, dpred := true } .pxor w nxt
    | 3 => decLa { k0 := true, useB := false, nowb := false, dpred := true } .pmov w nxt
    | _ => badOp w
  | 32 =>
    match fn with
    | 0 => decLa { k0 := true, useB := false, pat := true } .vrcp w nxt
    | 1 => decLa { k0 := true, useB := false, pat := true } .vrsq w nxt
    | 2 => decLa { k0 := true, useB := false, pat := true } .vsqrt w nxt
    | 3 => decLa { k0 := true, useB := false, pat := true } .vexp2 w nxt
    | 4 => decLa { k0 := true, useB := false, pat := true } .vlog2 w nxt
    | 5 => decLa { k0 := true, useB := false, pat := true } .vsin w nxt
    | 6 => decLa { k0 := true, useB := false, pat := true } .vcos w nxt
    | 7 => decLa { k0 := true, useB := false, pat := true } .vtanh w nxt
    | _ => badOp w
  | 33 =>
    match fn with
    | 0 => decLa { need := true, k0 := true, useC := true, pat := true, nowb := false } .smxStep w nxt
    | _ => badOp w
  | 34 =>
    match fn with
    | 0 => decLa { need := true, k2 := true, sat := true, rm := .mode } .cvt w nxt
    | _ => badOp w
  | 35 =>
    match fn with
    | 0 => decLa { need := true, k0 := true, useC := true, pat := true, rm := .slot } .qntDiv w nxt
    | 1 => decLa { need := true, k0 := true, useC := true, pat := true, rm := .slot } .qntMul w nxt
    | _ => badOp w
  | 41 =>
    match fn with
    | 0 => decLa { k0 := true, useB := false, nowb := false, dpred := true } .voteAny w nxt
    | 1 => decLa { k0 := true, useB := false, nowb := false, dpred := true } .voteAll w nxt
    | 2 => decLa { k0 := true, useB := false } .voteBallot w nxt
    | _ => badOp w
  | 21 => decLa { k0 := true, k1 := true, pat := true, nowb := false, dpred := true } (.vcmp (vcondOf fn)) w nxt
  | 22 => decLa { k0 := true, pat := true, nowb := false, dpred := true } (.fcmp (fcondOf fn)) w nxt
  | 36 =>
    match ewidOf fn with
    | some wd => decLa { need := true, k1 := true, useB := false, immTop := 3 } (.pack wd) w nxt
    | none => badType w
  | 37 =>
    match ewidOf fn with
    | some wd => decLa { need := true, k1 := true, useB := false, immTop := 3 } (.unpk wd) w nxt
    | none => badType w
  | 38 => if fn < 2 then decLa { need := true, k0 := true, useC := true, pat := true, rm := .slot } (.dot (fn = 1)) w nxt else badOp w
  | 39 =>
    match xrdOf fn with
    | some k => decLa { k0 := true, k1 := true } (.xrd k) w nxt
    | none => badOp w
  | 40 => decLa { k0 := true, useB := false } (.xred (xredOf fn)) w nxt
  | _ => badOp w

/-- Lane opcodes 0x30 to 0x39, 0x3B and 0x3E: layout LM (Table 8-7). -/
def decMem (op fn : Nat) (w : W32) (nxt : Option W32) : Except DecFault Instr :=
  match op with
  | 48 =>
    match ldszOf fn with
    | some sz => decLm { ords := [.plain, .acquire] } (fun _ => .ld sz) w nxt
    | none => badType w
  | 49 =>
    match stszOf fn with
    | some sz => decLm { ords := [.plain, .release], flag := .opt } (fun _ => .st sz) w nxt
    | none => badType w
  | 50 => decLm { sp1 := false, ords := [.plain, .acquire], bPred := true } (fun _ => .ldg (BitVec.ofNat 3 fn)) w nxt
  | 51 => decLm { sp1 := false, ords := [.plain, .release], flag := .opt, bPred := true } (fun _ => .stg (BitVec.ofNat 3 fn)) w nxt
  | 52 =>
    match stszOf fn with
    | some sz => decLm { sp1 := false, ords := [.plain, .acquire], a := .reg, scope := .from4, off := false } (fun _ => .lds sz) w nxt
    | none => badType w
  | 53 => decLm { ords := [.plain, .acquire, .release, .acqRel], aty := true } (.atom (atomOf fn)) w nxt
  | 54 =>
    match redOf fn with
    | some f => decLm { ords := [.plain, .release], flag := .opt, useD := false, aty := true } (.red f) w nxt
    | none => badOp w
  | 55 => if fn = 0 then decLm { sp1 := false, ords := [.plain, .acquire, .release, .acqRel], aty := true } .waitadd w nxt else badOp w
  | 56 =>
    match wcondOf fn with
    | some c => decLm { sp1 := false, ords := [.plain], flag := .none15, useD := false, aty := true } (.waitw c) w nxt
    | none => badOp w
  | 57 =>
    match fn with
    | 0 => decLm { sp1 := false, ords := [.plain], flag := .opt, useD := false } (fun _ => .cctlUnpin) w nxt
    | 1 => decLm { sp1 := false, ords := [.plain], flag := .opt, useD := false } (fun _ => .cctlPin) w nxt
    | 2 => decLm { sp1 := false, ords := [.plain], flag := .opt, useD := false } (fun _ => .cctlEvict) w nxt
    | 3 => decLm { sp1 := false, ords := [.plain], flag := .opt, useD := false } (fun _ => .cctlPrefetch) w nxt
    | _ => badOp w
  | 59 =>
    match fn with
    | 0 => decLm { sp0 := false, ords := [.plain], flag := .opt, useD := false, a := .zero } (fun _ => .mbarInit) w nxt
    | 1 => decLm { sp0 := false, ords := [.plain], flag := .opt, useD := false, a := .zero } (fun _ => .mbarExp) w nxt
    | 2 => decLm { sp0 := false, ords := [.plain], flag := .none15, useD := false, a := .zero } (fun _ => .mbarWait) w nxt
    | 3 => decLm { sp0 := false, ords := [.plain], flag := .opt, useD := false, a := .zero } (fun _ => .mbarArv) w nxt
    | _ => badOp w
  | 62 =>
    match fn with
    | 0 => decLm { sp1 := false, ords := [.plain], a := .zero, scope := .zero, off := false } (fun _ => .seqRes) w nxt
    | 1 => decLm { sp1 := false, ords := [.release], useD := false, a := .reg, scope := .from3, off := false } (fun _ => .seqCmt) w nxt
    | _ => badOp w
  | _ => badOp w

/-- Lane opcodes 0x2A to 0x2D, 0x3A, 0x3C, 0x3D: the special layouts (Table 8-8b). -/
def decSpecial (op fn : Nat) (w : W32) (nxt : Option W32) : Except DecFault Instr :=
  match op with
  | 0x2A => if fn = 0 then decPred [mustZero w 3 6] (.vsrd (fld w 17 7) (fld w 9 8)) w nxt else badOp w
  | 0x2B =>
    if fn < 2 then decPred [mustZero w 3 7, mustZero w 16 1] (.vget (fld w 17 7) (fld w 10 6) (fn = 1)) w nxt
    else badOp w
  | 0x2C => decOne [mustZero w 0 6] (.rep (fld w 18 6) (fld w 15 3) (fld w 12 3) (fld w 9 3) (fld w 6 3)) w
  | 0x2D => decOne [] (.br (bit w 23) (fld w 17 6) (fld w 0 17)) w
  | 0x3A =>
    match fn with
    | 0 => decOne [mustZero w 22 2, mustZero w 10 7, mustZero w 3 7] (.bar (fld w 17 5)) w
    | 1 => decOne [mustZero w 22 2, mustZero w 10 7, mustZero w 3 7] (.barArv (fld w 17 5)) w
    | 2 => decOne [mustZero w 22 2, mustZero w 10 7] (.barCnt (fld w 17 5) (fld w 3 7)) w
    | _ => badOp w
  | 0x3C =>
    let chk := [mustZero w 20 4, mustZero w 3 14, resValue ((fld w 17 3).toNat = 7) w 17]
    match fn with
    | 0 => decOne chk (.fenceAcq (fld w 17 3)) w
    | 1 => decOne chk (.fenceRel (fld w 17 3)) w
    | 2 => decOne chk (.fenceAr (fld w 17 3)) w
    | 3 => decOne chk (.fenceFull (fld w 17 3)) w
    | _ => badOp w
  | 0x3D =>
    match fn with
    | 0 => decOne [mustZero w 23 1, mustZero w 20 2] (.tryL (bit w 22) (fld w 3 17)) w
    | 1 => decOne [mustZero w 20 2] (.tryG (bit w 23) (bit w 22) (fld w 3 17)) w
    | 2 => decOne [mustZero w 20 4, mustZero w 3 14, resValue ((fld w 17 3).toNat = 7) w 17] (.commitL (fld w 17 3)) w
    | 3 => decOne [mustZero w 20 4, mustZero w 3 14, resValue ((fld w 17 3).toNat = 7) w 17] (.commitG (fld w 17 3)) w
    | 4 => decOne [mustZero w 3 13] (.abort (fld w 16 8)) w
    | 5 => decOne [mustZero w 10 7, mustZero w 3 7] (.tstat (fld w 17 7)) w
    | 6 => decOne [mustZero w 3 7] (.tbufRead (fld w 17 7) (fld w 10 7)) w
    | _ => badOp w
  | _ => badOp w

/-- FLAG of an MX extension word: 0 to 11 or 15 (R267, R383). -/
def mxFlag (e : W32) (lo : Nat) : Chk := resValue (!flagOk .opt (fld e lo 4)) e lo

/-- Lane opcode 0x3F: the MX family (Table 8-8a). -/
def decMx (fn : Nat) (w : W32) (nxt : Option W32) : Except DecFault Instr :=
  match fn with
  | 0 => decTwo [mustZero w 17 7, mustZero w 3 7]
      (fun e => [mustZero e 0 5, resValue (decide (3 ≤ (fld e 5 3).toNat)) e 5, mxFlag e 10])
      (fun e => .mma ⟨fld w 10 7, fld e 26 6, fld e 23 3, fld e 20 3, fld e 18 2, bit e 17, fld e 14 3, fld e 10 4,
        fld e 8 2, fld e 5 3⟩) w nxt
  | 1 => decOne [mustZero w 19 5, mustZero w 10 7, mustZero w 3 7] (.aclr (fld w 17 2)) w
  | 2 => decTwo [mustZero w 20 4, mustZero w 3 7]
      (fun e => [mustZero e 0 9, resValue ((fld e 13 2).toNat = 3) e 13, mxFlag e 9])
      (fun e => .drain ⟨fld w 17 3, fld w 10 7, fld e 26 6, fld e 20 6, fld e 17 3, fld e 15 2, fld e 13 2, fld e 9 4⟩)
      w nxt
  | 3 => decTwo [mustZero w 17 7, mustZero w 10 7, mustZero w 3 7] (fun e => [mustZero e 0 16, mxFlag e 16])
      (fun e => .chain ⟨fld e 26 6, fld e 20 6, fld e 16 4⟩) w nxt
  | _ => badOp w

/-- The lane set (bit 31 = 0, R161, R176). -/
def decLane (w : W32) (nxt : Option W32) : Except DecFault Instr :=
  let op := (fld w 24 6).toNat
  let fn := (fld w 0 3).toNat
  if op = 0 then badOp w
  else if op ≤ 0x12 then
    match ityOf fn with
    | some ty => decInt op ty w nxt
    | none => badType w
  else if op ≤ 0x17 then decLaneFn op fn w nxt
  else if op ≤ 0x1F then
    match ftyOf fn with
    | some ty => decFloat op ty w nxt
    | none => badType w
  else if op ≤ 0x29 then decLaneFn op fn w nxt
  else if op ≤ 0x2D then decSpecial op fn w nxt
  else if op = 0x3F then decMx fn w nxt
  else if op = 0x3A || op = 0x3C || op = 0x3D then decSpecial op fn w nxt
  else decMem op fn w nxt

/-- Uniform opcodes 0x00 to 0x04: layout UA (Table 8-12). -/
def decUniAlu (op fn : Nat) (w : W32) (nxt : Option W32) : Except DecFault Instr :=
  match op, fn with
  | 0, 0 => decUa true {} (.uadd ·) w nxt
  | 0, 1 => decUa true {} (.usub ·) w nxt
  | 0, 2 => decUa true {} (.umul ·) w nxt
  | 0, 3 => decUa true {} (.umulh ·) w nxt
  | 0, 4 => decUa true {} (.udiv ·) w nxt
  | 0, 5 => decUa true {} (.urem ·) w nxt
  | 0, 6 => decUa true {} (.umin ·) w nxt
  | 0, 7 => decUa true {} (.umax ·) w nxt
  | 1, 0 => decUa true {} (.uand ·) w nxt
  | 1, 1 => decUa true {} (.uor ·) w nxt
  | 1, 2 => decUa true {} (.uxor ·) w nxt
  | 1, 3 => decUa true {} (.uandn ·) w nxt
  | 1, 4 => decUa true { ext := .pred, useB := false } (.unot ·) w nxt
  | 1, 5 => decUa true { ext := .pred, useB := false } (.uclz ·) w nxt
  | 1, 6 => decUa true { ext := .pred, useB := false } (.upopc ·) w nxt
  | 2, 0 => decUa true {} (.ushl ·) w nxt
  | 2, 1 => decUa true {} (.ushr ·) w nxt
  | 2, 2 => decUa true {} (.usar ·) w nxt
  | 2, 3 => decUa true {} (.urot ·) w nxt
  | 2, 4 => decUa true {} (.ubfx ·) w nxt
  | 2, 5 => decUa true {} (.ubfi ·) w nxt
  | 3, 0 => decUa false { ext := .pred, useB := false } (fun _ => .umov) w nxt
  | 3, 1 => decUa true { ext := .imm, useA := false, useB := false } (.umovi ·) w nxt
  | 3, 2 => decUa false { ext := .imm, useA := false, useB := false, immTop := 18 } (fun _ => .umovk) w nxt
  | 3, 3 => decUa false { ext := .sel } (fun _ => .usel) w nxt
  | 3, 4 => decUa false { ext := .imm, useA := false, useB := false } (fun _ => .uadr) w nxt
  | 4, c =>
    match ucondOf c with
    | some cond => decUa true { dq := true } (.ucmp cond) w nxt
    | none => badOp w
  | _, _ => badOp w

/-- SEQ forms: layout UM with only the predicate and SCOPE (R255). -/
def seqRule : UmRule := { ords := [.plain], flag := .zero, scope := .from4, off := false }

/-- QLOG (R175, R190). -/
def decQlog (fn : Nat) (w : W32) (nxt : Option W32) : Except DecFault Instr :=
  let d := fld w 18 6
  let a := fld w 12 6
  let b := fld w 6 6
  let z := [resValue (bit w 2) w 0, mustZero w 0 3, mustZero w 22 2]
  match fn with
  | 0 => decUq (mustZero w 17 1 :: mustZero w 11 1 :: z) (.qand d a b) w nxt
  | 1 => decUq (mustZero w 17 1 :: mustZero w 11 1 :: z) (.qor d a b) w nxt
  | 2 => decUq (mustZero w 17 1 :: mustZero w 11 1 :: z) (.qxor d a b) w nxt
  | 3 => decUq (mustZero w 17 1 :: mustZero w 6 6 :: z) (.qmov d a b) w nxt
  | 4 => decUq (mustZero w 6 6 :: z) (.qany d a b) w nxt
  | 5 => decUq (mustZero w 6 6 :: z) (.qall d a b) w nxt
  | 6 => decUq (mustZero w 13 5 :: mustZero w 6 6 :: z) (.qset d a b) w nxt
  | _ => badOp w

/-- TILE and SEQ (R273, R255). -/
def decTileSeq (op fn : Nat) (w : W32) (nxt : Option W32) : Except DecFault Instr :=
  let d := fld w 18 6
  let a := fld w 12 6
  let b := fld w 6 6
  match op, fn with
  | 28, 0 => decUq [resValue (bit w 2) w 0, mustZero w 0 3] (.tileAlloc d a b) w nxt
  | 28, 1 => decUq [resValue (bit w 2) w 0, mustZero w 0 3, mustZero w 6 6] (.tileFind d a) w nxt
  | 28, 2 => decUq [resValue (bit w 2) w 0, mustZero w 0 3, mustZero w 6 6] (.tileInv d a) w nxt
  | 28, 3 => decUq [resValue (bit w 2) w 0, mustZero w 0 3, mustZero w 6 6] (.tileRel d a) w nxt
  | 28, 4 => decUq [resValue (bit w 2) w 0, mustZero w 0 3, mustZero w 6 6] (.tileStat d a) w nxt
  | 30, 0 => decUm seqRule [mustZero w 6 6, mustZero w 21 3] (.seqBind d a) w nxt
  | 30, 1 => decUm seqRule [mustZero w 6 6] (.seqLen d a) w nxt
  | 30, 2 => decUm seqRule [] (.seqFork d a b) w nxt
  | 30, 3 => decUm seqRule [mustZero w 6 6] (.seqDrop d a) w nxt
  | _, _ => badOp w

/-- Uniform opcodes 0x08 to 0x1D outside TILE and SEQ: one instruction each (R175, Table 8-12). -/
def decUniOne (op fn : Nat) (w : W32) (nxt : Option W32) : Except DecFault Instr :=
  let d := fld w 18 6
  let a := fld w 12 6
  let b := fld w 6 6
  match op with
  | 8 => decUq [] (.bra (fld w 0 24)) w nxt
  | 9 => decUq [] (.call (fld w 0 24)) w nxt
  | 10 => if fn = 0 then decUq [mustZero w 18 6, mustZero w 6 6, resValue (bit w 2) w 0, mustZero w 0 3] (.ret a) w nxt else badOp w
  | 11 =>
    if fn = 0 then
      decTwo [mustZero w 18 6, mustZero w 6 6, resValue (bit w 2) w 0, mustZero w 0 3] (fun e => [qChk e])
        (fun e => .brx a ⟨qgovOf e, fld e 0 26⟩) w nxt
    else badOp w
  | 12 => decUq [] (.loop d (fld w 0 18)) w nxt
  | 13 => decOne [mustZero w 16 8] (.pad (fld w 0 16)) w
  | 14 => if fn = 0 then decUq [mustZero w 6 18, resValue (bit w 2) w 0, mustZero w 0 3] .exit w nxt else badOp w
  | 15 => if fn = 0 then decUq [mustZero w 6 18, resValue (bit w 2) w 0, mustZero w 0 3] .nop w nxt else badOp w
  | 16 => decUq [mustZero w 0 10] (.srd d (fld w 10 8)) w nxt
  | 17 => decUq [mustZero w 0 10] (.swr d (fld w 10 8)) w nxt
  | 18 => decUq [mustZero w 0 4] (.ugetl d (fld w 11 7) (fld w 4 7)) w nxt
  | 19 => decUq [mustZero w 0 20] (.ralloc (fld w 20 4)) w nxt
  | 20 => decUq [mustZero w 0 20] (.rfree (fld w 20 4)) w nxt
  | 21 => if fn = 0 then decUq [mustZero w 18 6, mustZero w 6 6, resValue (bit w 2) w 0, mustZero w 0 3] (.gang a) w nxt else badOp w
  | 22 => if fn = 0 then decUq [mustZero w 6 6, resValue (bit w 2) w 0, mustZero w 0 3] (.launch d a) w nxt else badOp w
  | 23 => if fn = 0 then decUq [mustZero w 6 18, resValue (bit w 2) w 0, mustZero w 0 3] .tsync w nxt else badOp w
  | 24 => if fn = 0 then decUq [mustZero w 6 18, resValue (bit w 2) w 0, mustZero w 0 3] .yield w nxt else badOp w
  | 25 => decUq [mustZero w 0 6] (.sleep (fld w 6 18)) w nxt
  | 26 => decUq [mustZero w 0 16] (.trap (fld w 16 8)) w nxt
  | 27 => if fn = 0 then decOne [mustZero w 6 18, resValue (bit w 2) w 0, mustZero w 0 3] .eret w else badOp w
  | 29 => if fn = 0 then decUq [mustZero w 18 6, resValue (bit w 2) w 0, mustZero w 0 3] (.rqKick a b) w nxt else badOp w
  | _ => badOp w

/-- The uniform set (bit 31 = 1, R161, R177). -/
def decUni (w : W32) (nxt : Option W32) : Except DecFault Instr :=
  let op := (fld w 24 6).toNat
  let fn := (fld w 3 3).toNat
  let d := fld w 18 6
  let a := fld w 12 6
  if op ≤ 4 then decUniAlu op fn w nxt
  else if op = 5 then decQlog fn w nxt
  else if op = 6 then decUm { ords := [.plain, .acquire], flag := .need } [mustZero w 6 6] (.uld (uszOf fn) d a) w nxt
  else if op = 7 then
    match stszOf fn with
    | some sz => decUm { ords := [.plain, .release], flag := .opt } [mustZero w 6 6] (.ust sz d a) w nxt
    | none => .error ⟨0x02, zx64 w ||| w64 (3 * 2 ^ 32)⟩
  else if op = 28 || op = 30 then decTileSeq op fn w nxt
  else decUniOne op fn w nxt

/-- The instruction whose first word is w, with the word of the next slot of the packet (none in slot 2); or the
lowest cause that stage 2 finds in the encoding, with its SYNDROME (R178, R363, R382, R383). -/
def decode (w : W32) (nxt : Option W32) : Except DecFault Instr :=
  if bit w 31 then decUni w nxt else decLane w nxt

/-- The layout-LA extension word (Tables 8-3, 8-4). -/
def laExtWord : LaExt → W32
  | .op g nowb c onB pat pv rm sat =>
    govBits g nowb ++ 0#2 ++ c ++ b1 onB ++ BitVec.ofNat 3 (patc pat) ++ pv ++ rm ++ b1 sat ++ 0#2
  | .imm g nowb imm => govBits g nowb ++ 1#2 ++ imm
  | .conv g nowb dt st rm sat =>
    govBits g nowb ++ 2#2 ++ BitVec.ofNat 4 (cvtc dt) ++ BitVec.ofNat 4 (cvtc st) ++ rm ++ b1 sat ++ 0#10

/-- The layout-LM extension word (Table 8-6). -/
def lmExtWord (o : LmOp) : W32 :=
  b1 o.gov.neg ++ o.gov.pn ++ b1 o.ts ++ o.base ++ b1 o.ix ++ BitVec.ofNat 2 (hintc o.hint) ++ o.scope
    ++ BitVec.ofNat 2 (ordc o.ord) ++ o.flag ++ o.offh

/-- The layout-UA extension word (Table 8-10a). -/
def uaExtWord (e : UaExt) : W32 := qgovBits e.gov ++ b1 e.i ++ e.imm

/-- The layout-UM extension word (Table 8-10a). -/
def umExtWord (x : UmExt) : W32 := qgovBits x.gov ++ x.scope ++ BitVec.ofNat 2 (ordc x.ord) ++ x.flag ++ x.off

/-- The words of an instruction: its base word, then its extension word where it has one; none for a step of another
agent (R156 to R175). -/
def encode (i : Instr) : List W32 :=
  match form i with
  | .la op fn _ o => laWord o.ext.isSome op o.d o.a o.b fn :: (o.ext.map laExtWord).toList
  | .lm op fn _ _ o => [laWord true op o.d o.a o.b fn, lmExtWord o]
  | .ua op fn ty _ o => uaWord o.ext.isSome op o.d o.a o.b fn ty :: (o.ext.map uaExtWord).toList
  | .um op fn d a b _ _ x => [uaWord true op d a b fn 0, umExtWord x]
  | .uq op body _ q => uniBody q.isSome op body :: (q.map fun g => qgovBits g ++ 0#26).toList
  | .words w e _ => w :: e.toList
  | .event => []

/-- The instruction that a list of words begins with: the first word, with the second as its extension word when X = 1;
none where stage 2 finds a cause. -/
def decodeWords : List W32 → Option Instr
  | [] => none
  | w :: rest => (decode w rest.head?).toOption

/-- The instruction of an opcode-table word of nbits bits numbered from the first word's bit 0: the low 32 bits are the
base word and the next 32 the extension word, absent bits 0 (R156, R159). -/
def decodeTableWord (nbits w : Nat) : Option Instr :=
  let v := w % 2 ^ nbits
  decodeWords [BitVec.ofNat 32 v, BitVec.ofNat 32 (v / 2 ^ 32)]

end Sys2Proof
end

