-- ==== Sys2Proof/Machine/LaneCross.lean ====
section
/-!
DEFINITION. Cross-lane instructions, special-register and g reads, the lane branch and REP (chapter 10, R221 to R227).
-/
namespace Sys2Proof.Machine
open Sys2Proof

/-- The source lane of XRD for lane l and k, when it is a lane of the warp (R221). -/
def xrdLane (kind : XrdKind) (l k : Nat) : Option Nat :=
  let src : Int := match kind with
    | .idx => (k : Int)
    | .up => (l : Int) - k
    | .dn => (l : Int) + k
    | .xor => ((l ^^^ k : Nat) : Int)
  if 0 ≤ src && src < 64 then some src.toNat else none

/-- XRD (R221). -/
def xrdOp (kind : XrdKind) (o : LaOp) : LaneOp :=
  { gov := laGov o, srcs := [vsrc o.a 1] ++ (if (laImm o).isSome then [] else [vsrc o.b 1])
    d := o.d, nowb := laNowb o, lat := 3
    val := fun w _ =>
      let a := srcA w o false
      let b := srcB w o false (.int 32)
      { rows := [lanes.map fun l =>
          match xrdLane kind l ((b.getD l 0#64).toNat % 2 ^ 32) with
          | some src => w32 (a.getD src 0#64).toNat
          | none => w32 (a.getD l 0#64).toNat] } }
/-- XRD (R221). -/
def execXrd (kind : XrdKind) (o : LaOp) (s : State) : Host.Outcome State Fault Refusal :=
  .next (runLane s (laWidth o) (xrdOp kind o))

/-- The identity of a reduction (R222). -/
def xredIdent : XredOp → W32
  | .addFp32 => 0x80000000#32
  | .addI32 | .or => 0#32
  | .and => 0xFFFFFFFF#32
  | .minI32 => 0x7FFFFFFF#32
  | .maxI32 => 0x80000000#32
  | .minFp32 => 0x7F800000#32
  | .maxFp32 => 0xFF800000#32

/-- One step of a reduction (R222). -/
def xredStep (op : XredOp) (a b : W32) : W32 :=
  match op with
  | .addI32 => a + b
  | .addFp32 => toFp32 (sumNum false [ofFp32 a, ofFp32 b])
  | .minI32 => if a.sle b then a else b
  | .maxI32 => if a.sle b then b else a
  | .minFp32 => w32 (fMinMax fp32 false a.toNat b.toNat)
  | .maxFp32 => w32 (fMinMax fp32 true a.toNat b.toNat)
  | .and => a &&& b
  | .or => a ||| b

/-- Neighbours joined pairwise: one level of the tree. -/
def pairUp (f : W32 → W32 → W32) : List W32 → List W32
  | a :: b :: rest => f a b :: pairUp f rest
  | l => l

/-- The tree of R222 over 64 leaves. -/
def xredTree (op : XredOp) (t : List W32) : W32 :=
  ((List.range 6).foldl (fun t _ => pairUp (xredStep op) t) t).headD 0#32

/-- XRED (R222). -/
def xredOpr (op : XredOp) (o : LaOp) : LaneOp :=
  { gov := laGov o, srcs := [vsrc o.a 1], d := o.d, nowb := laNowb o, lat := 8
    val := fun w act =>
      let a := srcA w o false
      let t := lanes.map fun l => if bit act l then w32 (a.getD l 0#64).toNat else xredIdent op
      { rows := [List.replicate 64 (xredTree op t)] } }
/-- XRED (R222). -/
def execXred (op : XredOp) (o : LaOp) (s : State) : Host.Outcome State Fault Refusal :=
  .next (runLane s (laWidth o) (xredOpr op o))

/-- VOTE.ANY (R223). -/
def voteAnyOp (o : LaOp) : LaneOp :=
  { gov := laGov o, srcs := [], d := o.d, pred := true, lat := 2
    val := fun w act => { mask := if predSrc w o.a &&& act ≠ 0#64 then BitVec.allOnes 64 else 0#64 } }
/-- VOTE.ANY (R223). -/
def execVoteAny (o : LaOp) (s : State) : Host.Outcome State Fault Refusal := .next (runLane s (laWidth o) (voteAnyOp o))

/-- VOTE.ALL (R223). -/
def voteAllOp (o : LaOp) : LaneOp :=
  { gov := laGov o, srcs := [], d := o.d, pred := true, lat := 2
    val := fun w act => { mask := if predSrc w o.a &&& act = act then BitVec.allOnes 64 else 0#64 } }
/-- VOTE.ALL (R223). -/
def execVoteAll (o : LaOp) (s : State) : Host.Outcome State Fault Refusal := .next (runLane s (laWidth o) (voteAllOp o))

/-- VOTE.BALLOT: the mask in a pair (R223). -/
def voteBallotOp (o : LaOp) : LaneOp :=
  { gov := laGov o, srcs := [], d := o.d, n := 2, nowb := laNowb o, lat := 2
    val := fun w act => { rows := splitRows 2 (List.replicate 64 (predSrc w o.a &&& act)) } }
/-- VOTE.BALLOT (R223). -/
def execVoteBallot (o : LaOp) (s : State) : Host.Outcome State Fault Refusal :=
  .next (runLane s (laWidth o) (voteBallotOp o))

/-- The governing predicate and NOWB of VSRD and VGET (R171). -/
def predExtGov : Option PredExt → Gov × Bool
  | none => (⟨false, 0#6⟩, false)
  | some e => (e.gov, e.nowb)

/-- VSRD (R224). -/
def vsrdOp (s : State) (d : BitVec 7) (num : BitVec 8) (ext : Option PredExt) : LaneOp :=
  let n := if sregWide num.toNat then 2 else 1
  { gov := (predExtGov ext).1, srcs := [], d := d, n := n, nowb := (predExtGov ext).2, lat := 2
    more := fun _ => sregCauses num.toNat
    val := fun _ _ => { rows := splitRows n (lanes.map fun l => sregVal s num.toNat l) } }
/-- VSRD (R224). -/
def execVsrd (d : BitVec 7) (num : BitVec 8) (ext : Option PredExt) (s : State) : Host.Outcome State Fault Refusal :=
  .next (runLane s (extWidth ext) (vsrdOp s d num ext))

/-- VGET (R224). -/
def vgetOp (d : BitVec 7) (g : BitVec 6) (hi : Bool) (ext : Option PredExt) : LaneOp :=
  { gov := (predExtGov ext).1, srcs := [], d := d, nowb := (predExtGov ext).2, lat := 2
    val := fun w _ =>
      let x := (greg w g.toNat).toNat
      { rows := [List.replicate 64 (w32 (if hi then x / 2 ^ 32 else x))] } }
/-- VGET (R224). -/
def execVget (d : BitVec 7) (g : BitVec 6) (hi : Bool) (ext : Option PredExt) (s : State) :
    Host.Outcome State Fault Refusal :=
  .next (runLane s (extWidth ext) (vgetOp d g hi ext))

/-! ### BR -/


/-- BR: lanes of the run whose condition is true go to the target, the others to the next instruction (R225). -/
def execBr (neg : Bool) (pn : BitVec 6) (off : BitVec 17) (s : State) : Host.Outcome State Fault Refusal :=
  .next (checked s {} [] fun s =>
    let m := s.cur.mask
    let c := govMask (me s) ⟨neg, pn⟩ &&& m
    let s := undoAppend s [] false false
    setMe s (goto c (pktTarget s.cur.pkt off) (goto (m &&& ~~~c) (nextPc s.cur 1) (me s))))

/-! ### REP -/

/-- A field strided: field + i * stride, in 7 bits (R172, R226). -/
def strided (f : BitVec 7) (stride : BitVec 3) (i : Nat) : BitVec 7 := f + BitVec.ofNat 7 (i * stride.toNat)

/-- The fields of iteration i (R172); B of the immediate form is not strided (R226). -/
def repFields (ds sa sb sc : BitVec 3) (i : Nat) (o : LaOp) : LaOp :=
  { d := strided o.d ds i, a := strided o.a sa i, b := if (laImm o).isSome then o.b else strided o.b sb i
    ext := match o.ext with
      | some (.op g nb c onB pat pv rm sat) => some (.op g nb (strided c sc i) onB pat pv rm sat)
      | e => e }

/-- The lane operation of an instruction that REP may prefix, under a change of its fields; none of an illegal target
(R226): layout LA, class F, EXK 0 or 1, v destination, no SFU, XRED or SMX.STEP. -/
def repTarget (f : LaOp → LaOp) (s : State) : Instr → Option (LaOp × LaneOp)
  | .vadd ty o => some (o, vaddOp ty (f o))
  | .vsub ty o => some (o, vsubOp ty (f o))
  | .vmul ty o => some (o, vmulOp ty (f o))
  | .vmulh ty o => some (o, vmulhOp ty (f o))
  | .vmad ty o => some (o, vmadOp ty (f o))
  | .vmin ty o => some (o, vminOp ty (f o))
  | .vmax ty o => some (o, vmaxOp ty (f o))
  | .vabs ty o => some (o, vabsOp ty (f o))
  | .vand ty o => some (o, vandOp ty (f o))
  | .vor ty o => some (o, vorOp ty (f o))
  | .vxor ty o => some (o, vxorOp ty (f o))
  | .vnot ty o => some (o, vnotOp ty (f o))
  | .vshl ty o => some (o, vshlOp ty (f o))
  | .vshr ty o => some (o, vshrOp ty (f o))
  | .vbfx ty o => some (o, vbfxOp ty (f o))
  | .vbfi ty o => some (o, vbfiOp ty (f o))
  | .vclz ty o => some (o, vclzOp ty (f o))
  | .vpopc ty o => some (o, vpopcOp ty (f o))
  | .vmov o => some (o, vmovOp (f o))
  | .vmovImm o => some (o, vmovImmOp (f o))
  | .vmovh o => some (o, vmovhOp (f o))
  | .vsel o => some (o, vselOp (f o))
  | .fadd ty o => some (o, faddOp ty (f o))
  | .fsub ty o => some (o, fsubOp ty (f o))
  | .fmul ty o => some (o, fmulOp ty (f o))
  | .ffma ty o => some (o, ffmaOp ty (f o))
  | .fmin ty o => some (o, fminOp ty (f o))
  | .fmax ty o => some (o, fmaxOp ty (f o))
  | .fneg ty o => some (o, fnegOp ty (f o))
  | .fabs ty o => some (o, fabsOp ty (f o))
  | .qntDiv o => some (o, qntFull s (f o) (qntDivOp (f o)))
  | .qntMul o => some (o, qntFull s (f o) (qntMulOp (f o)))
  | .pack w o => some (o, packOp w (f o))
  | .unpk w o => some (o, unpkOp w (f o))
  | .dot t o => some (o, dotOp t (f o))
  | .xrd k o => some (o, xrdOp k (f o))
  | .voteBallot o => some (o, voteBallotOp (f o))
  | _ => none

/-- A source of the first iteration that names a latch has a stride other than 0: the second iteration names another field (R226). -/
def latchStride (x0 x1 : LaneOp) : Bool :=
  (List.zip (laneVops x0) (laneVops x1)).any fun u => u.1.src && decide (120 ≤ u.1.f) && decide (u.1.f ≠ u.2.f)

/-- An iteration names a register outside v0 to v119 or the held blocks, or breaks R78; a source that names a latch in the first
iteration names one in every iteration. -/
def iterBreaks (w : Warp) (x0 x : LaneOp) : Bool :=
  (List.zip (laneVops x0) (laneVops x)).any fun u =>
    if u.1.src && 120 ≤ u.1.f then false
    else 120 < u.2.f + u.2.n || 8 * w.blocks < u.2.f + u.2.n || u.2.f % u.2.align ≠ 0

/-- The stale uses of latches by the iterations after the first (R82, R172): iteration j issues j aclk after the first, and finds in
latch k the push of iteration j - 1 - k, or what stood in latch k - j before the REP. -/
def repStale (t : Nat) (w : Warp) (n : Nat) (x : LaneOp) : List (Nat × Word) :=
  if !w.native then []
  else
    (x.srcs.filter fun v => v.src && decide (120 ≤ v.f)).flatMap fun v =>
      let k := v.f - 120
      (List.range n).filterMap fun j =>
        if j = 0 then none
        else if k < j then (if k + 1 < x.lat then some (0x12, w64 (k + 256 * (k + 1))) else none)
        else
          match w.latches[k - j]? with
          | some l => if t + j < l.born + l.lat then some (0x12, w64 (k + 256 * (t + j - l.born))) else none
          | none => none

/-- A REP between iterations: the warp with what the iterations so far have left, and their writes. -/
structure RepView where
  w  : Warp
  ws : List Pend
  deriving DecidableEq, Repr

/-- The registers as the iteration that issues at aclk t reads them: what is due by then, and over it what the iterations before it have
written (R9, R172, R437). -/
def repReads (t : Nat) (v : RepView) : Warp :=
  (v.ws.filter fun x => t < x.due).foldl (fun w x => applyWrite w x.w) (settle t v.w)

/-- One iteration, issued at aclk t (R172): its writes land at the target's latency, and its push takes place. -/
def repIter (t : Nat) (act keep : Word) (x : LaneOp) (v : RepView) : RepView :=
  let u := repReads t v
  let r := x.val u act
  let ws := laneWrites x act r
  let w := addPend v.w (t + x.lat) ws
  let w := match lanePush u x act r with
    | none => w
    | some vals => pushLatch w t x.lat vals keep
  { w := { w with seed := r.seed.getD w.seed }, ws := v.ws ++ ws.map fun y => ⟨t + x.lat, y⟩ }

/-- The views after each of some iterations, one aclk apart from aclk t on. -/
def repViews (at_ : Nat → LaneOp) (act keep : Word) : Nat → List Nat → RepView → List RepView
  | _, [], _ => []
  | t, j :: js, v => let u := repIter t act keep (at_ j) v; u :: repViews at_ act keep (t + 1) js u

/-- What each iteration leaves, from the views after it and before it. -/
def repSteps : RepView → List RepView → List RepStep
  | _, [] => []
  | v, u :: us => ⟨u.ws.drop v.ws.length, u.w.latches, u.w.seed⟩ :: repSteps u us

/-- The lane operation of each iteration of a REP over an instruction (R172). -/
def repAt (s : State) (i : Instr) (x0 : LaneOp) (ds sa sb sc : BitVec 3) (j : Nat) : LaneOp :=
  match repTarget (repFields ds sa sb sc j) s i with
  | some y => y.2
  | none => x0

/-- The stage-2 causes of a REP over a legal target (R226, Table 21-5). -/
def repCauses (s : State) (i : Instr) (x0 : LaneOp) (cnt : BitVec 6) (ds sa sb sc : BitVec 3) : List (Nat × Word) :=
  let at_ := repAt s i x0 ds sa sb sc
  let n := cnt.toNat + 1
  if latchStride x0 (at_ 1) then [(6, 0#64)]
  else
    match (List.range n).find? fun j => iterBreaks (me s) x0 (at_ j) with
    | some j => [(6, w64 j)]
    | none =>
      regCauses s (laneVops x0) ++ x0.more (me s)
        ++ repStale (now s) (me s) (n - unitsDone (me s) s.cur) x0

/-- The iterations of a REP from `first` on issue, one aclk apart, in the lanes `act`; lanes of `keep` stay at it and are not pushed
(R172, R345). The REP stays noted until the warp issues again: a stop before its last iteration has issued withdraws what has not. -/
def repGo (s : State) (at_ : Nat → LaneOp) (first n : Nat) (act keep : Word) : State :=
  let v0 : RepView := ⟨me s, []⟩
  let vs := repViews at_ act keep (now s) ((List.range n).filter fun j => decide (first ≤ j)) v0
  let v := vs.getLastD v0
  let s := undoAppend s (v.ws.map (·.w)) true (v.w.seed ≠ v0.w.seed)
  setMe s { me s with
    latches := v.w.latches, seed := v.w.seed, pend := v.w.pend
    rep := some { cur := s.cur, act := act, keep := keep, start := now s, first := first, n := n, steps := repSteps v0 vs } }

/-- The instruction after a REP in its packet (R172). -/
def repNext (c : Cur) : Option Instr :=
  if 2 ≤ c.slot then none
  else
    let w := slotWord c (c.slot + 1)
    if w = 0#32 then none else (decode w (if c.slot = 0 then some (slotWord c 2) else none)).toOption

/-- The issue of REP with its target (R172, R226, R227). -/
def runRep (s : State) (cnt : BitVec 6) (ds sa sb sc : BitVec 3) : State :=
  let k := s.cur.slot + 1
  let tw := slotWord s.cur k
  let next := if k + 1 < 3 then some (slotWord s.cur (k + 1)) else none
  match (if s.cur.slot = 2 || tw = 0#32 then none else some (decode tw next)) with
  | none => checked s {} [(6, 0#64)] fun s => s
  | some (.error e) => checked s {} [(e.cause, e.syn)] fun s => s
  | some (.ok i) =>
    match repTarget (fun o => o) s i with
    | none => checked s {} [(6, 0#64)] fun s => s
    | some (o, x0) =>
      checked s {} (repCauses s i x0 cnt ds sa sb sc) fun s =>
        let first := unitsDone (me s) s.cur
        let s := setMe s (usePix (spendTokens (me s)) s.cur)
        let act := s.cur.mask &&& govMask (me s) x0.gov
        let bad := badLanes (me s) x0 act
        let s := repGo (faultLanes s bad) (repAt s i x0 ds sa sb sc) first (cnt.toNat + 1) (act &&& ~~~causeMask bad)
          (s.cur.mask &&& causeMask bad)
        goLanes s (s.cur.mask &&& ~~~causeMask bad) (nextPc s.cur (1 + laWidth o))

/-- A REP that a stop has left in flight goes on with its next iteration (R227, R300). -/
def resumeRep (s : State) : State :=
  match (me s).rep, (decode (slotWord s.cur s.cur.slot) none).toOption, repNext s.cur with
  | some r, some (.rep _ ds sa sb sc), some i =>
    match repTarget (fun o => o) s i with
    | some (_, x0) => repGo (setMe s (spendTokens (me s))) (repAt s i x0 ds sa sb sc) r.first r.n r.act r.keep
    | none => s
  | _, _, _ => s

/-- REP (R172, R226, R227). -/
def execRep (cnt : BitVec 6) (ds sa sb sc : BitVec 3) (s : State) : Host.Outcome State Fault Refusal :=
  .next (runRep s cnt ds sa sb sc)

end Sys2Proof.Machine
end

