-- ==== Sys2Proof/Machine/Price.lean ====
section
/-!
DEFINITION. Which instructions are wide and their token prices (R74, R176, R177, R208, R227, R230, R263, R283).
-/
namespace Sys2Proof.Machine
open Sys2Proof

/-- The price of an instruction alone: none for a narrow one (Tables 10-1, 11-1, 12-1). -/
def soloPrice (s : State) (k : Nat) (i : Instr) : Option Nat :=
  let w := warpAt s k
  match i with
  | .vrcp _ | .vrsq _ | .vsqrt _ | .vexp2 _ | .vlog2 _ | .vsin _ | .vcos _ | .vtanh _ => some 1
  | .dot _ _ => some 1
  | .ldg n _ | .stg n _ => some (cdiv (n.toNat + 1) 4)
  | .mma o => if o.gs.toNat = 0 then some (mmaPrice o) else some 0
  | .drain o => some ((if o.mode.toNat = 2 then 3 else 2) * o.units.toNat)
  | .chain o =>
    if greg w o.ng.toNat = 0#64 then some 0
    else some (chainPrice (memBytes (teamAt s w.team).tile (greg w o.rg.toNat).toNat 64))
  | _ => none

/-- The price of a REP and its target: ceil(n / 8) for a narrow target, n times a DOT's (R227). -/
def repPrice (s : State) (k n : Nat) (target : Option Instr) : Nat :=
  match target.bind (soloPrice s k) with
  | some p => n * p
  | none => cdiv n 8

/-- The price of the instruction of a slot for a warp; none for a narrow one. -/
def slotPrice (s : State) (c : Cur) (k : Nat) (i : Instr) : Option Nat :=
  match i with
  | .rep cnt _ _ _ _ => some (repPrice s k (cnt.toNat + 1 - unitsDone (warpAt s k) c) (repNext c))
  | i => soloPrice s k i

end Sys2Proof.Machine
end

