-- ==== Sys2Proof/Machine/Uses.lean ====
section
/-!
DEFINITION. The lane instructions by their operations, and the registers, predicates and latches that an instruction reads and writes,
for which the core holds it in interlocked mode (R76, R87, R179, R437).
-/
namespace Sys2Proof.Machine
open Sys2Proof

/-- The lane instructions of fixed latency that issue to the lane units alone, each with its width in slots and its operation. -/
def laneForm (s : State) : Instr → Option (Nat × LaneOp)
  | .vadd ty o => some (laWidth o, vaddOp ty o)
  | .vsub ty o => some (laWidth o, vsubOp ty o)
  | .vmul ty o => some (laWidth o, vmulOp ty o)
  | .vmulh ty o => some (laWidth o, vmulhOp ty o)
  | .vmad ty o => some (laWidth o, vmadOp ty o)
  | .vmin ty o => some (laWidth o, vminOp ty o)
  | .vmax ty o => some (laWidth o, vmaxOp ty o)
  | .vabs ty o => some (laWidth o, vabsOp ty o)
  | .vand ty o => some (laWidth o, vandOp ty o)
  | .vor ty o => some (laWidth o, vorOp ty o)
  | .vxor ty o => some (laWidth o, vxorOp ty o)
  | .vnot ty o => some (laWidth o, vnotOp ty o)
  | .vshl ty o => some (laWidth o, vshlOp ty o)
  | .vshr ty o => some (laWidth o, vshrOp ty o)
  | .vbfx ty o => some (laWidth o, vbfxOp ty o)
  | .vbfi ty o => some (laWidth o, vbfiOp ty o)
  | .vclz ty o => some (laWidth o, vclzOp ty o)
  | .vpopc ty o => some (laWidth o, vpopcOp ty o)
  | .vmov o => some (laWidth o, vmovOp o)
  | .vmovImm o => some (laWidth o, vmovImmOp o)
  | .vmovh o => some (laWidth o, vmovhOp o)
  | .vsel o => some (laWidth o, vselOp o)
  | .vcmp c o => some (laWidth o, vcmpOp c o)
  | .fcmp c o => some (laWidth o, fcmpOp c o)
  | .pand o => some (laWidth o, pandOp o)
  | .por o => some (laWidth o, porOp o)
  | .pxor o => some (laWidth o, pxorOp o)
  | .pmov o => some (laWidth o, pmovOp o)
  | .fadd ty o => some (laWidth o, faddOp ty o)
  | .fsub ty o => some (laWidth o, fsubOp ty o)
  | .fmul ty o => some (laWidth o, fmulOp ty o)
  | .ffma ty o => some (laWidth o, ffmaOp ty o)
  | .fmin ty o => some (laWidth o, fminOp ty o)
  | .fmax ty o => some (laWidth o, fmaxOp ty o)
  | .fneg ty o => some (laWidth o, fnegOp ty o)
  | .fabs ty o => some (laWidth o, fabsOp ty o)
  | .smxStep o => some (laWidth o, smxStepOp o)
  | .cvt o => some (laWidth o, cvtOp o)
  | .qntDiv o => some (laWidth o, qntFull s o (qntDivOp o))
  | .qntMul o => some (laWidth o, qntFull s o (qntMulOp o))
  | .pack e o => some (laWidth o, packOp e o)
  | .unpk e o => some (laWidth o, unpkOp e o)
  | .xrd k o => some (laWidth o, xrdOp k o)
  | .xred op o => some (laWidth o, xredOpr op o)
  | .voteAny o => some (laWidth o, voteAnyOp o)
  | .voteAll o => some (laWidth o, voteAllOp o)
  | .voteBallot o => some (laWidth o, voteBallotOp o)
  | .vsrd d num x => some (extWidth x, vsrdOp s d num x)
  | .vget d g hi x => some (extWidth x, vgetOp d g hi x)
  | _ => none

/-- The special-function instructions, each with its width in slots and its operation (R215). -/
def sfuForm : Instr → Option (Nat × LaneOp)
  | .vrcp o => some (laWidth o, vrcpOp o)
  | .vrsq o => some (laWidth o, vrsqOp o)
  | .vsqrt o => some (laWidth o, vsqrtOp o)
  | .vexp2 o => some (laWidth o, vexp2Op o)
  | .vlog2 o => some (laWidth o, vlog2Op o)
  | .vsin o => some (laWidth o, vsinOp o)
  | .vcos o => some (laWidth o, vcosOp o)
  | .vtanh o => some (laWidth o, vtanhOp o)
  | _ => none

/-- The operation of an instruction that executes on the lane pipe with a fixed latency. -/
def laneOpOf (s : State) (i : Instr) : Option LaneOp :=
  match i with
  | .dot t o => some (dotOp t o)
  | i => ((laneForm s i).orElse fun _ => sfuForm i).map (·.2)

/-! ### Names -/

/-- A register, predicate or latch of a warp. -/
inductive RegName
  | v (r : Nat)
  | p (r : Nat)
  | g (r : Nat)
  | q (r : Nat)
  | b (k : Nat)
  deriving DecidableEq, Repr

/-- The names of a group of v registers. -/
def vNames (f n : Nat) : List RegName := (List.range n).map fun j => .v (f + j)
/-- The names of a v operand. -/
def vopNames (x : VOp) : List RegName := if x.src && 120 ≤ x.f && !x.reg then [.b (x.f - 120)] else vNames x.f x.n
/-- The name of a predicate field, its negation aside. -/
def pName {n : Nat} (f : BitVec n) : RegName := .p (f.toNat % 64)
/-- The name of a g field. -/
def gName (f : BitVec 6) : RegName := .g f.toNat
/-- The names of a g pair. -/
def gPair (f : BitVec 6) : List RegName := [.g f.toNat, .g (f.toNat + 1)]
/-- The name of a q field, its negation aside. -/
def qName (f : BitVec 6) : RegName := .q (f.toNat % 16)
/-- The names of a uniform governing predicate. -/
def qgovNames : Option QGov → List RegName
  | none => []
  | some x => [.q x.qn.toNat]
/-- The names of a "predicate only" form. -/
def qpredNames : QPred → List RegName
  | none => []
  | some x => qgovNames x

/-- What a lane operation reads and writes. -/
def laneNames (x : LaneOp) : List RegName :=
  [pName x.gov.pn] ++ x.srcs.flatMap vopNames ++ (if x.pred then [pName x.d] else vNames x.d.toNat x.n)

/-- What a layout-LM instruction reads beside its data: its governing predicate, base and index. -/
def lmNames (o : LmOp) : List RegName := [pName o.gov.pn, gName o.base] ++ (lmIx o).flatMap vopNames

/-- What a layout-UA form reads and writes. -/
def uaNames (o : UaOp) : List RegName :=
  [gName o.d, gName o.a] ++ (match o.ext with
    | some e => qgovNames e.gov ++ (if e.i then [] else [gName o.b])
    | none => [gName o.b])

/-- The iterations of a REP name what its target names, strided (R172). -/
def repNames (s : State) (i : Instr) (cnt : BitVec 6) (ds sa sb sc : BitVec 3) : List RegName :=
  match repTarget (fun o => o) s i with
  | some (_, x) => (List.range (cnt.toNat + 1)).flatMap fun j => laneNames (repAt s i x ds sa sb sc j)
  | none => []

/-- The registers, predicates and latches that an instruction reads or writes (R179, R437). -/
def namesOf (s : State) (i : Instr) : List RegName :=
  (match laneOpOf s i with | some x => laneNames x | none => []) ++
  match i with
  | .vsel o => [pName (laC o)]
  | .pand o | .por o | .pxor o | .pmov o => [pName o.a, pName o.b]
  | .voteAny o | .voteAll o | .voteBallot o => [pName o.a]
  | .vget _ g _ _ => [gName g]
  | .rep cnt ds sa sb sc => (match repNext s.cur with | some i => repNames s i cnt ds sa sb sc | none => [])
  | .br _ pn _ => [pName pn]
  | .ld sz o => lmNames o ++ vNames o.d.toNat (groupRegs (ldBytes sz).1)
  | .st sz o => lmNames o ++ vNames o.d.toNat (groupRegs (stBytes sz))
  | .ldg n o | .stg n o => lmNames o ++ pName o.b :: vNames o.d.toNat (n.toNat + 1)
  | .lds sz o =>
    lmNames o ++ vopNames (vsrc o.a 2) ++ vopNames (vsrc o.b 1) ++ vNames o.d.toNat (groupRegs (stBytes sz) + 1)
  | .atom op ty o =>
    let r := groupRegs (atyBytes ty)
    lmNames o ++ vNames o.d.toNat r ++ vopNames (vsrc o.b r) ++ (if op = .cas then vopNames (vnext o.b r) else [])
  | .red _ ty o | .waitw _ ty o => lmNames o ++ vopNames (vsrc o.b (groupRegs (atyBytes ty)))
  | .waitadd ty o =>
    let r := groupRegs (atyBytes ty)
    lmNames o ++ vNames o.d.toNat r ++ vopNames (vsrc o.b r) ++ vopNames (vnext o.b r)
  | .cctlUnpin o | .cctlPin o | .cctlEvict o | .cctlPrefetch o => lmNames o
  | .mbarInit o | .mbarExp o | .mbarWait o | .mbarArv o => lmNames o ++ vopNames (vsrc o.b 1)
  | .seqRes o => lmNames o ++ vopNames (vsrc o.b 1) ++ vNames o.d.toNat 3
  | .seqCmt o => lmNames o ++ vopNames (vsrc o.a 2) ++ vopNames (vsrc o.b 1)
  | .barCnt _ b => vopNames (vsrc b 1)
  | .tstat d => vNames d.toNat 1
  | .tbufRead d a => vNames d.toNat 4 ++ vopNames (vsrc a 1)
  | .mma o => gName o.tg :: (if (me s).reuse.isSome then [] else (mmaReads o (slotReg (me s) o.sa.toNat)).map .v)
  | .drain o => [gName o.tg, gName o.sg]
  | .chain o => [gName o.rg, gName o.ng]
  | .uadd _ o | .usub _ o | .umul _ o | .umulh _ o | .udiv _ o | .urem _ o | .umin _ o | .umax _ o | .uand _ o | .uor _ o
  | .uxor _ o | .uandn _ o | .unot _ o | .uclz _ o | .upopc _ o | .ushl _ o | .ushr _ o | .usar _ o | .urot _ o | .ubfx _ o
  | .ubfi _ o | .umov o | .umovi _ o | .umovk o | .uadr o => uaNames o
  | .usel o => .q (fld (uaImm o) 0 4).toNat :: uaNames o
  | .ucmp _ _ o => qName o.d :: uaNames o
  | .qand d a b q | .qor d a b q | .qxor d a b q => qpredNames q ++ [qName d, qName a, qName b]
  | .qmov d a _ q => qpredNames q ++ [qName d, qName a]
  | .qany d a _ q | .qall d a _ q => qpredNames q ++ [qName d, pName a]
  | .qset d _ _ q => qpredNames q ++ [qName d]
  | .uld sz d a x => qgovNames x.gov ++ gName a :: (if (uldBytes sz).1 = 16 then gPair d else [gName d])
  | .ust sz d a x => qgovNames x.gov ++ gName a :: (if stBytes sz = 16 then gPair d else [gName d])
  | .bra _ q | .call _ q | .exit q | .nop q | .ralloc _ q | .rfree _ q | .tsync q | .yield q | .sleep _ q | .trap _ q => qpredNames q
  | .ret a q | .swr a _ q | .gang a q => gName a :: qpredNames q
  | .brx a x => gName a :: qgovNames x.gov
  | .loop c _ q => gName c :: qpredNames q
  | .srd d _ q => gName d :: qpredNames q
  | .ugetl d v _ q => gName d :: qpredNames q ++ vNames v.toNat 1
  | .launch d a q | .tileFind d a q | .tileInv d a q | .tileRel d a q | .tileStat d a q => gName d :: gName a :: qpredNames q
  | .tileAlloc d a b q => gName d :: gName a :: gName b :: qpredNames q
  | .rqKick a b q => gName a :: gName b :: qpredNames q
  | .seqBind _ a x => qgovNames x.gov ++ [gName a]
  | .seqLen d a x | .seqDrop d a x => qgovNames x.gov ++ [gName d, gName a]
  | .seqFork d a b x => qgovNames x.gov ++ [gName d, gName a, gName b]
  | _ => []

/-! ### What is still to be written -/

/-- The name that a pending write changes. -/
def pwriteName : PWrite → RegName
  | .v r _ _ => .v r
  | .p r _ _ => .p r
  | .g r _ => .g r
  | .q r _ => .q r

/-- The names that an outstanding access has still to write. -/
def accNames (a : Acc) : List RegName :=
  if !(a.lanes.any fun l => l.live && !l.mute) then []
  else
    match a.kind with
    | .load _ | .atom _ _ | .waitadd _ => vNames a.dst (groupRegs a.bytes)
    | .ldg ps => .p ps :: vNames a.dst (groupRegs a.bytes)
    | .stg ps => [.p ps]
    | .lds => vNames a.dst (groupRegs a.bytes + 1)
    | .uload _ => .g a.dst :: (if a.bytes = 16 then [.g (a.dst + 1)] else [])
    | .seqRes => vNames a.dst 3
    | _ => []

/-- The names that earlier instructions of a warp have still to write at an aclk, latches whose producers have not finished among
them (R179, R437). -/
def owedNames (s : State) (k t : Nat) : List RegName :=
  let w := warpAt s k
  ((w.pend.filter fun x => t < x.due).map fun x => pwriteName x.w)
    ++ (accsOf s k).flatMap accNames
    ++ ((s.squ.filter fun r => r.warp = k && r.lane.isNone && r.op ≠ .bind).map fun r => RegName.g r.dst)
    ++ ((List.range w.latches.length).filter fun j =>
          match w.latches[j]? with | some l => decide (t < l.born + l.lat) | none => false).map .b

/-- Every source of an instruction is ready in interlocked mode, and no earlier instruction has still to write its destination (R76,
R179, R437). -/
def sourcesReady (s : State) (k : Nat) (i : Instr) : Bool :=
  let owed := owedNames s k (now s)
  (namesOf s i).all fun n => !owed.contains n

end Sys2Proof.Machine
end

