-- ==== Sys2Proof/Machine/Issue.lean ====
section
/-!
DEFINITION. From a warp to its next instruction, and from a port to the warp it selects: fetch and decode (R156 to R160,
R325, R401), eligibility (R70, R74, R76, R179), breakpoints (R429), the claim of tokens (R287), and the selection and issue
of a port (R69, R72, R73, R74). The meaning of instructions is a parameter.
-/
namespace Sys2Proof.Machine
open Sys2Proof

/-! ### Fetch -/

/-- What a warp's next slot holds; `resume` is a REP that a stop has left in flight, with the iterations that remain (R227, R300). -/
inductive Slot
  | nothing
  | instr (i : Instr)
  | resume (n : Nat)
  | refused (cause : Nat) (syn : Word)
  | fetch (cause : Nat) (syn : Word)
  | empty
  deriving DecidableEq, Repr

/-- The state with a warp's run at an address moved to another without an issue (R158). -/
def moveRun (s : State) (k : Nat) (e : PcEntry) (pc : Word) : State :=
  let move := fun pcs : List PcEntry => normPcs (pcs.map fun x => if x = e then { x with pc := pc } else x)
  putWarp s k (mapRuns move (warpAt s k))

/-- The issuing context of a warp's run in a packet (R156, R157). -/
def curOf (s : State) (core port k : Nat) (e : PcEntry) (bs : List Byte) : Cur :=
  let w := fun j => w32 (leVal ((bs.drop (4 * j)).take 4))
  { core := core, port := port, warp := k, pkt := pktOf e.pc, slot := slotOf e.pc, ctl := w 0, slots := [w 1, w 2, w 3]
    mask := e.mask, inHandler := (warpAt s k).handler.isSome }

/-- The packet at a run's PC, fetched (R156, R325, R401): its bytes, a wait, or a cause. -/
def fetchPacket (s : State) (k : Nat) (e : PcEntry) : CodeRead := codeRead s k e.mask e.pc (pktOf e.pc) 16

/-- The next slot of a warp for a port, empty slots passed over (R158): the state with `cur` set, and what the slot holds.
A packet with no instruction is passed over unless its control word fails stage 1 (R381). A warp whose chosen run waits, held, for a
request issues nothing, whatever its other runs could do: R37 chooses among the runs that are not parked, and a held run is not parked
(log 11). -/
def nextSlot (core port k : Nat) : Nat → State → State × Slot
  | 0, s => (s, .nothing)
  | fuel + 1, s =>
    match chosenRun (runsOf (warpAt s k)) with
    | none => (s, .nothing)
    | some e =>
      if isHeld (warpAt s k) e.mask then (s, .nothing)
      else
        match fetchPacket s k e with
        | .held s => (s, .nothing)
        | .bad c y => ({ s with cur := { curOf s core port k e [] with slots := [] } }, .fetch c y)
        | .bytes bs =>
          let c := curOf s core port k e bs
          let t := { s with cur := c }
          if startsAt c.slots c.slot then
            (t, match decode (slotWord c c.slot) (if c.slot < 2 then some (slotWord c (c.slot + 1)) else none) with
              | .ok i => .instr i
              | .error f => .refused f.cause f.syn)
          else
            match nextStart c.slots c.slot with
            | some j => nextSlot core port k fuel (moveRun s k e (slotPc c.pkt j))
            | none =>
              if (nextStart c.slots 0).isNone && stage1 t ≠ [] then (t, .empty)
              else nextSlot core port k fuel (moveRun s k e (slotPc (c.pkt + 16#64) 0))

/-- Empty packets passed over in one issue opportunity: as many as the address space holds (R158). -/
def emptyPackets : Nat := 2 ^ 53

/-! ### Eligibility -/

/-- A warp whose team may issue: resident, past its first-issue time, its context not faulted, halted or being saved. -/
def mayRun (s : State) (k : Nat) : Bool :=
  let w := warpAt s k
  let t := teamAt s w.team
  let c := ctxAt s t.ctx
  !w.exited && t.status = .resident && t.issueAt ≤ s.time && c.faulted.isNone && !c.inSwitch
    && (match c.stepping with | some x => x.1 = k && x.2 = 0 | none => !c.halted)

/-- A warp that holds an MMA in its gang's latch issues nothing (R42). -/
def inLatch (s : State) (k : Nat) : Bool :=
  let w := warpAt s k
  (teamAt s w.team).latch.any fun h => h.wid = w.wid

/-- A warp has a run that is neither parked nor held. -/
def hasRun (w : Warp) : Bool := (runsOf w).any fun e => e.park.isNone && !isHeld w e.mask

/-- The distance and the wait mask of the slot allow its issue; in interlocked mode what it holds has its sources (R70, R76, R158,
R179). -/
def timeReady (s : State) (k : Nat) (slot : Slot) : Bool :=
  let w := warpAt s k
  let c := s.cur
  let t := now s
  let d := if w.native then (fld c.ctl (12 + 3 * c.slot) 3).toNat else 0
  (match w.lastIssue with | none => true | some l => l + 1 + d ≤ t)
    && (if w.native then c.slot ≠ 0 || flagsSet w (fld c.ctl 0 12).toNat else match slot with | .instr i => sourcesReady s k i | _ => true)

/-- The rest of a packet issues on the port where its slot 0 issued (R69). -/
def portAllows (w : Warp) (c : Cur) : Bool := c.slot = 0 || w.pktPorts.all fun x => x.1 ≠ c.pkt || x.2 = c.port

/-- The packets that a warp has begun, after an issue of a packet: those in which a run stands behind slot 0 (R69). -/
def begun (w : Warp) (c : Cur) : List (Word × Nat) :=
  ((c.pkt, c.port) :: w.pktPorts.filter fun x => x.1 ≠ c.pkt).filter fun x =>
    (w.pcs ++ runsOf w).any fun e => pktOf e.pc = x.1 && slotOf e.pc ≠ 0

/-- The enabled breakpoint at an address (Table 24-1, R429). -/
def bpIndex (c : Ctx) (pc : Word) : Option Nat :=
  (List.range 4).find? fun k => let b := w64 (dbgReg c (0x80 + 8 * k)); bit b 0 && fld b 2 55 = fld pc 2 55

/-- The breakpoint that stops the warp whose next instruction is the current one (R427, R429). -/
def bpStops (s : State) (k : Nat) : Option Nat :=
  let w := warpAt s k
  let c := ctxAt s (teamAt s w.team).ctx
  let ctl := w64 (dbgReg c 0x60)
  if bit ctl 0 = false || c.dbgBusy || c.stepping.isSome || c.bpSkip.contains (k, curPc s) then none
  else if bit ctl 2 = false && w.handler.isNone && txLanes w &&& s.cur.mask ≠ 0#64 then none
  else bpIndex c (curPc s)

/-- What a warp would issue on a port, once every test of R74 but the tokens is passed: none while it cannot. -/
structure Ready where
  warp  : Nat
  state : State
  slot  : Slot
  price : Option Nat
  deriving DecidableEq, Repr

/-- The other port of a core holds or is bound to a warp (R69). -/
def heldElsewhere (s : State) (core port k : Nat) : Bool :=
  let p := (coreAt s core).ports.getD (1 - port) {}
  p.hold = some k || p.bound = some k || p.picked = some k

/-- The REP that a stop has left in flight, in the mode in which the warp now runs (R227, R300). -/
def stoppedRep (w : Warp) : Option RepRun := w.rep.filter fun r => r.stopped && r.cur.inHandler = w.handler.isSome

/-- A warp looked at for a port (R74): the state after its fetch, and what it would issue. A REP in flight goes on before anything else,
and charges the iterations that remain (R227). -/
def look (s : State) (core port k : Nat) : State × Option Ready :=
  let w := warpAt s k
  if !mayRun s k || !hasRun w || w.detected ≠ [] || inLatch s k || heldElsewhere s core port k then (s, none)
  else
    match stoppedRep w with
    | some r =>
      let s := { s with cur := { r.cur with core := core, port := port, held := false, early := false } }
      (s, some ⟨k, s, .resume (r.n - r.first), some (repPrice s k (r.n - r.first) (repNext s.cur))⟩)
    | none =>
    let r := nextSlot core port k emptyPackets s
    match r.2 with
    | .nothing => (r.1, none)
    | .fetch c y => (r.1, some ⟨k, r.1, .fetch c y, none⟩)
    | .empty => if timeReady r.1 k .empty then (r.1, some ⟨k, r.1, .empty, none⟩) else (r.1, none)
    | slot =>
      if !timeReady r.1 k slot || !portAllows w r.1.cur then (r.1, none)
      else
        match bpStops r.1 k with
        | some b => ({ r.1 with agenda := .event (.breakpointHit k b) :: r.1.agenda }, none)
        | none =>
          let price := match slot with
            | .instr i => slotPrice r.1 r.1.cur k i
            | _ => none
          (r.1, some ⟨k, r.1, slot, price⟩)

/-! ### Selection -/

/-- The priority of a warp: its grid's (R56). -/
def warpPrio (s : State) (k : Nat) : Nat :=
  let t := teamAt s (warpAt s k).team
  match gridOf (ctxAt s t.ctx) t.grid with
  | some g => g.prio
  | none => 0

/-- A warp ranks before another at an opportunity of a port on which a warp may have yielded: not yielded, then higher priority, then
older waiting time, then lower number (R73, R74). The waiting time counts from the aclk of the warp's last issue, or of its residency
or restore, and among warps of one number the one of the older team goes first (log 35). -/
def ranksBefore (s : State) (yielded : Option Nat) (a b : Nat) : Bool :=
  let x := warpAt s a
  let y := warpAt s b
  if yielded = some a ∨ yielded = some b then yielded = some b
  else if warpPrio s a ≠ warpPrio s b then decide (warpPrio s b < warpPrio s a)
  else if x.since ≠ y.since then decide (x.since < y.since)
  else decide (x.wid < y.wid || (x.wid = y.wid && a < b))

/-- The best of the ready warps (R74). -/
def bestOf (s : State) (yielded : Option Nat) : List Ready → Option Ready
  | [] => none
  | x :: xs =>
    match bestOf s yielded xs with
    | none => some x
    | some y => if ranksBefore s yielded x.warp y.warp then some x else some y

/-- The state in which a ready warp's instruction runs: the run counts of R37 are taken. -/
def issueState (r : Ready) : State :=
  let s := r.state
  if (match r.slot with | .resume _ => true | _ => false) then s
  else putWarp s r.warp (mapRuns (countIssue (curPc s)) (warpAt s r.warp))

/-- A fetch cause strikes the run where it stands (R401). -/
def fetchFault (s : State) (c : Nat) (y : Word) : State :=
  let addr := if c = 0x2B then none else some s.cur.pkt.toNat
  if s.cur.inHandler then doubleFault s s.cur.warp (curPc s) (lowBit s.cur.mask) c
  else faultRun s 0 c y addr

/-- The issue of a ready warp under a meaning of instructions. -/
def issueOne (ex : Instr → State → Host.Outcome State Fault Refusal) (r : Ready) : Host.Outcome State Fault Refusal :=
  let s := issueState r
  match r.slot with
  | .instr i => ex i s
  | .resume _ => .next (resumeRep s)
  | .refused c y => .next (checked s {} [(c, y)] fun s => s)
  | .fetch c y => .next (fetchFault s c y)
  | .empty => .next (checked s {} [] fun s => s)
  | .nothing => .next s

/-- The state that an outcome leaves, or none. -/
def outState : Host.Outcome State Fault Refusal → Option State
  | .next s => some s
  | _ => none

/-- A ready warp is eligible: its instruction is not held by a further condition (R122, R209, R261, R262, R274, R301), and a
wide one has its grant unless stages 1 to 3 end it (R74, Table 21-1). -/
def eligible (ex : Instr → State → Host.Outcome State Fault Refusal) (r : Ready) : Bool :=
  match outState (issueOne ex r) with
  | none => true
  | some t => !t.cur.held && (r.price.isNone || r.price = some 0 || (warpAt r.state r.warp).standing || t.cur.early)

/-- Whether the instruction of a ready warp ends in stages 1 to 3 (Table 21-1). -/
def endsEarly (ex : Instr → State → Host.Outcome State Fault Refusal) (r : Ready) : Bool :=
  match outState (issueOne ex r) with
  | none => false
  | some t => t.cur.early

/-- The walks and the cold text that a held instruction asked for are kept (R117, R325). -/
def keepWalks (ex : Instr → State → Host.Outcome State Fault Refusal) (r : Ready) (s : State) : State :=
  match outState (issueOne ex r) with
  | none => s
  | some t =>
    if t.cur.held then
      let w := warpAt t r.warp
      putWarp s r.warp { warpAt s r.warp with walks := w.walks, coldFor := w.coldFor }
    else s

/-! ### Ports -/

/-- A port of a core. -/
def portAt (s : State) (core port : Nat) : Port := (coreAt s core).ports.getD port {}
/-- The core with a port replaced. -/
def putPort (s : State) (core port : Nat) (p : Port) : State :=
  let c := coreAt s core
  putCore s core { c with ports := (List.range 2).map fun j => if j = port then p else c.ports.getD j {} }

/-- The latches of the warp that last issued on a port are emptied in native mode (R83). -/
def lapseLatches (s : State) (p : Port) : State :=
  match p.last with
  | none => s
  | some k => let w := warpAt s k; if w.native && !w.exited then putWarp s k (emptyLatches w) else s

/-- A packet hold that no longer fits ends early: the warp has parked, trapped or stopped, no run of it stands at a later slot of the
packet, or the run that it issues next, its count at 64, stands elsewhere (R69). -/
def holdBroken (s : State) (p : Port) : Bool :=
  match p.hold with
  | none => false
  | some k =>
    let w := warpAt s k
    let later := fun e : PcEntry => decide (pktOf e.pc = pktOf p.holdPkt) && decide (slotOf p.holdPkt < slotOf e.pc)
    !mayRun s k || w.detected ≠ [] || !((runsOf w).any fun e => e.park.isNone && later e)
      || (match chosenRun (runsOf w) with
        | none => true
        | some e => e.count = 64 && !later e)

/-- A bind that no longer fits lapses: the warp has parked, trapped or stopped (R72). -/
def bindBroken (s : State) (p : Port) : Bool :=
  match p.bound with
  | none => false
  | some k => let w := warpAt s k; !mayRun s k || w.detected ≠ [] || (runsOf w).all fun e => e.park.isSome

/-- The port after holds and binds that have ended (R69, R72). -/
def tidyPort (s : State) (core port : Nat) : State :=
  let p := portAt s core port
  if holdBroken s p || bindBroken s p then
    lapseLatches (putPort s core port { p with hold := none, bound := none, nbound := 0 }) p
  else s

/-- The last slot that an instruction takes part in: a REP issues with its target (R172). -/
def doneSlot (c : Cur) (i : Slot) : Nat :=
  match i with
  | .instr (.rep _ _ _ _ _) | .resume _ => c.slot + 1
  | _ => c.slot

/-- Iterations of a REP after its first count as issues (R172): how many, of one that issued at aclk t. -/
def repTail (w : Warp) (t : Nat) : Nat :=
  match w.rep with
  | some r => if r.start = t && !r.stopped then r.steps.length - 1 else 0
  | none => 0

/-- The debugger's marks after an issue: a skipped breakpoint is used up (R429), a stepped instruction has issued (R431). -/
def afterDebug (s : State) (k : Nat) : State :=
  let cn := (teamAt s (warpAt s k).team).ctx
  let c := ctxAt s cn
  if c.bpSkip = [] && c.stepping.isNone then s
  else putCtx s cn { c with
    bpSkip := c.bpSkip.filter fun x => x.1 ≠ k
    stepping := c.stepping.map fun x => if x.1 = k then (k, s.time + 1) else x
    stepRun := match c.stepping with
      | some x => if x.1 = k then s.cur.mask else c.stepRun
      | none => c.stepRun }

/-- The port and the warp after an issue (R69, R70, R72, R73). -/
def afterIssue (s : State) (c : Cur) (t : Nat) (slot : Slot) : State :=
  let k := c.warp
  let s := afterDebug s k
  let w := warpAt s k
  let p := portAt s c.core c.port
  let done := doneSlot c slot
  let final := decide (lastStart c.slots ≤ done)
  let rep := match slot with
    | .instr (.rep _ _ _ _ _) | .resume _ => w.rep
    | _ => w.rep.filter (·.stopped)
  let tail := repTail w t
  let w := { w with rep := rep, lastIssue := some (t + tail), passed := 0, since := t, pktPorts := begun w c, walked := [] }
  let bind := w.native && bit c.ctl 21 && p.yielded ≠ some k
  let n := p.nbound + 1
  let s := putWarp s k w
  let p := { p with
    last := some k, picked := some k, bound := none, hold := none
    yielded := if final && w.native && bit c.ctl 22 && !bit c.ctl 21 then some k else p.yielded }
  if w.exited || !w.native then putPort s c.core c.port { p with nbound := 0 }
  else if !final then
    let next := (nextStart c.slots (done + 1)).getD 2
    putPort s c.core c.port
      { p with nbound := p.nbound, hold := some k, holdPkt := slotPc c.pkt done
               holdAt := t + tail + 1 + (fld c.ctl (12 + 3 * next) 3).toNat }
  else if bind && n < 8 then putPort s c.core c.port { p with bound := some k, boundAt := t, nbound := n }
  else if bind then lapseLatches (putPort s c.core c.port { p with nbound := 0 }) p
  else putPort s c.core c.port { p with nbound := 0 }

/-- A warp other than the last one issues on a port: in native mode the last one's latches are emptied (R72, R83). -/
def switchWarp (s : State) (core port k : Nat) : State :=
  let p := portAt s core port
  if p.last = some k then s else lapseLatches s p

/-- The passed-over counts after a free selection (R74). A wide warp is not counted, with a standing grant as without: the pseudocode
of R74 says so, and the bounds of R47 and R48 for it are those of its tokens (log 35). -/
def passOver (s : State) (pick : Nat) (elig : List Ready) : State :=
  elig.foldl (fun s r =>
    if r.warp = pick then s
    else
      let w := warpAt s r.warp
      putWarp s r.warp { w with passed := if r.price.isNone then w.passed + 1 else w.passed }) s

/-- An issue opportunity of a port uses up its yield (R73). -/
def useYield (s : State) (core port : Nat) : State :=
  let p := portAt s core port
  if p.yielded.isNone then s else putPort s core port { p with yielded := none }

/-- The warps that a port may select now: the one it is held for or bound to, or every warp of the core (R69, R72, R74). -/
def portWarps (s : State) (core port : Nat) : List Nat × Bool :=
  let p := portAt s core port
  match p.hold, p.bound with
  | some k, _ => ([k], false)
  | none, some k => ([k], false)
  | none, none => (coreWarps s core, true)

/-- Every warp of a list looked at, in turn. -/
def lookAll (core port : Nat) : List Nat → State → State × List Nat
  | [], s => (s, [])
  | k :: ks, s =>
    let r := look s core port k
    let t := { r.1 with cur := s.cur }
    let x := lookAll core port ks t
    match r.2 with
    | some _ => (x.1, k :: x.2)
    | none => x

/-- Before tokens are arbitrated, every warp of some ports whose next instruction is wide is marked as one that claims or one whose
instruction would end in stages 1 to 3 (R287, Table 21-1). -/
def markEarly (ex : Instr → State → Host.Outcome State Fault Refusal) (cores : List Nat) (s : State) : State :=
  (cores.flatMap fun c => [(c, 0), (c, 1)]).foldl (fun s p =>
    (portWarps s p.1 p.2).1.foldl (fun s k =>
      match (look s p.1 p.2 k).2 with
      | none => s
      | some r =>
        let e := r.price.isSome && endsEarly ex r
        if e = (warpAt s k).early then s else putWarp s k { warpAt s k with early := e }) s) s

/-- A REP whose last iteration has still to issue occupies its port (R172, log 11). -/
def repBusy (s : State) (core port : Nat) : Bool :=
  match (portAt s core port).last with
  | none => false
  | some k =>
    match (warpAt s k).rep with
    | none => false
    | some r => !r.stopped && r.cur.core = core && r.cur.port = port && decide (aclkAt s core < r.start + r.steps.length)

/-- An issue opportunity of a port, or the turn of the warp it is held for or bound to (R69 to R74). -/
def issuePort (ex : Instr → State → Host.Outcome State Fault Refusal) (core port : Nat) (s : State) :
    Host.Outcome State Fault Refusal :=
  if repBusy s core port then .next s
  else
  let s := tidyPort s core port
  let ws := portWarps s core port
  let x := lookAll core port ws.1 s
  let s := x.1
  let ready := x.2.filterMap fun k => (look s core port k).2
  let elig := ready.filter (eligible ex)
  let s := (ready.filter fun r => !eligible ex r).foldl (fun s r => keepWalks ex r s) s
  let forced := if ws.2 then elig.filter fun r => 16 ≤ (warpAt s r.warp).passed else []
  let y := (portAt s core port).yielded
  let s := if ws.2 then useYield s core port else s
  match bestOf s y (if forced = [] then elig else forced) with
  | none => .next s
  | some r =>
    let s := if ws.2 then passOver s r.warp elig else s
    let s := switchWarp s core port r.warp
    let st := { s with cur := r.state.cur }
    let t := now st
    match issueOne ex { r with state := st } with
    | .next u => .next (afterIssue u r.state.cur t r.slot)
    | o => o

end Sys2Proof.Machine
end

