-- ==== Sys2Proof/Machine/Place.lean ====
section
/-!
DEFINITION. Teams on cores: the resources that they hold and return (R29, R30, R59, R62, R63), the state of a warp at first issue
(R55), and the choice among grids (R57, R59).
-/
namespace Sys2Proof.Machine
open Sys2Proof

/-- A team holds resources of its core: every team but a saved one and one whose resources have returned (R63). -/
def holdsCore (t : Team) : Bool := t.status ≠ .saved && t.status ≠ .released
/-- A team holds resources of a core. -/
def onCore (t : Team) (core : Nat) : Bool := t.core = core && holdsCore t
/-- The teams on a core. -/
def coreTeams (s : State) (core : Nat) : List (Nat × Team) := s.teams.filter fun t => onCore t.2 core
/-- Warp places in use on a core (R29). -/
def warpPlaces (s : State) (core : Nat) : Nat := (coreTeams s core).foldl (fun n t => n + t.2.nwarps) 0
/-- The lowest free team place of a core (R59). -/
def freePlace (s : State) (core : Nat) : Option Nat :=
  (List.range 8).find? fun p => !(coreTeams s core).any fun t => t.2.place = p
/-- A core has room for a team of so many warps, blocks, points and bytes (R59), and is not being reset. -/
def roomFor (s : State) (core warps blocks bars tileb : Nat) : Bool :=
  let c := coreAt s core
  !isResetting s core && (freePlace s core).isSome && warpPlaces s core + warps ≤ 16 && blocks ≤ c.free && bars ≤ c.bars && tileb ≤ c.tileFree
/-- A core has room for a team of a record (R59). -/
def fitsTeam (s : State) (core : Nat) (r : List Byte) : Bool :=
  roomFor s core (recWarps r) (recWarps r * recRegb r) (recBars r) (recTileb r)

/-- The state of warp k of a team of a record at its first issue (R28, R53, R55); `seed` comes from the random source. -/
def firstWarp (team k : Nat) (r : List Byte) (seed : Word) : Warp :=
  let m := lowMask (Nat.min 64 (recThreads r - 64 * k))
  { team := team, wid := k, lanes := m, blocks := recRegb r, launched := recRegb r
    g := (List.range 8).foldl (fun g j => aset 0#64 g j (w64 (recField r (0xC0 + 8 * j) 8))) []
    fs := (List.range 8).map fun j => w64 (recField r (0x80 + 8 * j) 8)
    ql := List.replicate 8 {}
    pcs := [{ pc := slotPc (w64 (recField r 0x20 8)) 0, mask := m }]
    seed := seed, native := recField r 0x16 2 = Config.stepping }

/-- The key of a grid in a core's counters (R62). -/
def gridKey (ctx entry : Nat) : Nat := 1024 * ctx + entry

/-- A core's counter for a grid rises, with the sequence number of the team sent (R62, R64). -/
def countUp (c : Core) (key seq : Nat) : Core :=
  match c.counts.find? fun x => x.1 = key with
  | some x => { c with counts := c.counts.map fun y => if y.1 = key then (key, x.2.1 + 1, seq) else y }
  | none => { c with counts := c.counts ++ [(key, 1, seq)] }

/-- A team of a grid is made resident on a core (R55, R59, R64). -/
def makeTeam (s : State) (ctx : Nat) (g : Grid) (core place : Nat) : State :=
  let r := g.record
  let n := recWarps r
  let x := freshId s
  let t := x.1
  let team : Team :=
    { ctx := ctx, grid := g.entry, index := g.next, core := core, place := place, nwarps := n, tileb := recTileb r
      bars := List.replicate (recBars r) {}, age := t }
  let s := (List.range n).foldl (fun s k =>
    let f := freeValue s
    putWarp f.2 (warpKey t k) { firstWarp t k r f.1 with since := aclkAt s core }) (putTeam x.2 t team)
  let c := coreAt s core
  let seq := g.seqNo + 1
  let c := countUp { c with
    free := c.free - n * recRegb r, bars := c.bars - recBars r, tileFree := c.tileFree - recTileb r } (gridKey ctx g.entry) seq
  let g := { g with next := g.next + 1, seqNo := seq, cores := aput g.cores core seq }
  putCtx (putCore s core c) ctx (setGrid (ctxAt s ctx) g)

/-- A grid has started dispatch and has teams to create (R56, R64). -/
def hasTeams (g : Grid) : Bool := g.started && !g.retired && g.next < recTeams g.record

/-- A context whose grids may be dispatched: ready, resident, not stopped. -/
def dispatchable (s : State) (c : Ctx) : Bool :=
  c.enabled && c.resident && !c.stopped && c.faulted.isNone && !c.halted && !c.inSwitch && s.devstat = 1

/-- A grid of a context ranks before another (R59): higher priority, then earlier created. -/
def gridBefore (a b : Grid) : Bool := b.prio < a.prio || (a.prio = b.prio && a.serial < b.serial)

/-- Teams of a co-resident grid placed, each on the first core of the share with room that `may` allows; none if one has no place
(R57). -/
def placeAll (may : State → Nat → Bool) (ctx entry : Nat) : Nat → State → Option State
  | 0, s => some s
  | n + 1, s =>
    let c := ctxAt s ctx
    match gridOf c entry with
    | none => none
    | some g =>
      match (List.range (Config.reticles * Config.coresPerReticle)).find? fun k =>
          inShare s c k && fitsTeam s k g.record && may s k with
      | none => none
      | some k => placeAll may ctx entry n (makeTeam s ctx g k ((freePlace s k).getD 0))

/-- The cores of the share would take a team of a grid now, or the whole of a co-resident one, were no other grid waiting (R57, R59). -/
def hasPlace (s : State) (cn : Nat) (g : Grid) : Bool :=
  let c := ctxAt s cn
  if recCor g.record then g.next = 0 && (placeAll (fun _ _ => true) cn g.entry (recTeams g.record) s).isSome
  else (List.range (Config.reticles * Config.coresPerReticle)).any fun k => inShare s c k && fitsTeam s k g.record

/-- Some grid that competes for a core ranks before a grid (R59). A co-resident one competes once it can be placed whole (R57, log 36). -/
def outranked (s : State) (core : Nat) (g : Grid) : Bool :=
  s.ctxs.any fun c => dispatchable s c.2 && inShare s c.2 core
    && c.2.grids.any fun h => hasTeams h && gridBefore h g && fitsTeam s core h.record && (!recCor h.record || hasPlace s c.1 h)

/-- A co-resident grid of the context waits for its place, and holds freed resources against a grid: every other grid of equal or
lower priority, but for a co-resident one that ranks before it (R57, R59, log 36). -/
def corHolds (c : Ctx) (g : Grid) : Bool :=
  c.grids.any fun h => recCor h.record && h.started && h.next = 0 && hasTeams h && h.entry ≠ g.entry
    && (if recCor g.record then gridBefore h g else decide (g.prio ≤ h.prio))

/-- TEAM_PLACE: the next team of a grid is made resident on a core of the share that is free for it; a co-resident grid is
placed whole (R57, R59). -/
def execTeamPlace (ctx grid core : Nat) (s : State) : Host.Outcome State Fault Refusal :=
  .next (
    let c := ctxAt s ctx
    match gridOf c grid with
    | none => s
    | some g =>
      if !hasTeams g || !dispatchable s c || !inShare s c core || !fitsTeam s core g.record || outranked s core g then s
      else if corHolds c g then s
      else if recCor g.record then
        (if g.next = 0 then (placeAll (fun s k => !outranked s k g) ctx grid (recTeams g.record) s).getD s else s)
      else makeTeam s ctx g core ((freePlace s core).getD 0))

/-! ### The end of a team -/

/-- Engine work of a team is under way (R63). -/
def engineWork (s : State) (t : Nat) : Bool :=
  let c := coreAt s (teamAt s t).core
  (s.cores.any fun d => d.2.reqs.any fun r => r.team = t) || ((c.queue ++ c.waiting).any fun x => x.team = t) || (c.chains.any fun x => x.team = t)

/-- Accesses of a team have still to take effect (R62). -/
def teamAccs (s : State) (t : Nat) : Bool :=
  (s.accs.any fun a => a.2.warp / 16 = t) || s.squ.any fun r => r.warp / 16 = t

/-- The resources of a team return to its core (R30, R68). -/
def freeTeam (s : State) (t : Nat) : State :=
  let x := teamAt s t
  let blocks := (teamWarps t x).foldl (fun n k => n + (warpAt s k).blocks) 0
  let c := coreAt s x.core
  let s := putCore s x.core { c with
    bars := c.bars + x.bars.length, tileFree := c.tileFree + x.tileb
    table := c.table.filter fun e => !tileOwned e.2 x.place
    accTeam := c.accTeam.filter fun a => a.2 ≠ t, accs := c.accs.filter fun a => !x.accs.contains a.1
    allocs := c.allocs.filter fun a => a.warp / 16 ≠ t }
  giveBlocks s x.core blocks

/-- A core's counter for a grid falls; at 0 the core sends a drained report (R62). -/
def countDown (s : State) (core ctx entry : Nat) : State :=
  let c := coreAt s core
  let key := gridKey ctx entry
  match c.counts.find? fun x => x.1 = key with
  | none => s
  | some x =>
    if x.2.1 ≤ 1 then
      { putCore s core { c with counts := c.counts.filter fun y => y.1 ≠ key } with
        agenda := .event (.drainedReport core ctx entry x.2.2) :: s.agenda }
    else putCore s core { c with counts := c.counts.map fun y => if y.1 = key then (key, x.2.1 - 1, x.2.2) else y }

/-- A team and its warps leave the machine. -/
def dropTeam (s : State) (t : Nat) : State :=
  { s with teams := aerase s.teams t, warps := s.warps.filter fun w => w.2.team ≠ t }

/-- After a child's team has exited, the teams pre-empted for a child may return (R35). -/
def childLeft (s : State) (ctx grid : Nat) : State :=
  match (gridOf (ctxAt s ctx) grid).bind (·.parent) with
  | none => s
  | some _ => { s with teams := s.teams.map fun t =>
      if t.2.ctx = ctx && t.2.reason = 1 then (t.1, { t.2 with reason := 0 }) else t }

/-- An exited team whose engine work is done returns its resources (R30, R63). -/
def returnTeam (s : State) (team : Nat) : State :=
  let x := teamAt s team
  let s := freeTeam s team
  childLeft (putTeam s team { teamAt s team with status := .released }) x.ctx x.grid

/-- What a team has stored has still to perform at the scope of its grid, or a fault of its work has still to be taken (R62). -/
def teamOpen (s : State) (team : Nat) : Bool :=
  teamAccs s team || anyCollapsing s || (teamWarps team (teamAt s team)).any fun k => (warpAt s k).detected ≠ []

/-- TEAM_RELEASE: an exited team returns its resources once its engine work is done (R63), and its core's counter falls once its stores
have performed too (R62). -/
def execTeamRelease (team : Nat) (s : State) : Host.Outcome State Fault Refusal :=
  .next (
    let s := if (teamAt s team).status = .exited && !engineWork s team then returnTeam s team else s
    let x := teamAt s team
    if x.status ≠ .released || teamOpen s team then s
    else countDown (dropTeam s team) x.core x.ctx x.grid)

/-- DRAINED_REPORT: the dispatcher takes a report unless a later team has been sent to the core (R62, R64). -/
def execDrainedReport (core ctx grid seq : Nat) (s : State) : Host.Outcome State Fault Refusal :=
  .next (
    let c := ctxAt s ctx
    match gridOf c grid with
    | none => s
    | some g =>
      if afind g.cores core = some seq then putCtx s ctx (setGrid c { g with cores := aerase g.cores core }) else s)

/-! ### Residency of children -/

/-- Every run of every warp of a team is parked (R35). -/
def allParked (s : State) (t : Nat) : Bool :=
  (teamWarps t (teamAt s t)).all fun k =>
    let w := warpAt s k
    w.exited || (w.handler.isNone && w.detected = [] && w.pcs.all fun e => e.park.isSome)

/-- The parked teams of a context within its share, youngest first wanted: the youngest (R35). -/
def youngestParked (s : State) (ctx : Nat) : Option Nat :=
  let ts := s.teams.filter fun t => t.2.ctx = ctx && t.2.status = .resident && allParked s t.1
  match ts with
  | [] => none
  | x :: xs => some (xs.foldl (fun a t => if a.2.age < t.2.age then t else a) x).1

/-- The teams that are pre-empted with a team: those of its co-resident grid (R298). -/
def withCor (s : State) (t : Nat) : List Nat :=
  let x := teamAt s t
  if recCor (recordOf s x) then
    (s.teams.filter fun y => y.2.ctx = x.ctx && y.2.grid = x.grid && y.2.status = .resident).map (·.1)
  else [t]

/-- The parked teams of a context hold what a grid lacks: with their resources returned it would have a place (R35). -/
def parkedHold (s : State) (cn : Nat) (g : Grid) : Bool :=
  let ts := (s.teams.filter fun t => t.2.ctx = cn && t.2.status = .resident && allParked s t.1).map (·.1)
  hasPlace (ts.foldl (fun s t => let s := freeTeam s t; putTeam s t { teamAt s t with status := .released }) s) cn g

/-- A team of a context that was pre-empted for a child is still being saved (R35). -/
def savesForChild (s : State) (cn : Nat) : Bool := s.teams.any fun t => t.2.ctx = cn && t.2.status = .saving && t.2.reason = 1

/-- CHILD_RESIDENCY_PREEMPT: with no place for a child's team because parked teams of its context hold what it lacks, the youngest of
them is pre-empted, one after another until a child's team has a place (R35). -/
def execChildResidencyPreempt (ctx grid : Nat) (s : State) : Host.Outcome State Fault Refusal :=
  .next (
    let c := ctxAt s ctx
    match gridOf c grid with
    | none => s
    | some g =>
      if g.parent.isNone || !hasTeams g || !dispatchable s c || savesForChild s ctx || hasPlace s ctx g || !parkedHold s ctx g then s
      else
        match youngestParked s ctx with
        | none => s
        | some t =>
          let ts := withCor s t
          let s := ts.foldl (fun s t => putTeam s t { teamAt s t with reason := 1 }) s
          { s with agenda := ts.map (fun t => Todo.event (.preemptRequest t)) ++ s.agenda })

end Sys2Proof.Machine
end

