-- ==== Sys2Proof/Machine/Queues.lean ====
section
/-!
DEFINITION. The dispatcher: doorbells and record rings (R319, R320, R52), queues and dependences (R56, R58), and the retirement of
grids (R33, R65).
-/
namespace Sys2Proof.Machine
open Sys2Proof

/-- A queue of a context. -/
def queueAt (c : Ctx) (q : Nat) : Queue := aget {} c.queues q
/-- The context with a queue replaced. -/
def putQueue (c : Ctx) (q : Nat) (x : Queue) : Ctx := { c with queues := aput c.queues q x }
/-- A queue of a context of the state replaced. -/
def setQueue (s : State) (ctx q : Nat) (x : Queue) : State := putCtx s ctx (putQueue (ctxAt s ctx) q x)

/-- A doorbell write takes effect (R320): one below WRITE or beyond the ring is ignored whole, and reported
(DOORBELL_IGNORED). -/
def ringDoorbell (s : State) (ctx q value : Nat) : State :=
  let x := queueAt (ctxAt s ctx) q
  if value < x.write || x.read + 2 ^ x.log2n < value then
    report s { cause := 0xAD, sev := 1, engine := deviceEngine 13 0, ctx := ctx, syn := w64 value }
  else setQueue s ctx q { x with write := value }

/-- A write of WRITE: one to a context that is not resident is held (R311), one before bring-up step 5 updates WRITE (R328), and a
device that is held serves none (R420). -/
def writeDoorbell (s : State) (ctx queue value : Nat) : State :=
  let c := ctxAt s ctx
  if 32 ≤ queue || 64 ≤ ctx || s.devstat = 2 then s
  else if c.enabled && !c.resident then putCtx s ctx { c with held := c.held ++ [(queue, value)] }
  else ringDoorbell s ctx queue value

/-- DOORBELL: the host writes WRITE (R320). -/
def execDoorbell (ctx queue value : Nat) (s : State) : Host.Outcome State Fault Refusal := .next (writeDoorbell s ctx queue value)

/-- A write of CTL (Table 15-3); clearing ENABLE ends a stop (R376, log 30). -/
def writeEnable (s : State) (ctx queue value : Nat) : State :=
  let c := ctxAt s ctx
  let x := queueAt c queue
  if !c.enabled || 32 ≤ queue then s
  else
    let on := value % 2 = 1
    setQueue s ctx queue { x with enable := on, stopped := x.stopped && on }

/-- QUEUE_ENABLE: the host writes CTL (Table 15-3). -/
def execQueueEnable (ctx queue value : Nat) (s : State) : Host.Outcome State Fault Refusal := .next (writeEnable s ctx queue value)

/-- A write of SKIP: the stopped record is discarded (Table 15-3). -/
def writeSkip (s : State) (ctx queue value : Nat) : State :=
  let x := queueAt (ctxAt s ctx) queue
  if value = 1 && x.stopped && (ctxAt s ctx).enabled then
    setQueue s ctx queue { x with stopped := false, read := x.read + 1 }
  else s

/-- QUEUE_SKIP: the host writes SKIP (Table 15-3). -/
def execQueueSkip (ctx queue value : Nat) (s : State) : Host.Outcome State Fault Refusal := .next (writeSkip s ctx queue value)

/-- The dispatcher's own number as an agent: no warp. -/
def noWarp : Nat := 2 ^ 60
/-- The part of a page's record that the dispatcher fills (R398). -/
def dispRecord (ctx : Nat) : Record := { engine := walkEngine 0, ctx := ctx }

/-- The dispatcher of a context as an agent. -/
def dispAgent (ctx : Nat) : Agent := { who := noWarp + ctx, warp := noWarp, reticle := 0 }

/-- n bytes read by the dispatcher with acquire, line by line. -/
def dispRead (s : State) (ctx : Nat) (va : Word) (n : Nat) : Ag (List Byte × State) :=
  (List.range (cdiv n 128)).foldl (fun (acc : Ag (List Byte × State)) j =>
    match acc with
    | .ok (bs, s) =>
      (match agRead s ctx (dispAgent ctx) (va + w64 (128 * j)) (Nat.min 128 (n - 128 * j)) with
      | .ok (b, s) => .ok (bs ++ b, s)
      | x => x)
    | x => x) (.ok ([], s))

/-- A queue stops at its record (R52, R376). -/
def stopQueue (s : State) (ctx q cause syn : Nat) (addr : Word) : State :=
  let x := queueAt (ctxAt s ctx) q
  report (setQueue s ctx q { x with stopped := true })
    { cause := cause, sev := 1, action := 1, flags := 1, engine := deviceEngine 13 0, ctx := ctx, addr := addr.toNat
      syn := w64 (syn + 256 * q) }

/-- A walk of the dispatcher that fails for every access alike faults the context: MALFORMED_PTE, WALK_POISON and REMOTE_CODE
(R401), and ROOT_INVALID (Table 20-6). -/
def walkFaults (cause : Nat) : Bool := cause = 0x34 || cause = 0x35 || cause = 0x3B || cause = 0x3F

/-- The context is faulted by such a walk. -/
def walkFault (s : State) (ctx cause : Nat) (a syn : Word) : State :=
  faultCtxWith s ctx
    { cause := cause, flags := if cause = 0x3B then 0 else 1, engine := walkEngine 0, addr := if cause = 0x3B then 0 else a.toNat, syn := syn }

/-- A dispatcher access that failed: the context is faulted by its walk, else `other` says what follows. -/
def dispFail (s : State) (ctx cause : Nat) (a syn : Word) (other : State) : State :=
  if walkFaults cause then walkFault s ctx cause a syn else other

/-- The dependences of a record that are satisfied without a read, as bits (R56). -/
def depBits (r : List Byte) : Nat := b2n (recField r 0x40 8 = 0) + 2 * b2n (recField r 0x50 8 = 0)

/-- QUEUE_RECORD_COPY: the next record of a queue is copied and checked (R51, R52, R320). -/
def execQueueRecordCopy (ctx queue : Nat) (s : State) : Host.Outcome State Fault Refusal :=
  .next (
    let c := ctxAt s ctx
    let x := queueAt c queue
    if !dispatchable s c || !x.enable || x.stopped || x.write ≤ x.read then s
    else
      let va := x.ring + w64 (256 * (x.read % 2 ^ x.log2n))
      match dispRead s ctx va 256 with
      | .wait p => agWait s ctx p (dispRecord ctx)
      | .busy s => s
      | .fail cause a y => dispFail s ctx cause a y (stopQueue s ctx queue 0xA1 cause va)
      | .ok (bs, s) =>
        match recordBad s (ctxAt s ctx) bs with
        | some o => stopQueue s ctx queue 0xA0 o va
        | none => setQueue s ctx queue { x with read := x.read + 1, pending := x.pending ++ [(bs, depBits bs)] })

/-- The grid that the record before created has retired, or none has (R56). -/
def lastRetired (c : Ctx) (x : Queue) : Bool :=
  match x.lastGrid with
  | none => true
  | some n => !c.grids.any fun g => g.serial = n

/-- A grid of no team has nothing to place. -/
def startedGrid (g : Grid) : Grid := { g with started := true }

/-- What the launching team of a grid accessed before its LAUNCH has performed at .device (R66, Table 7-5). -/
def launchSeen (s : State) (g : Grid) : Bool := (g.after.all fun a => (accAt s a).isNone) && !anyCollapsing s

/-- GRID_DISPATCH_START: the record at the head of a queue, or the grid of entry src - 32 that LAUNCH created, starts
dispatch once it is eligible (R56), and a LAUNCH's after what precedes it (Table 7-5, log 10). -/
def execGridDispatchStart (ctx src : Nat) (s : State) : Host.Outcome State Fault Refusal :=
  .next (
    let c := ctxAt s ctx
    if !dispatchable s c then s
    else if 32 ≤ src then
      match gridOf c (src - 32) with
      | none => s
      | some g => if g.started || !g.deps.all (· = true) || !launchSeen s g then s else putCtx s ctx (setGrid c (startedGrid g))
    else
      let x := queueAt c src
      match x.pending, freeEntry c with
      | (r, deps) :: rest, some e =>
        if deps ≠ 3 || (recAfter r && !lastRetired c x) then s
        else
          let i := freshId s
          let g := startedGrid (newGrid e i.1 src 1 x.prio none r)
          let c := putQueue c src { x with pending := rest, lastGrid := some i.1 }
          putCtx i.2 ctx { c with grids := c.grids ++ [g] }
      | _, _ => s)

/-- A dependence word of a record: what its read says (R58). -/
def readDep (s : State) (ctx : Nat) (r : List Byte) (dep : Nat) : Ag (Bool × State) :=
  match dispRead s ctx (w64 (recField r (0x40 + 16 * dep) 8)) 8 with
  | .ok (bs, s) => .ok (decide (recField r (0x48 + 16 * dep) 8 ≤ leVal bs), s)
  | .wait p => .wait p
  | .busy s => .busy s
  | .fail c a y => .fail c a y

/-- A signal or dependence word that faults (SIGNAL_ADDR). -/
def signalFault (s : State) (ctx which : Nat) (a : Word) : State :=
  faultCtxWith s ctx { cause := 0x4F, flags := 1, engine := deviceEngine 13 0, addr := a.toNat, syn := w64 which }

/-- A dependence of the pending record at a position of a queue read again (R58). -/
def rereadPending (s : State) (ctx src dep j : Nat) : State :=
  let x := queueAt (ctxAt s ctx) src
  match x.pending.drop j with
  | [] => s
  | (r, deps) :: _ =>
    if deps / 2 ^ dep % 2 = 1 then s
    else
      match readDep s ctx r dep with
      | .wait p => agWait s ctx p (dispRecord ctx)
      | .busy s => s
      | .fail c a y => dispFail s ctx c a y (signalFault s ctx (dep + 1) a)
      | .ok (false, s) => s
      | .ok (true, s) =>
        setQueue s ctx src { x with pending := x.pending.take j ++ (r, deps + 2 ^ dep) :: x.pending.drop (j + 1) }

/-- DEPENDENCE_REREAD: the dispatcher reads a watched word again; once satisfied, a dependence stays so (R58). -/
def execDependenceReread (ctx src dep : Nat) (s : State) : Host.Outcome State Fault Refusal :=
  .next (
    let c := ctxAt s ctx
    if !dispatchable s c || 2 ≤ dep then s
    else if 32 ≤ src then
      match gridOf c (src - 32) with
      | none => s
      | some g =>
        if g.started || g.deps.getD dep true then s
        else
          match readDep s ctx g.record dep with
          | .wait p => agWait s ctx p (dispRecord ctx)
          | .busy s => s
          | .fail c a y => dispFail s ctx c a y (signalFault s ctx (dep + 1) a)
          | .ok (false, s) => s
          | .ok (true, s) =>
            putCtx s ctx (setGrid (ctxAt s ctx) { g with deps := (List.range 2).map fun k => k = dep || g.deps.getD k true })
    else (List.range (queueAt c src).pending.length).foldl (fun s j => rereadPending s ctx src dep j) s)

/-! ### Retirement -/

/-- A grid has met the conditions of R33 and R64. -/
def gridOver (g : Grid) : Bool :=
  g.started && !g.retired && recTeams g.record ≤ g.next && g.cores = [] && g.children = 0

/-- The completion signal: an atomic add of SIGADD (R65); at another device, a request to the owner of the word (R323). -/
def fireSignal (s : State) (ctx : Nat) (r : List Byte) : Ag State :=
  let va := w64 (recField r 0x30 8)
  if va = 0#64 then .ok s
  else
    match agPa s ctx .write va with
    | .wait p => .wait p
    | .busy s => .busy s
    | .fail c a y => .fail c a y
    | .ok (pa, e) =>
      if leafDev e ≠ s.devnum then .ok (sendAgent s 0 (leafDev e) va 0 false)
      else if let some c := poisonCause s pa true then .fail c va 0#64
      else agWrite s ctx (dispAgent ctx) va (bytesOf 8 (memVal s.mem pa 8 + recField r 0x38 8))

/-- The grid's entry is freed, and its parent counts one child fewer (R33, R65). -/
def freeGrid (s : State) (ctx : Nat) (g : Grid) : State :=
  let c := ctxAt s ctx
  let c := { c with grids := c.grids.filter fun x => x.entry ≠ g.entry }
  let c := match g.parent.bind (gridOf c) with
    | some p => setGrid c { p with children := p.children - 1 }
    | none => c
  putCtx s ctx c

/-- GRID_RETIRE: a grid that is over performs its release, fires its signal, and frees its entry (R33, R65). -/
def execGridRetire (ctx grid : Nat) (s : State) : Host.Outcome State Fault Refusal :=
  .next (
    let c := ctxAt s ctx
    match gridOf c grid with
    | none => s
    | some g =>
      if !gridOver g || !dispatchable s c || anyCollapsing s then s
      else
        match fireSignal s ctx g.record with
        | .wait p => agWait s ctx p (dispRecord ctx)
        | .busy s => s
        | .fail c a y => dispFail s ctx c a y (signalFault s ctx 0 a)
        | .ok s => freeGrid s ctx g)

end Sys2Proof.Machine
end

