-- ==== Sys2Proof/Machine/Waits.lean ====
section
/-!
DEFINITION. The ends of waits: sleeps and time slots (R202, R203), binds and packet holds (R69, R72), register grants (R67,
R68), sequence requests (R251), the end of a TRY region at COMMIT (R247, R151, R152), faults taken (R346, R353), and
breakpoints (R429).
-/
namespace Sys2Proof.Machine
open Sys2Proof

/-! ### Sleeps, slots, binds and holds -/

/-- SLEEP_WAKE: runs whose time has come unpark (R203). -/
def execSleepWake (warp : Nat) (s : State) : Host.Outcome State Fault Refusal :=
  let w := warpAt s warp
  let t := timeAt s (teamAt s w.team).core
  .next (putWarp s warp (wakeWarp (BitVec.allOnes 64) (fun p => match p with
    | .sleep x => decide (x ≤ t)
    | _ => false) w))

/-- TSYNC_WAKE: at the slot boundary the runs parked by TSYNC unpark (R202). -/
def execTsyncWake (warp : Nat) (s : State) : Host.Outcome State Fault Refusal :=
  let w := warpAt s warp
  let t := timeAt s (teamAt s w.team).core
  .next (putWarp s warp (wakeWarp (BitVec.allOnes 64) (fun p => match p with
    | .tsync x => decide (x ≤ t)
    | _ => false) w))

/-- BIND_LAPSE: the bound warp has not issued for 16 aclk; the port selects freely again (R72, R83). -/
def execBindLapse (core port : Nat) (s : State) : Host.Outcome State Fault Refusal :=
  let p := portAt s core port
  .next (if p.bound.isSome && p.boundAt + 16 < aclkAt s core then
      lapseLatches (putPort s core port { p with bound := none, nbound := 0 }) p
    else s)

/-- PACKET_HOLD_END: the next slot of a held packet has not issued for 16 aclk; the warp's latches empty (R69). -/
def execPacketHoldEnd (core port : Nat) (s : State) : Host.Outcome State Fault Refusal :=
  let p := portAt s core port
  .next (if p.hold.isSome && p.holdAt + 16 ≤ aclkAt s core then
      lapseLatches (putPort s core port { p with hold := none, bound := none, nbound := 0 }) p
    else s)

/-! ### Register grants -/

/-- A pending request is granted: the warp holds the blocks and its run wakes (R67, R199). -/
def grantBlocks (s : State) (a : AllocReq) : State :=
  putWarp s a.warp (wakeWarp a.run (fun p => p = .ralloc) (addBlocks (warpAt s a.warp) a.n))

/-- Requests granted from the general pool, oldest first, while the oldest fits (R67). -/
def grantLoop : Nat → State → Nat → State
  | 0, s, _ => s
  | fuel + 1, s, core =>
    let x := coreAt s core
    match x.allocs with
    | [] => s
    | a :: rest =>
      if (warpAt s a.warp).exited then grantLoop fuel (putCore s core { x with allocs := rest }) core
      else if a.n ≤ x.free then
        grantLoop fuel (grantBlocks (putCore s core { x with free := x.free - a.n, allocs := rest }) a) core
      else s

/-- RALLOC_GRANT: freed general blocks grant pending requests (R67). -/
def execRallocGrant (core : Nat) (s : State) : Host.Outcome State Fault Refusal := .next (grantLoop 32 s core)

/-- A warp is parked in RALLOC: every run is parked, one of them there (R68). -/
def parkedInRalloc (w : Warp) : Bool := w.pcs.all (fun e => e.park.isSome) && w.pcs.any fun e => e.park = some .ralloc

/-- The requests of a core would deadlock (R68). -/
def deadlocked (s : State) (core : Nat) : Bool :=
  let x := coreAt s core
  x.allocs ≠ [] && !x.granting && x.allocs.all (fun a => decide (x.free < a.n))
    && (coreWarps s core).all fun k => let w := warpAt s k; w.blocks ≤ w.launched || parkedInRalloc w

/-- EMERGENCY_GRANT: the oldest request takes the free blocks and as many of the emergency set as it needs (R68). -/
def execEmergencyGrant (core : Nat) (s : State) : Host.Outcome State Fault Refusal :=
  .next (
    let x := coreAt s core
    match x.allocs with
    | [] => s
    | a :: rest =>
      if !deadlocked s core || x.free + x.emerg < a.n then s
      else
        grantBlocks (putCore s core { x with
          free := 0, emerg := x.emerg - (a.n - x.free), granting := true, allocs := rest }) a)

/-! ### Sequence requests -/

/-- SQU_SERVE_REQUEST: the oldest ready request of its sequence is one step (R251); a page not present waits in the fault
queue, any other failure fails the request (R404). -/
def execSquServeRequest (req : Nat) (s : State) : Host.Outcome State Fault Refusal :=
  .next (match s.squ.find? fun x => x.id = req with
  | none => s
  | some r =>
    if !squTurn s r then s
    else
      match squStep s r with
      | .ok (o, t) => squDeliver t r o
      | .error .busy => s
      | .error (.wait p) =>
        agWait s (warpCtx s r.warp) p (threadRecord s r.warp (r.lane.getD (lowBit r.run)) r.pc 0#64 0#64)
      | .error (.fail c a y) => squFail s r c a y)

/-! ### The end of a region -/

/-- Bytes of a lane's buffered stores: the space, the address of the unit in it, and the mask. -/
def writeSet (t : Tx) (l : Nat) : List (Bool × Nat × Nat) :=
  (t.stores.filter fun e => e.lane = l).map fun e => (e.ts, if e.ts then e.addr else domainAddr e.dev e.pa, e.mask)
/-- Bytes that a lane has read. -/
def readSet (t : Tx) (l : Nat) : List (Bool × Nat × Nat) :=
  (t.reads.filter fun e => e.lane = l).map fun e => (false, domainAddr e.dev e.pa, e.mask)
/-- Two sets share a byte. -/
def setsMeet (a b : List (Bool × Nat × Nat)) : Bool :=
  a.any fun x => b.any fun y => x.1 = y.1 && x.2.1 = y.2.1 && x.2.2 &&& y.2.2 ≠ 0
/-- Lane j conflicts with the lower lane i (R247). -/
def lanesConflict (t : Tx) (i j : Nat) : Bool :=
  setsMeet (writeSet t j ++ readSet t j) (writeSet t i) || setsMeet (writeSet t j) (readSet t i)
/-- The lanes that lose, in ascending order against the lanes that survive (R247). -/
def losers (t : Tx) (ls : List Nat) : Word :=
  (ls.foldl (fun (x : List Nat × Word) j =>
    if x.1.any fun i => lanesConflict t i j then (x.1, x.2 ||| laneBit j) else (x.1 ++ [j], x.2)) ([], 0#64)).2

/-- The lines of this device that an instance needs, in ascending physical address, with whether it writes them (R247). -/
def leaseLines (s : State) (t : Tx) : List (Nat × Bool) :=
  let w := (t.stores.filter fun e => !e.ts && e.dev = s.devnum).map fun e => lineOf e.pa
  let r := (t.reads.filter fun e => e.dev = s.devnum).map fun e => lineOf e.pa
  ((w ++ r).foldl (fun (ls : List Nat) l => if ls.contains l then ls else (ls.filter (· < l)) ++ l :: ls.filter (l < ·)) []).map
    fun l => (l, w.contains l)

/-- A line may be leased, or written at the end of a region: it is not moving, no other instance leases it, and one that is to be
written is at rest without a replica (R247, R151). -/
def leasable (s : State) (k : Nat) (x : Nat × Bool) : Bool :=
  !leasedBy s k x.1 && match lineAt s x.1 with
  | some y => y.state ≠ .moving && (!x.2 || (y.state ≠ .collapsing && y.replicas = []))
  | none => true

/-- Leases granted in ascending physical address, from the first line not yet leased until one cannot be (R247). -/
def grantLeases (s : State) (k t : Nat) : List (Nat × Bool) → List (Nat × Nat) → List (Nat × Nat)
  | [], h => h
  | x :: xs, h =>
    if h.any (fun y => y.1 = x.1) then grantLeases s k t xs h
    else if leasable s k x then grantLeases s k t xs (h ++ [(x.1, t)]) else h

/-- Every line of the instance is ready for its stores. -/
def leasesFree (s : State) (k : Nat) (t : Tx) : Bool := (leaseLines s t).all fun x => leasable s k x

/-- Replicas of the lines that an instance writes begin to be invalidated (R151). -/
def collapseStores (s : State) (t : Tx) : State :=
  t.stores.foldl (fun s e => if e.ts || e.dev ≠ s.devnum then s else collapseLine s (lineOf e.pa)) s

/-- Lanes whose read set no longer holds (R247); of what another device owns, its owner tells, by a free value (log 5). -/
def stale (s : State) (t : Tx) (other : Word) : Word :=
  t.reads.foldl (fun m e =>
    if e.dev ≠ s.devnum then m ||| (laneBit e.lane &&& other)
    else if (List.range 16).any fun j => e.mask / 2 ^ j % 2 = 1 && memByte s.mem (e.pa + j) ≠ e.data.getD j 0#8 then
      m ||| laneBit e.lane
    else m) 0#64

/-- The causes of the buffered stores that their lines reject (R245, R404). -/
def rejected (s : State) (t : Tx) : List LaneCause :=
  t.stores.filterMap fun e =>
    if e.ts || e.dev ≠ s.devnum then none
    else (storeRejected s e.pa).map fun c => { lane := e.lane, cause := c, addr := some e.addr }

/-- The record of a lane that its region's abort saves (R356, R362). -/
def abortRecord (s : State) (k : Nat) (pc : Word) (c : LaneCause) : State :=
  let w := warpAt s k
  let tm := teamAt s w.team
  report s { cause := c.cause, sev := 1, action := 1, flags := 7, engine := coreEngine 0 tm.core, ctx := tm.ctx, warp := w.wid
             lane := c.lane, grid := tm.grid, team := tm.index, pc := pc.toNat, addr := c.addr.getD 0, syn := c.syn }

/-- A buffered store to a line of another device is sent to its owner, with the mask of its bytes (R244, R323): an access of no flag, so
that a later release of its thread waits for it. -/
def sendStore (s : State) (k : Nat) (pc : Word) (e : TxStore) : State :=
  let x := freshId s
  let l : LaneAcc := { lane := e.lane, va := w64 e.addr, pas := [e.pa], dev := e.dev, data := e.data, data2 := bytesOf 2 e.mask }
  let a : Acc := { id := x.1, warp := k, kind := .store, bytes := 16, pc := pc, run := laneBit e.lane, counted := false }
  let y := sendRemote x.2 a l
  putAcc y.1 { a with lanes := [y.2.1] }

/-- A buffered store performs (R151, R152). -/
def performStore (s : State) (k : Nat) (pc : Word) (e : TxStore) : State :=
  let w := warpAt s k
  let tm := teamAt s w.team
  let merge := fun old : List Byte => (List.range 16).map fun j =>
    if e.mask / 2 ^ j % 2 = 1 then e.data.getD j 0#8 else old.getD j 0#8
  if e.ts then
    putTeam s w.team { tm with tile := memWrite tm.tile e.addr (merge (memBytes tm.tile e.addr 16)) }
  else if e.dev ≠ s.devnum then sendStore s k pc e
  else if (storeRejected s e.pa).isSome || stackDead s e.pa then s
  else
    let s := placeLine s (lineOf e.pa)
    let s := homeWrite s (some (k, reticleOf tm.core)) false false false e.pa (merge (memBytes s.mem e.pa 16))
    watchpoint s k e.lane e.addr 16 false true

/-- The surviving lanes' stores perform in ascending lane order, and the region ends with code 0 (R247, R152). -/
def finishCommit (s : State) (k : Nat) : State :=
  let w := warpAt s k
  match w.tx with
  | none => s
  | some t =>
    let bad := rejected s t
    let s := lanes.foldl (fun s l => (t.stores.filter fun e => e.lane = l).foldl (fun s e => performStore s k t.endPc e) s) s
    let w := warpAt s k
    let w := setTstat w (txLanes w) fun _ => 0#32
    let w := wakeWarp (BitVec.allOnes 64) (fun p => match p with | .commit _ _ => true | _ => false) { w with tx := none, txAborts := 0 }
    let s := putWarp s k w
    if bad = [] then s
    else detect s k { pc := t.endPc, deferred := true, engine := coreEngine 0 (teamAt s w.team).core, lanes := bad }

/-- Every lane of the open instance has reached its ending COMMIT, and their earlier accesses have taken effect (R247, R151). -/
def commitReady (s : State) (k : Nat) : Bool :=
  let w := warpAt s k
  match w.tx with
  | none => false
  | some t =>
    t.reached ≠ 0#64 && t.reached = txLanes w && !t.held && w.detected = [] && accsDone s k (txLanes w) fun _ => true

/-- The aclk for which a slice grants a lease (R247). -/
def leaseTerm : Nat := 1024

/-- COMMIT_LEASES_HELD: the end of a region (R247, R152). Under COMMIT.G: conflicts, leases, validation, and the stores perform; under
COMMIT.L its stores perform once their lines are ready. A lease whose term has passed ends, and is asked for again. -/
def execCommitLeasesHeld (warp : Nat) (s : State) : Host.Outcome State Fault Refusal :=
  .next (match (warpAt s warp).tx with
  | none => s
  | some t =>
    if !commitReady s warp then s
    else
      let lost := if t.global && t.byG then losers t (lanesOf (txLanes (warpAt s warp))) else 0#64
      let s := if lost = 0#64 then s else txAbort s warp lost 2 0
      match (warpAt s warp).tx with
      | none => s
      | some t =>
        let ac := aclkAt s (teamAt s (warpAt s warp).team).core
        let held := t.leases.filter fun x => ac ≤ x.2 + leaseTerm
        let ls := leaseLines s t
        let held := if t.byG then grantLeases s warp ac ls held else []
        let s := putWarp s warp { warpAt s warp with tx := some { t with leases := held } }
        if !leasesFree s warp t || (t.byG && !ls.all fun x => held.any fun h => h.1 = x.1) then collapseStores s t
        else if unseen s (warpRet s warp) t.scope then s
        else
          let f := freeValue s
          let old := if t.byG then stale s t f.1 else 0#64
          let s := if t.byG && t.reads.any fun e => e.dev ≠ s.devnum then f.2 else s
          let s := if old = 0#64 then s else txAbort s warp old 3 0
          match (warpAt s warp).tx with
          | none => s
          | some t =>
            let s := if !t.byG then s
              else (rejected s t).foldl (fun s c =>
                if bit (txLanes (warpAt s warp)) c.lane then
                  abortRecord (txAbort s warp (laneBit c.lane) 6 0) warp t.endPc c
                else s) s
            finishCommit s warp)

/-- LEASE_TIMEOUT: leases not all held within 2,048 aclk of the COMMIT abort the surviving lanes with code 10 (R247). -/
def execLeaseTimeout (warp : Nat) (s : State) : Host.Outcome State Fault Refusal :=
  .next (
    let w := warpAt s warp
    match w.tx with
    | none => s
    | some t =>
      match t.leaseAt with
      | none => s
      | some a =>
        if t.byG && commitReady s warp && !(leasesFree s warp t && (leaseLines s t).all fun x => t.leases.any fun h => h.1 = x.1) && a + 2048 < aclkAt s (teamAt s w.team).core then
          txAbort s warp (txLanes w) 10 0
        else s)

/-! ### Faults -/

/-- Walk results that a fault has reported are dropped; a missing page stays noted. -/
def forgetWalks (w : Warp) : Warp := { w with walkBad := w.walkBad.filter fun b => b.2.1 = 0x30 }

/-- A fault of work that outlived its warp has no thread to stop: the context is faulted (R352). -/
def faultGone (s : State) (k : Nat) : State :=
  let w := warpAt s k
  match w.detected with
  | [] => s
  | d :: _ => faultCtx (putWarp s k { w with detected := [] }) (teamAt s w.team).ctx (faultRecord s k d 2 3 false false)

/-- FAULT_TAKE: the warp's oldest detected fault is taken at an issue opportunity (R346). -/
def execFaultTake (warp : Nat) (s : State) : Host.Outcome State Fault Refusal :=
  .next (
    let w := warpAt s warp
    if w.exited then faultGone s warp
    else if w.detected = [] || (teamAt s w.team).status ≠ .resident then s
    else takeFault (putWarp s warp (forgetWalks w)) warp)

/-- TRAP_FRAME_FREE: a warp that waits for a frame enters its handler (R353). -/
def execTrapFrameFree (warp : Nat) (s : State) : Host.Outcome State Fault Refusal :=
  .next (
    let w := warpAt s warp
    let tm := teamAt s w.team
    if w.detected = [] || w.handler.isSome || tm.status ≠ .resident || (freeFrame (ctxAt s tm.ctx)).isNone then s
    else takeFault s warp)

/-! ### Breakpoints -/

/-- The warps of a context that stand at an enabled breakpoint, with the breakpoint (R429, log 29). -/
def warpsAtBp (s : State) (cn : Nat) : List (Nat × Word × Nat) :=
  let c := ctxAt s cn
  s.warps.filterMap fun x =>
    let t := teamAt s x.2.team
    if t.ctx ≠ cn || t.status ≠ .resident || x.2.exited || x.2.detected ≠ [] then none
    else
      match chosenRun (runsOf x.2) with
      | none => none
      | some e =>
        if isHeld x.2 e.mask || c.bpSkip.contains (x.1, e.pc)
            || (dbgReg c 0x60 / 4 % 2 = 0 && x.2.handler.isNone && txLanes x.2 &&& e.mask ≠ 0#64) then none
        else (bpIndex c e.pc).map fun b => (x.1, e.pc, b)

/-- A warp comes before another in the order of grid entry, team and warp (R429). -/
def bpBefore (s : State) (a b : Nat) : Bool :=
  let x := warpAt s a
  let y := warpAt s b
  let p := teamAt s x.team
  let q := teamAt s y.team
  p.grid < q.grid || (p.grid = q.grid && (p.index < q.index || (p.index = q.index && x.wid < y.wid)))

/-- BREAKPOINT_HIT: the instruction does not issue and a halt begins, with the warp as the target (R429). -/
def execBreakpointHit (warp bp : Nat) (s : State) : Host.Outcome State Fault Refusal :=
  .next (
    let cn := warpCtx s warp
    let c := ctxAt s cn
    let hit := warpsAtBp s cn
    if c.dbgBusy || c.halted || bit (w64 (dbgReg c 0x60)) 0 = false || !(hit.any fun x => x.1 = warp) then s
    else
      let low := hit.foldl (fun a x => if bpBefore s x.1 a.1 then x else a) (warp, 0#64, bp)
      let t := teamAt s (warpAt s low.1).team
      let dbg := aput (aput (aput c.dbg 0x70 t.index) 0x78 t.grid) 0x7A (warpAt s low.1).wid
      let s := putCtx s cn { c with dbg := dbg, bpSkip := hit.map fun x => (x.1, x.2.1) }
      beginHalt s cn 2 low.2.2)

end Sys2Proof.Machine
end

