-- ==== Sys2Proof/Machine/Preempt.lean ====
section
/-!
DEFINITION. Pre-emption, restore and context switch (chapter 14): where a team stops (R299 to R304), its image (R305 to R307,
log 17), its restore (R308, R309), context switches (R311), moves by firmware (R21, R297), and the time exchange (R313).
-/
namespace Sys2Proof.Machine
open Sys2Proof

/-! ### Stopping a team -/

/-- The abort code of an open region at a stop: 11 for a debugger's, else 7 (R302, R428, R431). -/
def stopCode (c : Ctx) : Nat := if c.dbgHalt || c.stepping.isSome then 11 else 7

/-- A claim or standing grant ends at a stop (R287, R289); without a reservation the pass count is kept (R92). -/
def stopClaim (s : State) (k : Nat) : State :=
  let w := warpAt s k
  if w.queued then endClaim s k else putWarp s k { w with standing := false, claimAt := none }

/-- The lanes of a precise fault still stand at its instruction, which issues again after restore (R347). -/
def standsAt (w : Warp) (d : Detected) : Bool :=
  (w.pcs ++ runsOf w).all fun e => e.mask &&& faultMask d = 0#64 || e.pc = d.pc

/-- A REP stops between iterations at aclk t: those that have not issued are withdrawn, and the latches stand as the last complete one
left them (R227). -/
def stopRep (t : Nat) (w : Warp) : Warp :=
  match w.rep with
  | none => w
  | some r =>
    if r.stopped then w
    else
      let done := t + 1 - r.start
      match r.steps[done - 1]? with
      | none => { w with rep := none }
      | some x =>
        if r.steps.length ≤ done then { w with rep := none }
        else { w with
          rep := some { r with first := r.first + done, steps := [], stopped := true }, latches := x.latches, seed := x.seed
          pend := ((r.steps.drop done).flatMap (·.pends)).foldl (fun p y => p.erase y) w.pend }

/-- A warp at the stop: a REP stops (R227), its open region aborts (R302), fixed-latency results are written, precise faults not taken are
forgotten (R347), and its walks and claims end. -/
def stopWarp (s : State) (code k : Nat) : State :=
  let s := putWarp s k (stopRep (aclkAt s (teamAt s (warpAt s k).team).core) (warpAt s k))
  let s := txAbort s k (txLanes (warpAt s k)) code 0
  let s := stopClaim (freePorts s k) k
  let w := settleAll (warpAt s k)
  putWarp s k { w with
    detected := w.detected.filter fun d => d.deferred || !standsAt w d, walks := [], walkBad := [], walked := [], coldFor := none, pktPorts := [], lastIssue := none }

/-- Items of the matrix queue that run before the stop: those up to the team's last ACLR or DRAIN (R262, R272). -/
def mxKept (t : Nat) : List MxItem → List MxItem
  | [] => []
  | x :: xs =>
    let rest := mxKept t xs
    let own := x.team = t
    let fixed := match x.work with
      | .mma _ _ _ _ => false
      | _ => true
    if !own || fixed || (rest.any fun y => y.team = t) then x :: rest else rest

/-- Matrix work that the stop withdraws (Table 14-1). -/
def mxWithdrawn (t : Nat) (q : List MxItem) : List MxItem := q.filter fun x => x.team = t && !(mxKept t q).contains x

/-- The queue of 8 and what waits beside it (R262). -/
def setMx (c : Core) (q : List MxItem) : Core := { c with queue := q.take 8, waiting := q.drop 8 }

/-- A request that names no tile and whose first read the engine has not begun (Table 14-1). -/
def reqIdle (s : State) (r : Req) : Bool :=
  r.state = 2 && !reqStile r && !reqDtile r && r.next = 0 && r.got = [] && !agentBusy s r.id && !s.replies.any fun y => y.who = r.id

/-- A request that a stop saves: not started, or waiting for a page (Table 14-1, R300, R305). -/
def reqSaved (s : State) (r : Req) : Bool :=
  r.state < 2 || reqIdle s r || (match r.waits with
    | some p => pagePending s (teamAt s r.team).ctx p || s.fqWait.any fun x => x.1 = (teamAt s r.team).ctx && x.2.1 = p
    | none => false)

/-- The requests of a team that a stop saves go into its image. -/
def saveReqs (s : State) (t : Nat) : State :=
  let x := teamAt s t
  let c := coreAt s x.core
  let mine := c.reqs.filter fun r => r.team = t && reqSaved s r
  putTeam (putCore s x.core { c with reqs := c.reqs.filter fun r => !(r.team = t && reqSaved s r) }) t
    { x with rqImage := x.rqImage ++ mine }

/-- LDG and STG of a team stop between lanes: those not yet begun stay back until the access is charged again (R233). -/
def stopGuarded (s : State) (t : Nat) : State :=
  { s with accs := s.accs.map fun a =>
      match a.2.kind with
      | .ldg _ | .stg _ => if a.2.warp / 16 = t && a.2.lanes.any unserved then (a.1, { a.2 with stopped := true }) else a
      | _ => a }

/-- A team stops (R299 steps 1 and 2, Table 14-1, R302). -/
def stopTeam (s : State) (t : Nat) : State :=
  let x := teamAt s t
  let code := stopCode (ctxAt s x.ctx)
  let s := putTeam s t { x with status := .saving }
  let s := stopGuarded ((teamWarps t x).foldl (fun s k => stopWarp s code k) s) t
  let c := coreAt s x.core
  let q := c.queue ++ c.waiting
  let c' := setMx { c with
    allocs := c.allocs.filter fun a => a.warp / 16 ≠ t, chains := c.chains.filter fun y => y.team ≠ t } (mxKept t q)
  let s := (c.chains.filter fun y => y.team = t).foldl (fun s y => endChainClaim s x.core y) s
  let mine := s.watches.filter fun w => w.warp / 16 = t
  let s := { putCore s x.core c' with
    watches := s.watches.filter fun w => w.warp / 16 ≠ t
    remotes := s.remotes.filter fun r => !(mine.any fun w => w.tag = some r.tag) }
  let x := teamAt s t
  saveReqs (putTeam s t { x with
    mxImage := x.mxImage ++ mxWithdrawn t q
    chImage := x.chImage ++ c.chains.filter fun y => y.team = t
    raImage := x.raImage ++ c.allocs.filter fun a => a.warp / 16 = t
    waImage := x.waImage ++ mine }) t

/-- PREEMPT_REQUEST: a team, with the others of its co-resident grid, stops; one that has exited or is being saved ignores
it (R298, R299). -/
def execPreemptRequest (team : Nat) (s : State) : Host.Outcome State Fault Refusal :=
  .next (
    let live := fun t => let x := teamAt s t; (afind s.teams t).isSome && (x.status = .resident || x.status = .restoring)
    if live team then ((team :: (withCor s team).filter fun t => t ≠ team).filter live).foldl stopTeam s else s)

/-! ### The save -/

/-- A sequence request that only waits for a page (Table 14-1). -/
def squWaits (s : State) (r : SquReq) : Bool :=
  match squStep s r with
  | .error (.wait _) => true
  | _ => false

/-- Accesses of a warp, oldest first, that R143 keeps behind one that waits for a page or that has stopped between lanes: such an access
can neither perform before the one that waits nor hold the save open, so it is withdrawn with it (Table 14-1, R305; log 18). -/
def heldBehind (own : Nat) : List Acc → List Acc → List Acc
  | _, [] => []
  | held, a :: rest =>
    if held.any fun x => orderBlocks own x a then a :: heldBehind own (a :: held) rest
    else heldBehind own (if a.lanes.any fun l => (l.live && l.wait) || (a.stopped && unserved l) then a :: held else held) rest

/-- The accesses of a team that are withdrawn behind one that waits for a page. -/
def withdrawnBehind (s : State) (t : Nat) : List Nat :=
  (teamWarps t (teamAt s t)).flatMap fun k => (heldBehind s.devnum [] (accsOf s k)).map (·.id)

/-- A write of a team's warps that has performed has invalidations outstanding (R140, R299). -/
def teamUnseen (s : State) (t : Nat) : Bool := s.lines.any fun x => x.2.acks ≠ [] && x.2.own.any fun k => k / 16 = t

/-- The drain of R299 step 3 is over: nothing of the team remains but what waits for a page or for other cores (R310). -/
def drained (s : State) (t : Nat) : Bool :=
  let c := coreAt s (teamAt s t).core
  let held := withdrawnBehind s t
  ((s.accs.map (·.2)).all fun a => a.warp / 16 ≠ t || held.contains a.id
      || a.lanes.all fun l => !l.live || l.wait || (l.sent && !servable a) || (a.stopped && unserved l))
    && (s.squ.all fun r => r.warp / 16 ≠ t || squWaits s r)
    && ((c.queue ++ c.waiting).all fun x => x.team ≠ t)
    && (c.reqs.all fun r => r.team ≠ t || r.state = 3 || reqSaved s r)
    && !teamUnseen s t

/-- The core's state of a team goes into its image (Table 14-3). -/
def takeImage (s : State) (t : Nat) : State :=
  let held := withdrawnBehind s t
  let s := { s with accs := s.accs.map fun a =>
    if held.contains a.1 && !a.2.ts && !a.2.stopped then
      (a.1, { a.2 with lanes := a.2.lanes.map fun l => if unserved l then { l with wait := true } else l })
    else a }
  let s := saveReqs s t
  let x := teamAt s t
  let c := coreAt s x.core
  putTeam s t { x with
    tabImage := teamTiles s x.core x.place, accImage := x.accs.map fun a => (a, aget [] c.accs a) }

/-- Everything of a team that other parts of the machine hold is dropped. -/
def purgeTeam (s : State) (t : Nat) : State :=
  let c := (teamAt s t).core
  let k := coreAt s c
  let s := putCore s c (setMx { k with
    reqs := k.reqs.filter fun r => r.team ≠ t, chains := k.chains.filter fun y => y.team ≠ t
    allocs := k.allocs.filter fun a => a.warp / 16 ≠ t } ((k.queue ++ k.waiting).filter fun x => x.team ≠ t))
  let s := (k.chains.filter fun y => y.team = t).foldl (fun s y => endChainClaim s c y) s
  let gone := (s.accs.filter fun a => a.2.warp / 16 = t).map (·.1) ++ (k.reqs.filter fun r => r.team = t).map (·.id)
    ++ (k.chains.filter fun y => y.team = t).map (·.id)
  let tags := (s.watches.filter fun w => w.warp / 16 = t).filterMap (·.tag)
  { s with
    accs := s.accs.filter fun a => a.2.warp / 16 ≠ t
    squ := s.squ.filter fun r => r.warp / 16 ≠ t
    watches := s.watches.filter fun w => w.warp / 16 ≠ t
    remotes := s.remotes.filter fun r => !gone.contains r.acc && !tags.contains r.tag
    replies := s.replies.filter fun r => !gone.contains r.who }

/-- A team discarded (R306, R421): its resources return, and nothing of it remains. -/
def discardTeam (s : State) (t : Nat) : State :=
  let x := teamAt s t
  let s := (teamWarps t x).foldl (fun s k => endClaim (freePorts s k) k) s
  let s := countDown (if holdsCore x then freeTeam s t else s) x.core x.ctx x.grid
  dropTeam (purgeTeam s t) t

/-- Every team of a context discarded. -/
def discardTeams (s : State) (cn : Nat) : State :=
  ((s.teams.filter fun t => t.2.ctx = cn).map (·.1)).foldl discardTeam s

/-- What follows when the last team of a context has left its core: the end of a fault (R352), of a step (R431), of a halt
(R428), or of a context switch (R311). -/
def afterSave (s : State) (cn : Nat) : State :=
  let c := ctxAt s cn
  if residentTeams s cn ≠ [] then s
  else if c.faulted.isSome then finishCtxFault s cn
  else if c.stepping.isSome then putCtx s cn { c with stepping := none, dbgBusy := false, dbgWhy := 4 }
  else if !c.inSwitch then s
  else
    let s := putCtx s cn { c with
      inSwitch := false, resident := false, savedAt := s.time, gen := c.gen + 1
      halted := c.halted || c.dbgHalt, dbgHalt := false, dbgBusy := if c.dbgHalt then false else c.dbgBusy }
    writeShed s cn 2 0 0 4096

/-- A team that cannot be saved: its context is faulted with SHED_WRITE and its teams are discarded (R306). -/
def shedFails (s : State) (cn need : Nat) : State :=
  let s := discardTeams s cn
  if (ctxAt s cn).faulted.isSome then finishCtxFault s cn
  else faultCtxWith s cn { cause := 0x3D, engine := deviceEngine 13 0, syn := w64 need }

/-- Bytes of a shed that holds the saved teams of a context and one more (R306). -/
def shedNeed (s : State) (cn t : Nat) : Nat :=
  4096 + (if (ctxAt s cn).inSwitch then 65536 + 8192 else 0)
    + (savedTeams s cn).foldl (fun n u => n + imageBytes s u) 0 + imageBytes s t

/-- TEAM_SAVE_WRITE: after the drain the image is written and marked valid, and the core is freed (R299 steps 3 to 5). -/
def execTeamSaveWrite (team : Nat) (s : State) : Host.Outcome State Fault Refusal :=
  .next (
    let x := teamAt s team
    if x.status ≠ .saving || !drained s team then s
    else
      let s := takeImage s team
      let c := ctxAt s x.ctx
      let need := shedNeed s x.ctx team
      if !shedOk c || c.shedsz < need || stacksDead s c.shed c.shedsz then shedFails s x.ctx need
      else
        let t := timeAt s x.core
        let s := freeTeam s team
        let y := teamAt s team
        let s := putTeam s team { y with status := .saved, savedAt := t }
        let s := putCtx s x.ctx { ctxAt s x.ctx with savedAt := t, gen := (ctxAt s x.ctx).gen + 1 }
        let s := writeShed s x.ctx (if residentTeams s x.ctx = [] then 2 else 1) 0 0 0
        afterSave s x.ctx)

/-! ### Restore -/

/-- A context whose saved teams may return to cores (R311, R428, R431). -/
def restorable (s : State) (t : Nat) : Bool :=
  let c := ctxAt s (teamAt s t).ctx
  c.enabled && c.faulted.isNone && !c.inSwitch && s.devstat = 1
    && (match c.stepping with
      | some x => x.1 / 16 = t && x.2 = 0
      | none => c.resident && !c.halted)

/-- A core meets the conditions of R308 for a saved team. -/
def fitsImage (s : State) (core t : Nat) : Bool :=
  let x := teamAt s t
  let c := coreAt s core
  let blocks := (teamWarps t x).foldl (fun n k => n + (warpAt s k).blocks) 0
  inShare s (ctxAt s x.ctx) core && roomFor s core x.nwarps blocks x.bars.length x.tileb
    && x.accs.all (fun a => !(c.accTeam.any fun y => y.1 = a))
    && x.tabImage.all (fun e => !tileAlloc (aget 0#128 c.table e.1))
    && c.reqs.length + x.rqImage.length ≤ 256

/-- A tile entry under a new team place (R308). -/
def setOwner (x : TileEntry) (p : Nat) : TileEntry := setFld x 29 3 p

/-! ### Waiting lanes walk again -/

/-- What walking again gives a waiting lane. -/
inductive Again
  | go (l : LaneAcc)
  | wait (va : Word)
  | bad (cause : Nat) (addr syn : Word)
  deriving DecidableEq, Repr

/-- What an access needs of its page. -/
def kindNeed (k : AccKind) : Need :=
  match k with
  | .store | .ustore | .red _ _ | .mbar _ | .stg _ => .write
  | .atom _ _ | .waitadd _ | .seqRes | .seqCmt => .readWrite
  | _ => .read

/-- The further causes of an access's kind (Table 20-5). -/
def kindCauses (s : State) (k : AccKind) (pa : Nat) (e : Word) : List (Nat × Word) :=
  match k with
  | .red op ty => pcieCauses s (redAtom op) ty pa
  | .atom op ty => pcieCauses s op ty pa
  | .waitadd _ => waitCauses s pa e
  | .waitw _ _ => waitCauses s pa e
  | _ => []

/-- A page filled into the TLBs of a warp's core when a walk finds it, and among what its walks have brought (R117). -/
def fillTlb (s : State) (k : Nat) (va : Word) : State :=
  let t := teamAt s (warpAt s k).team
  match walk s.mem s.poison (ctxAt s t.ctx).root va.toNat with
  | .leaf e n =>
    let w := warpAt s k
    putWarp (tlbFill s t.core t.ctx va e n) k { w with walked := aput w.walked (pageOf va) (smallLeaf e va.toNat n) }
  | _ => s

/-- A lane of LDS resolved again, walking as it needs (R132, R399). -/
def againLds : Nat → State → Acc → LaneAcc → State × Again
  | 0, s, _, l => (s, .wait l.va)
  | fuel + 1, s, a, l =>
    let cn := warpCtx s a.warp
    match ldsAgain s a.warp a.bytes l with
    | .miss va =>
      (match walk s.mem s.poison (ctxAt s cn).root va.toNat with
      | .leaf _ _ => againLds fuel (fillTlb s a.warp va) a l
      | .absent _ => (s, .wait va)
      | .bad c y => (s, .bad c va y))
    | .absent => (s, .wait l.va)
    | .bad c x y => (s, .bad c x y)
    | .lost c x y => (s, .bad c x y)
    | x =>
      let d := w64 (leVal (l.data.take 8))
      let s := (ldsVas s a.warp d (leVal ((l.data.drop 8).take 8)) x).foldl (fun s va => ldsUses s a.warp va) s
      (if ldsChecked x then refreshQl s a.warp else s, .go (ldsPart a.bytes l x))

/-- A waiting lane walks again (R399). -/
def againLane (s : State) (a : Acc) (l : LaneAcc) : State × Again :=
  let cn := warpCtx s a.warp
  match a.kind with
  | .lds => againLds 4 s a l
  | k =>
    match xlate s cn (kindNeed k) l.va with
    | .wait _ => (s, .wait l.va)
    | .bad c y => (s, .bad c l.va y)
    | .ok pa e =>
      match lowest (kindCauses s k pa e) with
      | some c => (s, .bad c.1 l.va c.2)
      | none =>
        (fillTlb s a.warp l.va,
          .go { l with wait := false, pas := [pa], dev := leafDev e, uc := leafUc e, prop := leafProp e
                       hint := if leafUc e then 0 else leafHint e })

/-- The thread that a record of an access names. -/
def recLane (a : Acc) (l : LaneAcc) : Nat := if l.lane = 64 then lowBit a.run else l.lane

/-- A cause of a lane of an access whose instruction has issued: it stops precisely, to resume at the instruction (R399). -/
def strikeLanes (s : State) (a : Acc) (cs : List LaneCause) : State :=
  if cs = [] then s
  else detect s a.warp
    { pc := a.pc, resume := a.pc, engine := coreEngine 0 (teamAt s (warpAt s a.warp).team).core, lanes := spreadCauses a.run cs }

/-- The waiting lanes of an access that `sel` names walk again (R399): those whose page is there go on, those that miss one
again wait for a new record, and the others are struck. A lane of an open region that reaches an uncached page aborts with
code 9 (R244). -/
def rewalkAcc (s : State) (id : Nat) (sel : LaneAcc → Bool) : State :=
  match accAt s id with
  | none => s
  | some a =>
    let cn := warpCtx s a.warp
    let r := a.lanes.foldl (fun (x : State × List LaneAcc × List LaneCause × Word) l =>
      if !(l.wait && l.live && sel l) then (x.1, x.2.1 ++ [l], x.2.2)
      else
        match againLane x.1 a l with
        | (s, .go m) =>
          let ban := bit (txLanes (warpAt s a.warp)) m.lane && m.pas ≠ [] && uncached s m.uc (m.pas.headD 0)
          (s, x.2.1 ++ [m], x.2.2.1, if ban then x.2.2.2 ||| laneBit m.lane else x.2.2.2)
        | (s, .wait va) =>
          let rec_ := threadRecord s a.warp (recLane a l) a.pc va (w64 (absentLevel s cn va))
          let rec_ := if bit (txLanes (warpAt s a.warp)) (recLane a l) then { rec_ with flags := rec_.flags ||| 4 } else rec_
          (enqueuePage s cn (pageOf va) rec_, x.2.1 ++ [l], x.2.2)
        | (s, .bad c va y) =>
          (s, x.2.1 ++ [{ l with live := false, wait := false }],
            x.2.2.1 ++ [{ lane := l.lane, cause := c, addr := some va.toNat, syn := y }], x.2.2.2))
      (s, [], [], 0#64)
    let s := strikeLanes (afterServe (putAcc r.1 { a with lanes := r.2.1 }) a.id) a r.2.2.1
    let s := if servable a then s else squSend s id
    if r.2.2.2 = 0#64 then s else txAbort s a.warp r.2.2.2 9 0

/-- The accesses of a team that have stopped between lanes, oldest first. -/
def stoppedAccs (s : State) (t : Nat) : List Acc := (s.accs.map (·.2)).filter fun a => a.stopped && a.warp / 16 = t

/-- The checks of a lane of LDG or STG again, as it goes on (R232): the lane, and a cause that is not a failed check. -/
def guardAgain (s : State) (a : Acc) (l : LaneAcc) : LaneAcc × Option LaneCause :=
  let rs := (List.range (a.bytes / 4)).map fun j => xlate s (warpCtx s a.warp) (kindNeed a.kind) (l.va + w64 (4 * j))
  let pas := rs.filterMap fun r => match r with | .ok pa _ => some pa | _ => none
  let leaf := (rs.findSome? fun r => match r with | .ok _ e => some e | _ => none).getD 0#64
  let hard := lowest (rs.filterMap fun r => match r with | .bad c y => if softCause c then none else some (c, y) | _ => none)
  ({ l with
      pas := pas, dev := leafDev leaf, uc := leafUc leaf, prop := leafProp leaf, hint := if leafUc leaf then 0 else leafHint leaf
      ok := rs.all fun r => match r with | .ok _ _ => true | _ => false
      live := hard.isNone },
    hard.map fun c => { lane := l.lane, cause := c.1, addr := some l.va.toNat, syn := c.2 })

/-- A stopped LDG or STG, charged again, goes on with its next lane (R233). -/
def resumeAcc (s : State) (id : Nat) : State :=
  match accAt s id with
  | none => s
  | some a =>
    let r := a.lanes.map fun l => if unserved l then guardAgain s a l else (l, none)
    strikeLanes (afterServe (putAcc s { a with stopped := false, lanes := r.map (·.1) }) a.id) a (r.filterMap (·.2))

/-! ### Putting a team back -/

/-- A waiter registered again, with a fresh read at the home, or a new request to its device (R309, R323). -/
def registerAgain (s : State) (x : Watch) : State :=
  match x.tag with
  | some _ =>
    let i := freshId s
    { i.2 with
      remotes := i.2.remotes ++ [{ tag := i.1, acc := 0, lane := x.lane, dev := x.dev, port := ylPort s, idemp := true, since := s.time }]
      watches := i.2.watches ++ [{ x with id := i.1, tag := some i.1 }] }
  | none =>
    if watchMet x (memBytes s.mem x.pa x.bytes) then putWarp s x.warp (wakeWatchLane x.lane (warpAt s x.warp))
    else addWatch s x.warp x.lane x.pa x.bytes x.cond x.ty x.value

/-- A warp before its first issue on a core: its distance is met and no latch is stale (R83, R309). -/
def freshWarp (t : Nat) (w : Warp) : Warp :=
  { w with latches := w.latches.map fun l => { l with born := 0, lat := 0 }, lastIssue := none, since := t }

/-- A saved team loaded onto a core (R308, R309): steps 1 to 5. The counter of the core that it left falls, and that of the new one
rises (R62). Lines with invalidations outstanding are served to it at the home (R141). Its matrix work returns once it is charged again (R269), its chains charge the units that remain (R283). -/
def loadTeam (s : State) (t core : Nat) : State :=
  let x := teamAt s t
  let ks := teamWarps t x
  let s := { s with lines := s.lines.map fun y => if y.2.acks = [] then y else (y.1, { y.2 with own := (y.2.own ++ ks).eraseDups }) }
  let s := countDown s x.core x.ctx x.grid
  let c := coreAt s core
  let place := (freePlace s core).getD 0
  let blocks := (teamWarps t x).foldl (fun n k => n + (warpAt s k).blocks) 0
  let cn := x.ctx
  let g := gridOf (ctxAt s cn) x.grid
  let seq := match g with | some g => g.seqNo + 1 | none => 0
  let c := countUp { c with
    free := c.free - blocks, bars := c.bars - x.bars.length, tileFree := c.tileFree - x.tileb
    table := x.tabImage.foldl (fun m e => aset 0#128 m e.1 (setOwner e.2 place)) c.table
    accs := x.accImage.foldl (fun m a => aset [] m a.1 a.2) c.accs
    accTeam := x.accs.foldl (fun m a => aput m a t) c.accTeam
    allocs := (c.allocs ++ x.raImage).foldl (fun (l : List AllocReq) a =>
      (l.filter fun b => b.age ≤ a.age) ++ a :: l.filter fun b => a.age < b.age) []
    chains := c.chains ++ x.chImage.map fun y => { y with paid := y.next, since := s.time, claim := none, wpass := if 8 ≤ y.wpass then 0 else y.wpass }
    reqs := c.reqs ++ x.rqImage } (gridKey cn x.grid) seq
  let s := putCore s core c
  let s := match g with
    | some g => putCtx s cn (setGrid (ctxAt s cn) { g with seqNo := seq, cores := aput g.cores core seq })
    | none => s
  let s := putTeam s t { x with
    core := core, place := place, status := .restoring, reason := 0, tabImage := [], accImage := [], chImage := [], rqImage := []
    raImage := [], waImage := [] }
  let s := (teamWarps t x).foldl (fun s k => putWarp s k (freshWarp (aclkAt s core) (warpAt s k))) s
  let s := x.waImage.foldl registerAgain s
  let s := (((s.accs.filter fun a => a.2.warp / 16 = t).map (·.1))).foldl (fun s a => rewalkAcc s a fun _ => true) s
  let s := putCtx s cn { ctxAt s cn with gen := (ctxAt s cn).gen + 1 }
  writeShed s cn (if savedTeams s cn = [] then 0 else 2) 0 0 0

/-- The saved teams of a co-resident grid return together, each to the first core that meets R308; none if one has none
(R298). -/
def loadAll : List Nat → State → Option State
  | [], s => some s
  | t :: ts, s =>
    match (List.range (Config.reticles * Config.coresPerReticle)).find? fun k => fitsImage s k t with
    | none => none
    | some k => loadAll ts (loadTeam s t k)

/-- TEAM_RESTORE: a saved team returns to a core that meets R308 (R309). -/
def execTeamRestore (team core : Nat) (s : State) : Host.Outcome State Fault Refusal :=
  .next (
    let x := teamAt s team
    if x.status ≠ .saved || !restorable s team || x.reason = 1 || !fitsImage s core team then s
    else if recCor (recordOf s x) && (ctxAt s x.ctx).stepping.isNone then
      (loadAll ((s.teams.filter fun t => t.2.ctx = x.ctx && t.2.grid = x.grid && t.2.status = .saved).map (·.1)) s).getD s
    else loadTeam s team core)

/-- RESTORE_FIRST_ISSUE: once %TIME exceeds SAVEDAT by the agreement bound of 8 ns, and its matrix work and its stopped accesses are back,
the team may issue (R309, R313). -/
def execRestoreFirstIssue (team : Nat) (s : State) : Host.Outcome State Fault Refusal :=
  .next (
    let x := teamAt s team
    if x.status = .restoring && x.mxImage = [] && stoppedAccs s team = [] && x.savedAt + 8 < timeAt s x.core then
      putTeam s team { x with status := .resident, issueAt := s.time }
    else s)

/-! ### Context switches -/

/-- A context's dispatch stops and its teams are to be pre-empted (R311). -/
def switchOut (s : State) (cn : Nat) : State :=
  let s := putCtx s cn { ctxAt s cn with stopped := true, inSwitch := true }
  afterSave { s with agenda := (residentTeams s cn).map (fun t => Todo.event (.preemptRequest t)) ++ s.agenda } cn

/-- CONTEXT_SWITCH: a resident context becomes non-resident (R311). -/
def execContextSwitch (ctx : Nat) (s : State) : Host.Outcome State Fault Refusal :=
  .next (
    let c := ctxAt s ctx
    if c.enabled && c.resident && c.faulted.isNone && !c.inSwitch && !c.halted && c.stepping.isNone then switchOut s ctx else s)

/-- A context becomes resident: its dispatcher section is loaded and the doorbells held for it take effect (R311). -/
def switchIn (s : State) (cn : Nat) : State :=
  let c := ctxAt s cn
  let s := putCtx s cn { c with resident := true, stopped := false, halted := false, resume := false, held := [], gen := c.gen + 1 }
  let s := writeShed s cn (if savedTeams s cn = [] then 0 else 3) 0 0 0
  c.held.foldl (fun s d => ringDoorbell s cn d.1 d.2) s

/-- CONTEXT_RESTORE: a context that is not resident becomes so again; a halted one only through RESUME (R311, R428). -/
def execContextRestore (ctx : Nat) (s : State) : Host.Outcome State Fault Refusal :=
  .next (
    let c := ctxAt s ctx
    if c.enabled && !c.resident && c.faulted.isNone && !c.inSwitch && !c.halted
        && (s.ctxs.filter fun x => x.2.resident).length < 64 then switchIn s ctx
    else s)

/-! ### Moves by firmware -/

/-- HOTSPOT_MIGRATION: firmware moves a team, at most once in 1 ms, away from a reticle whose thermal rate has stayed below half its base limit
for two control intervals, to a core of the share where it can be restored, when its shed
holds its image (R297, R306). -/
def execHotspotMigration (team core : Nat) (s : State) : Host.Outcome State Fault Refusal :=
  .next (
    let x := teamAt s team
    let c := ctxAt s x.ctx
    let ok := 2 ≤ (reticleAt s (reticleOf x.core)).hot && inShare s c core && x.accs.all fun a => !((coreAt s core).accTeam.any fun y => y.1 = a)
    if x.status ≠ .resident || !ok || !shedOk c || c.shedsz < shedNeed s x.ctx team || stacksDead s c.shed c.shedsz
        || (match x.movedAt with | some t => decide (s.time < t + 1000000) | none => false) then s
    else
      let s := putTeam s team { x with reason := core + 2, movedAt := some s.time }
      { s with agenda := .event (.preemptRequest team) :: s.agenda })

/-- An input from outside put in its place by time. -/
def inboxPut (x : Nat × Instr) : List (Nat × Instr) → List (Nat × Instr)
  | [] => [x]
  | y :: ys => if y.1 ≤ x.1 then y :: inboxPut x ys else x :: y :: ys

/-- The contexts with teams on a set of reticles. -/
def ctxsOn (s : State) (rs : List Nat) : List Nat :=
  ((s.teams.filter fun t => holdsCore t.2 && rs.contains (reticleOf t.2.core)).map fun t => t.2.ctx).eraseDups

/-- Contexts are switched out, to be resumed later (R21, R421). -/
def holdCtxs (s : State) (cs : List Nat) : State :=
  cs.foldl (fun s cn =>
    let c := ctxAt s cn
    if c.enabled && c.resident && c.faulted.isNone && !c.inSwitch && !c.halted then
      switchOut (putCtx s cn { c with resume := true }) cn
    else s) s

/-- The contexts held by firmware return. -/
def resumeCtxs (s : State) : State :=
  ((s.ctxs.filter fun c => c.2.resume && !c.2.resident && !c.2.inSwitch && c.2.faulted.isNone).map (·.1)).foldl switchIn s

/-! ### Time -/

/-- The offset toward which a region slews: what it has less what was measured, within half the agreement bound of 8 ns (R313). -/
def aimOf (off measured : Int) : Int :=
  let x := off - measured
  if 4 < x then 4 else if x < -4 then -4 else x

/-- TIME_EXCHANGE: each region's offset from region 0 is measured, and the region begins to slew it away; region 0 is the
reference (R313, log 3). -/
def execTimeExchange (measured : List Int) (s : State) : Host.Outcome State Fault Refusal :=
  .next { s with regionAim := (List.range 12).map fun r =>
    if r = 0 then 0 else aimOf (s.regionOff.getD r 0) (measured.getD r 0) }

end Sys2Proof.Machine
end

