-- ==== Sys2Proof/Machine/Power.lean ====
section
/-!
DEFINITION. The Lunge Ring, token arbitration, the power controller, clocks, rails and energy (chapter 13, R285 to R296; R418, R419).
-/
namespace Sys2Proof.Machine
open Sys2Proof

/-! ### Token arbitration -/

/-- What a claim is for: a warp's next instruction, a team's joint MMA, a restored team's matrix work or LDG or STG, or a unit of a running
chain (R287, R288, R269, R233, R283). -/
inductive ClaimKind | wide | joint | again | access (id : Nat) | chain (core : Nat) (id : Nat)
  deriving DecidableEq, Repr

/-- A claimant: the warp, its price, its claim time, and its team (R287). -/
structure Claim where
  warp  : Nat
  price : Nat
  at_   : Nat
  kind  : ClaimKind
  team  : Nat
  deriving DecidableEq, Repr

/-- The cores of a cluster. -/
def clusterCores (cl : Nat) : List Nat := (List.range Config.coresPerCluster).map fun k => cl * Config.coresPerCluster + k

/-- The teams on the cores of a cluster. -/
def clusterTeams (s : State) (cl : Nat) : List (Nat × Team) :=
  s.teams.filter fun t => t.2.status ≠ .saved && clusterOf t.2.core = cl

/-- Claims for the next instructions of the warps of a core's port (R287, log 16). -/
def portClaims (s : State) (core port : Nat) : List Claim :=
  (portWarps s core port).1.filterMap fun k =>
    let w := warpAt s k
    match (look s core port k).2 with
    | none => none
    | some r =>
      match r.price with
      | none => none
      | some p =>
        if p = 0 || w.standing || w.early then none
        else some { warp := k, price := p, at_ := w.claimAt.getD (aclkAt s core), kind := .wide, team := w.team }

/-- The claim of a team's joint MMA: one for all its members, as old as the first member's entry (R288). -/
def jointClaim (s : State) (t : Nat) : Option Claim :=
  match latchReady s t with
  | none => none
  | some ms =>
    let k := gangClaimant t ms
    let h0 : Held := ⟨0, ⟨0, 0, 0, 0, 0, false, 0, 0, 0, 0⟩, 0, [], 0, 0, 0, 0⟩
    let first := ms.foldl (fun m h => Nat.min m h.at_) ((ms.headD h0).at_)
    if (warpAt s k).standing || (teamAt s t).status ≠ .resident then none
    else some { warp := k, price := ((ms.drop (ms.headD h0).units).foldl (fun n h => n + mmaPrice h.op) 0), at_ := first, kind := .joint, team := t }

/-- The tokens that a restored MMA is charged: those of the groups that remain (R269). -/
def restPrice (x : MxItem) : Nat :=
  match x.work with
  | .mma o _ _ u => (mmaUnits o - u) * mmaPrice o
  | _ => 0

/-- The claim of the first restored MMA of a team, and after its MMAs that of its first stopped LDG or STG: its full price (R233, R269,
log 17). -/
def againClaim (s : State) (t : Nat) (x : Team) : Option Claim :=
  match x.status, x.mxImage, stoppedAccs s t with
  | .restoring, y :: _, _ => some { warp := y.warp, price := restPrice y, at_ := 0, kind := .again, team := t }
  | .restoring, [], a :: _ => some { warp := a.warp, price := cdiv (a.bytes / 4) 4, at_ := 0, kind := .access a.id, team := t }
  | _, _, _ => none

/-- Whose reservation a claim is served by: the warp's, or a chain's own (R283, R289, log 16). -/
def Claim.key (c : Claim) : Nat :=
  match c.kind with
  | .chain _ id => chainKey id
  | _ => c.warp

/-- Claims of the chains of a core whose next unit is not charged: each competes as a wide instruction of its warp (R283). -/
def chainClaims (s : State) (core : Nat) : List Claim :=
  (coreAt s core).chains.filterMap fun c =>
    if c.count ≤ c.next || c.next < c.paid then none
    else some { warp := c.warp, price := chainPrice c.bytes, at_ := c.claim.getD (aclkAt s core), kind := .chain core c.id, team := c.team }

/-- The claimants of a cluster, one for each warp and one for each chain (R287, R283). -/
def claims (s : State) (cl : Nat) : List Claim :=
  let wide := (clusterCores cl).flatMap fun c => [0, 1].flatMap fun p => portClaims s c p
  let teams := clusterTeams s cl
  let all := wide ++ teams.filterMap (fun t => jointClaim s t.1) ++ teams.filterMap fun t => againClaim s t.1 t.2
  all.foldl (fun l c => if l.any fun d => d.warp = c.warp then l else l ++ [c]) [] ++ (clusterCores cl).flatMap (chainClaims s)

/-- A claimant is served before another: higher priority, earlier claim, lower core, lower warp (R287). -/
def claimBefore (s : State) (a b : Claim) : Bool :=
  let key := fun c : Claim => ((teamAt s c.team).core, (warpAt s c.warp).wid)
  let pa := warpPrio s a.warp
  let pb := warpPrio s b.warp
  if pa ≠ pb then decide (pb < pa)
  else if a.at_ ≠ b.at_ then decide (a.at_ < b.at_)
  else if (key a).1 ≠ (key b).1 then decide ((key a).1 < (key b).1)
  else decide ((key a).2 < (key b).2 || ((key a).2 = (key b).2 && a.warp < b.warp))

/-- A claim put in its order. -/
def insertClaim (s : State) (c : Claim) : List Claim → List Claim
  | [] => [c]
  | d :: ds => if claimBefore s c d then c :: d :: ds else d :: insertClaim s c ds

/-- A claim granted: its price is charged, and the warp may issue, the joint MMA may leave its latch, or the restored MMA
enters the queue (R287, R288, R269). -/
def grantClaim (s : State) (cl : Nat) (c : Claim) : State :=
  let s := chargeFor s cl (teamAt s c.team).ctx c.price
  match c.kind with
  | .again =>
    let t := teamAt s c.team
    let k := coreAt s t.core
    let s := putTeam s c.team { t with mxImage := t.mxImage.drop 1 }
    putCore s t.core (setMx k ((k.queue ++ k.waiting) ++ t.mxImage.take 1))
  | .access id => resumeAcc s id
  | .chain core id =>
    let k := coreAt s core
    putCore s core { k with
      chains := k.chains.map fun y => if y.id = id then { y with paid := unitEnd y, claim := none, wpass := 0 } else y }
  | _ => putWarp s c.warp { warpAt s c.warp with standing := true, queued := false, wpass := 0, claimAt := some c.at_ }

/-- A reservation joins the queue (R289). -/
def pushResv (x : Cluster) (c : Claim) : Cluster :=
  { x with
    resv := x.resv ++ [c.key], prices := aput x.prices c.key c.price, want := if x.resv = [] then c.price else x.want }

/-- A claim refused: a pass-over is counted, and the eighth makes a reservation (R287, R289). -/
def refuseClaim (s : State) (cl : Nat) (c : Claim) : State :=
  let x := clusterAt s cl
  match c.kind with
  | .again | .access _ => s
  | .chain core id =>
    let k := coreAt s core
    match k.chains.find? fun y => y.id = id with
    | none => s
    | some y =>
      let s := putChain s core { y with wpass := y.wpass + 1, claim := some c.at_ }
      if y.wpass + 1 = 8 && !x.resv.contains c.key then putCluster s cl (pushResv x c) else s
  | .wide | .joint =>
    let w := warpAt s c.warp
    let n := w.wpass + 1
    if n = 8 && !w.queued then putWarp (putCluster s cl (pushResv x c)) c.warp { w with wpass := n, queued := true, claimAt := some c.at_ }
    else putWarp s c.warp { w with wpass := n, claimAt := some c.at_ }

/-- Tokens of the pocket held for the head of the reservation queue, up to its price (R289). -/
def holdTokens (x : Cluster) : Cluster :=
  { x with held := if x.resv = [] then 0 else Nat.min x.want (pocketCount x) }

/-- The heads of the reservation queue are served while they claim and the tokens held for them reach their price (R287,
R289). -/
def serveHeads (cl : Nat) : Nat → State → List Claim → State × List Claim
  | 0, s, cs => (s, cs)
  | fuel + 1, s, cs =>
    let x := clusterAt s cl
    match x.resv with
    | [] => (s, cs)
    | k :: _ =>
      match cs.find? fun c => c.key = k with
      | none => (s, cs)
      | some c =>
        let x := holdTokens { x with want := c.price }
        let s := putCluster s cl x
        let cs := cs.filter fun d => d.key ≠ k
        if x.held < c.price then (s, cs)
        else
          let s := grantClaim (putCluster s cl (dropResv x k)) cl c
          serveHeads cl fuel (putCluster s cl (holdTokens (clusterAt s cl))) cs

/-- One claimant that is not the head is served from the tokens that are not held (R287). -/
def serveClaim (cl : Nat) (s : State) (c : Claim) : State :=
  if c.price ≤ freeTokens (clusterAt s cl) then
    let x := clusterAt s cl
    let s := if x.resv.contains c.key then putCluster s cl (dropResv x c.key) else s
    grantClaim s cl c
  else refuseClaim s cl c

/-- TOKEN_GRANT: the claimants of a cluster are served for this aclk (R287 to R289). -/
def execTokenGrant (cluster : Nat) (s : State) : Host.Outcome State Fault Refusal :=
  .next (
    let cs := (claims s cluster).foldl (fun l c => insertClaim s c l) []
    let r := serveHeads cluster 192 s cs
    let s := r.2.foldl (serveClaim cluster) r.1
    putCluster s cluster (holdTokens (clusterAt s cluster)))

/-! ### The ring -/

/-- Nanoseconds of a lap (R285). -/
def lapNs : Nat := 22
/-- The lap number (R285). -/
def lapOf (s : State) : Nat := s.time / lapNs

/-- RING_LAP: at the start of a lap the controller injects INJ tokens; a corrupt lap is discarded whole (R285, R418). -/
def execRingLap (reticle : Nat) (corrupt : Bool) (s : State) : Host.Outcome State Fault Refusal :=
  .next (
    let r := reticleAt s reticle
    if s.time % lapNs ≠ 0 then s
    else if corrupt then
      report (putReticle s reticle { r with lapInj := 0, spares := r.spares.filter fun x => lapOf s < x.1 + 2 }) { cause := 0xB7, engine := engineOf 12 reticle 0, syn := w64 (lapOf s) }
    else
      putReticle s reticle { r with
        lapInj := r.inj, spares := r.spares.filter fun x => lapOf s < x.1 + 2 })

/-- The share of station k of a lap (R286). -/
def shareOf (inj lap k : Nat) : Nat := inj / 10 + (if (k + 10 - lap % 10) % 10 < inj % 10 then 1 else 0)

/-- Tokens of one lap put into a pocket as far as they fit; the rest travel on (R286). -/
def pocketTake (x : Cluster) (lap n : Nat) : Cluster × Nat :=
  let m := Nat.min n (pocketRoom x)
  (addTokens x lap m, n - m)

/-- RING_STATION_VISIT: 2 (k + 1) ns into the lap (R285) the station of cluster k pockets its share, then spares while there is room (R286). -/
def execRingStationVisit (reticle station : Nat) (s : State) : Host.Outcome State Fault Refusal :=
  .next (
    let r := reticleAt s reticle
    let cl := 10 * reticle + station
    if 10 ≤ station || s.time % lapNs ≠ 2 * (station + 1) then s
    else
      let x := clusterAt s cl
      let own := pocketTake x (lapOf s) (shareOf r.lapInj (lapOf s) station)
      let y := r.spares.foldl (fun (y : Cluster × List (Nat × Nat)) t =>
        let z := pocketTake y.1 t.1 t.2
        (z.1, if z.2 = 0 then y.2 else y.2 ++ [(t.1, z.2)])) (own.1, [])
      let spares := if own.2 = 0 then y.2 else aput y.2 (lapOf s) (aget 0 y.2 (lapOf s) + own.2)
      putReticle (putCluster s cl (holdTokens y.1)) reticle { r with spares := spares })

/-- TOKEN_EVAPORATION: tokens two laps old and not held evaporate; the oldest are the held ones (R286, R289). -/
def execTokenEvaporation (cluster : Nat) (s : State) : Host.Outcome State Fault Refusal :=
  .next (
    let x := clusterAt s cluster
    let old := (x.pocket.filter fun t => t.1 + 2 ≤ lapOf s).foldl (fun n t => n + t.2) 0
    putCluster s cluster (charge x (old - x.held)))

/-! ### The power controller -/

/-- The ceiling of a reticle: its base limit, or a higher boost (R291). -/
def ceilingOf (r : Reticle) : Nat := Nat.max r.base r.boost

/-- INJ from the three rates (R292). -/
def injOf (r : Reticle) : Nat :=
  if r.thermal < 40 then r.thermal
  else Nat.max 40 (Nat.min r.thermal (Nat.min r.current (Nat.min (ceilingOf r) 2550)))

/-- PWC_CONTROL_INTERVAL: at each 10 µs boundary the controller computes its rates from its sensors and sets INJ (R291, R292, log 15);
a thermal trip, a governing current limit and frequent droops are reported (R377, R419). -/
def execPwcControlInterval (reticle thermal current degC : Nat) (s : State) : Host.Outcome State Fault Refusal :=
  .next (
    if s.time % 10000 ≠ 0 || Config.reticles ≤ reticle then s
    else
      let r := reticleAt s reticle
      let r := { r with thermal := Nat.min thermal 2550, current := Nat.min current 2550 }
      let inj := injOf r
      let trip := decide (r.thermal < 40)
      let fresh := trip && r.tripAt.isNone
      let r := { r with
        inj := inj, hot := if 2 * r.thermal < r.base then r.hot + 1 else 0
        tripAt := if trip then some (r.tripAt.getD s.time) else none
        belowAt := if inj < r.base then some (r.belowAt.getD s.time) else none }
      let e := engineOf 12 reticle 0
      let s := putReticle s reticle r
      let s := if fresh then report s { cause := 0xB3, sev := 1, engine := e, syn := w64 degC } else s
      let s := if !trip && inj = r.current && r.current < Nat.min r.thermal (ceilingOf r) then
          report s { cause := 0xB1, engine := e, syn := w64 inj } else s
      (List.range 10).foldl (fun s k =>
        let x := clusterAt s (10 * reticle + k)
        if x.droops = 0 then s
        else
          let s := putCluster s (10 * reticle + k) { x with droops := 0 }
          if 1000 < x.droops then report s { cause := 0xB2, engine := e, syn := w64 k } else s) s)

/-- THROTTLED: INJ has been below the base limit for 1 ms (Table 23-2). -/
def execThrottled (reticle : Nat) (s : State) : Host.Outcome State Fault Refusal :=
  .next (
    let r := reticleAt s reticle
    match r.belowAt with
    | some t =>
      if t + 1000000 ≤ s.time then
        report (putReticle s reticle { r with belowAt := some s.time }) { cause := 0xB0, engine := engineOf 12 reticle 0, syn := w64 r.inj }
      else s
    | none => s)

/-- BOOST_GRANT: the Vilvor controller grants or revokes a boost ceiling; none is granted while a power limit stands (R291,
R419). -/
def execBoostGrant (reticle ceiling : Nat) (s : State) : Host.Outcome State Fault Refusal :=
  .next (
    let r := reticleAt s reticle
    if s.time < s.boostStop && ceiling ≠ 0 then s else putReticle s reticle { r with boost := ceiling })

/-- POWER_LIMIT: the module has drawn more than 24 kW for 1 ms: every boost is revoked until 1 s after the last excess
(Table 23-2). -/
def execPowerLimit (watts : Nat) (s : State) : Host.Outcome State Fault Refusal :=
  .next (
    if watts ≤ 24000 then { s with powerAt := none }
    else
      let t := s.powerAt.getD s.time
      let new := decide (s.boostStop ≤ s.time)
      let s := { s with powerAt := some t }
      if s.time < t + 1000000 then s
      else
        let s := { s with
          boostStop := s.time + 1000000000, retics := s.retics.map fun r => (r.1, { r.2 with boost := 0 }) }
        if new then report s { cause := 0xBF, sev := 1, engine := deviceEngine 14 0, syn := w64 watts } else s)

/-- THERMAL_SHUTDOWN: a trip that has lasted 10 ms resets the reticle (Table 23-2). -/
def execThermalShutdown (reticle degC : Nat) (s : State) : Host.Outcome State Fault Refusal :=
  .next (match (reticleAt s reticle).tripAt with
  | some t =>
    if t + 10000000 ≤ s.time then
      let s := promise s (reticleKey reticle) { cause := 0xB4, sev := 3, action := 6, engine := engineOf 12 reticle 0, syn := w64 degC }
      { s with agenda := .event (.reticleReset reticle 0xB4) :: s.agenda }
    else s
  | none => s)

/-- RAIL_GAP: logic and SRAM rails more than 150 mV apart reset the reticle (R295, Table 23-2). -/
def execRailGap (reticle mv : Nat) (s : State) : Host.Outcome State Fault Refusal :=
  .next (
    if mv ≤ 150 then s
    else
      let s := promise s (reticleKey reticle) { cause := 0xB6, sev := 3, action := 6, engine := engineOf 12 reticle 0, syn := w64 mv }
      { s with agenda := .event (.reticleReset reticle 0xB6) :: s.agenda })

/-! ### Clocks -/

/-- FREQUENCY_STEP_CHANGE: firmware stops a cluster's issue for a new step; the same step again says that the clock has relocked,
and issue resumes (R293, log 3). -/
def execFrequencyStepChange (cluster freq : Nat) (s : State) : Host.Outcome State Fault Refusal :=
  .next (
    let x := clusterAt s cluster
    if 16 ≤ freq || x.permit < freq then s
    else
      match x.stopEnd with
      | none => putCluster s cluster { x with prev := x.freq, freq := freq, stopEnd := some (s.time + 1500) }
      | some _ => if freq = x.freq then putCluster s cluster { x with stopEnd := none } else s)

/-- STEP_RELOCK_TIMEOUT: a change that has not relocked within 1.5 µs ends at the previous step (Table 23-2). -/
def execStepRelockTimeout (cluster : Nat) (s : State) : Host.Outcome State Fault Refusal :=
  .next (
    let x := clusterAt s cluster
    match x.stopEnd with
    | some t =>
      if s.time < t then s
      else
        report (putCluster s cluster { x with freq := x.prev, stopEnd := none })
          { cause := 0xB5, sev := 1, engine := engineOf 12 (cluster / 10) 0, syn := w64 (x.freq + 256 * (cluster % 10)) }
    | none => s)

/-- DROOP_STRETCH: the detector lengthens the cluster's aclk periods (R294). -/
def execDroopStretch (cluster : Nat) (s : State) : Host.Outcome State Fault Refusal :=
  let x := clusterAt s cluster
  .next (putCluster s cluster { x with stretch := true, droops := x.droops + 1 })

/-- DROOP_RECOVERY: the rail has recovered (R294). -/
def execDroopRecovery (cluster : Nat) (s : State) : Host.Outcome State Fault Refusal :=
  .next (putCluster s cluster { clusterAt s cluster with stretch := false })

/-! ### Energy -/

/-- A part of an amount in proportion to a share of a total. -/
def proportion (amount share total : Nat) : Nat := if total = 0 then 0 else amount * share / total

/-- The sum of the values of a list. -/
def sumVals (m : List (Nat × Nat)) : Nat := m.foldl (fun n x => n + x.2) 0

/-- The energy of a period on one reticle that falls to a context, in nJ: the dynamic part by tokens and the rest by warp
time; by tokens of 4 nJ alone where the metering failed (R285, R296, R377). -/
def energyShare (r : Reticle) (dynamic rest : Nat) (metered : Bool) (ctx : Nat) : Nat :=
  if metered then
    proportion dynamic (aget 0 r.spent ctx) (sumVals r.spent) + proportion rest (aget 0 r.resided ctx) (sumVals r.resided)
  else 4 * aget 0 r.spent ctx

/-- ENERGY_UPDATE: at each 100 µs point the measured energy of each reticle, in nJ, is attributed to contexts, and %ENERGY advances by
whole millijoules (R296, log 15). -/
def execEnergyUpdate (dynamic : List (Nat × Nat)) (rest : List (Nat × Nat)) (metered : Bool) (s : State) :
    Host.Outcome State Fault Refusal :=
  .next (
    if s.time % 100000 ≠ 0 then s
    else
      let add := fun (c : Nat × Ctx) =>
        let e := s.retics.foldl (fun n r => n + energyShare r.2 (aget 0 dynamic r.1) (aget 0 rest r.1) metered c.1) c.2.remainder
        (c.1, { c.2 with energy := (c.2.energy + e / 1000000) % 2 ^ 64, remainder := e % 1000000 })
      let s := { s with ctxs := s.ctxs.map add, retics := s.retics.map fun r => (r.1, { r.2 with spent := [], resided := [] }) }
      if metered then s else report s { cause := 0xBD, engine := engineOf 12 0 0 })

end Sys2Proof.Machine
end

