-- ==== Sys2Proof/Machine/Faults.lean ====
section
/-!
DEFINITION. Page walks and the fault queue (R117, R398 to R400), invalidation (R118, R319), folded and overwritten records (R365,
R377), the watchdog (R412 to R415), engines and sequence units without progress (R372, R404), cold text (R325), and soft errors
(R390).
-/
namespace Sys2Proof.Machine
open Sys2Proof

/-! ### Walks -/

/-- A warp's result of a walk, until its instruction issues: the page, the cause and its syndrome; a missing page that is only
reported back carries bit 8 (R232). -/
def noteWalk (w : Warp) (r : WalkReq) (cause : Nat) (syn : Word) : Warp :=
  { w with walks := w.walks.filter fun x => x ≠ r
           walkBad := (w.walkBad.filter fun b => b.1 ≠ r.page) ++ [(r.page, cause, if r.guarded then syn ||| 256#64 else syn)] }

/-- The record of a missing page that a warp's walk met (R398, R362). -/
def walkRecord (s : State) (k : Nat) (r : WalkReq) (level : Nat) : Record :=
  let x := threadRecord s k r.lane r.pc r.va (w64 level)
  if bit (txLanes (warpAt s k)) r.lane then { x with flags := x.flags ||| 4 } else x

/-- A walk of a warp that met a missing page: reported back, or enqueued, or waiting at its walker (R398). -/
def missWalk (s : State) (k : Nat) (r : WalkReq) (level : Nat) : State :=
  let cn := warpCtx s k
  if r.guarded then putWarp s k (noteWalk (warpAt s k) r 0x30 (w64 level))
  else
    let s := enqueuePage s cn r.page (walkRecord s k r level)
    let w := warpAt s k
    if pagePending s cn r.page then putWarp s k (noteWalk w r 0x30 (w64 level))
    else putWarp s k { w with walks := w.walks.map fun x => if x = r then { x with waits := true } else x }

/-- The walks that the warps of a reticle wait for. -/
def reticleWalks (s : State) (ret : Nat) : List WalkReq :=
  s.warps.flatMap fun x => if x.2.walks ≠ [] && reticleOf (teamAt s x.2.team).core = ret then x.2.walks else []

/-- Walkers of a reticle that are free: of 2 units of 32, without those withdrawn and those at which a walk waits for the full fault
queue (R117, R398). -/
def walkersFree (s : State) (ret : Nat) : Nat :=
  64 - aget 0 s.walkersOut (2 * ret) - aget 0 s.walkersOut (2 * ret + 1) - ((reticleWalks s ret).filter fun r => r.waits).length

/-- A miss that finds a walker: fewer older misses than free walkers stand before it (R117). -/
def walkTurn (s : State) (ret : Nat) (r : WalkReq) : Bool :=
  ((reticleWalks s ret).filter fun x => !x.waits && x.since < r.since).length < walkersFree s ret

/-- A walk of a warp that has brought a leaf. -/
def walkDone (s : State) (k : Nat) (r : WalkReq) (leaf : Word) : State :=
  let w := warpAt s k
  putWarp s k { w with walks := w.walks.filter fun x => x ≠ r, walked := aput w.walked r.page leaf }

/-- The reads of a walker are served by the wafer cache as those of its reticle (R117, R126). -/
def walkUses (s : State) (ret root : Nat) (va : Word) : State :=
  (if root % 4096 ≠ 0 || tierOf root ≠ .hbm then [] else walkPath s.mem va.toNat 5 0 root).foldl (fun s a => useByLoad (placeFor s false 0 a) noWarp ret false false a) s

/-- PAGE_WALK: a warp's oldest miss looks up the last-level TLB of its reticle, and takes a walker where that misses too (R115 to R117,
R398, R401). -/
def execPageWalk (warp : Nat) (s : State) : Host.Outcome State Fault Refusal :=
  .next (
    let w := warpAt s warp
    let t := teamAt s w.team
    let ret := reticleOf t.core
    match w.walks.find? fun r => !r.waits with
    | none => s
    | some r =>
      match s.tlb.find? (tlbHit (reticleTlb ret) t.ctx r.page) with
      | some e => walkDone (tlbPut s { e with unit := coreTlb t.core }) warp r (smallLeaf e.leaf r.va.toNat e.bits)
      | none =>
        if !walkTurn s ret r then s
        else
          let root := (ctxAt s t.ctx).root
          let u := walkUses s ret root r.va
          match walk s.mem s.poison root r.va.toNat with
          | .leaf e n => walkDone (tlbFill u t.core t.ctx r.va e n) warp r (smallLeaf e r.va.toNat n)
          | .absent n => missWalk u warp r n
          | .bad c y => putWarp u warp (noteWalk w r c y))

/-- Walks of a context that wait for a page at a full queue are attached to its record (R398). -/
def attachWalks (s : State) (cn page : Nat) : State :=
  s.warps.foldl (fun s x =>
    if warpCtx s x.1 ≠ cn then s
    else
      (x.2.walks.filter fun r => r.waits && r.page = page).foldl (fun s r =>
        putWarp s x.1 (noteWalk (warpAt s x.1) r 0x30 (w64 (absentLevel s cn r.va)))) s) s

/-- FAULT_QUEUE_ADMIT: room in the queue takes the oldest access that waits at a walker (R398). -/
def execFaultQueueAdmit (s : State) : Host.Outcome State Fault Refusal :=
  .next (match s.fqWait with
  | [] => s
  | (cn, page, r) :: rest =>
    if fqueueSize ≤ s.fqueue.length then s
    else
      let s := { s with fqWait := rest }
      attachWalks (if pagePending s cn page then s else admitPage s cn page r) cn page)

/-! ### Replay -/

/-- The accesses of a context with waiting lanes, oldest first. -/
def waitingAccs (s : State) (cn : Nat) : List Acc :=
  (s.accs.map (·.2)).filter fun a => warpCtx s a.warp = cn && a.lanes.any fun l => l.live && l.wait

/-- A waiting lane may wait for a page: an LDS resolves through several. -/
def waitsFor (a : Acc) (page : Nat) (l : LaneAcc) : Bool := a.kind = .lds || pageOf l.va = page

/-- The walk results of a context that note a missing page, changed by f. -/
def mapMissing (s : State) (cn page : Nat) (f : Nat × Nat × Word → List (Nat × Nat × Word)) : State :=
  { s with warps := s.warps.map fun x =>
      if warpCtx s x.1 = cn then
        (x.1, { x.2 with walkBad := x.2.walkBad.flatMap fun b =>
          if b.1 = page && b.2.1 = 0x30 && bit b.2.2 8 = false then f b else [b] })
      else x }

/-- A pending page leaves the queue (R398). -/
def dropPage (s : State) (p : Page) : State := { s with fqueue := s.fqueue.filter fun x => x ≠ p, fqFull := false }

/-- Every access attached to a page walks again, in order of age (R399). Agents other than threads read again by themselves. -/
def replayPage (s : State) (p : Page) : State :=
  let s := mapMissing (dropPage s p) p.ctx p.page fun _ => []
  (waitingAccs s p.ctx).foldl (fun s a =>
    if (teamAt s (warpAt s a.warp).team).status = .saved then s else rewalkAcc s a.id (waitsFor a p.page)) s

/-- The waiting lanes of an access end with SERVICE_FAILED (R399). -/
def failWaiting (s : State) (a : Acc) (page : Nat) (status : Word) : State :=
  let hit := a.lanes.filter fun l => l.live && l.wait && (match a.kind, againLane s a l with
    | .lds, (_, .wait va) => pageOf va = page
    | _, _ => pageOf l.va = page)
  let cs := hit.map fun l => { lane := l.lane, cause := 0x36, addr := some l.va.toNat, syn := status : LaneCause }
  let rest := a.lanes.map fun l => if hit.any (fun h => h.lane = l.lane) then { l with live := false, wait := false } else l
  strikeLanes (afterServe (putAcc s { a with lanes := rest }) a.id) a cs

/-- The requests of sequence units that wait for a page fail (R399, R404). -/
def failSqu (s : State) (cn page : Nat) (status : Word) : State :=
  s.squ.foldl (fun s r =>
    if warpCtx s r.warp ≠ cn then s
    else
      match squStep s r with
      | .error (.wait p) => if p = page then squFail s r 0x36 (some (page * 65536)) status else s
      | _ => s) s

/-- The requests and chains of engines that wait for a page fail (R399). -/
def failEngines (s : State) (cn page : Nat) : State :=
  s.cores.foldl (fun s c =>
    let s := c.2.reqs.foldl (fun s r =>
      if (teamAt s r.team).ctx = cn && r.waits = some page then failReq s c.1 r 0x63 (some (page * 65536)) (0x36 + 256 * r.kicked)
      else s) s
    c.2.chains.foldl (fun s h =>
      if (teamAt s h.team).ctx ≠ cn then s
      else
        match chainElem s h h.next 0 with
        | .wait p =>
          if p ≠ page then s
          else detect (dropChain s c.1 h) h.warp
            { pc := h.pc, deferred := true, engine := coreEngine 3 c.1, pix := pixOf h.pc h.next
              lanes := (lanesOf h.run).map fun l => { lane := l, cause := 0x6A, addr := some (page * 65536), syn := 0x36#64 } }
        | _ => s) s) s

/-- A word of the dispatcher waits for a page. -/
def dispWaits (s : State) (cn page : Nat) (va : Word) (n : Nat) : Bool :=
  match dispRead s cn va n with
  | .wait p => p = page
  | _ => false

/-- The dispatcher's reads and writes that wait for a page fail (R399). -/
def failDispatcher (s : State) (cn page : Nat) : State :=
  let c := ctxAt s cn
  let s := c.queues.foldl (fun s q =>
    let x := q.2
    let va := x.ring + w64 (256 * (x.read % 2 ^ x.log2n))
    let s := if x.enable && !x.stopped && x.read < x.write && dispWaits s cn page va 256 then
        stopQueue s cn q.1 0xA1 0x36 va
      else s
    x.pending.foldl (fun s r =>
      [0, 1].foldl (fun s dep =>
        let a := w64 (recField r.1 (0x40 + 16 * dep) 8)
        if r.2 / 2 ^ dep % 2 = 0 && dispWaits s cn page a 8 then signalFault s cn (dep + 1) a else s) s) s) s
  c.grids.foldl (fun s g =>
    let a := w64 (recField g.record 0x30 8)
    let s := [0, 1].foldl (fun s dep =>
      let b := w64 (recField g.record (0x40 + 16 * dep) 8)
      if !g.started && !g.deps.getD dep true && dispWaits s cn page b 8 then signalFault s cn (dep + 1) b else s) s
    if gridOver g && a ≠ 0#64 && dispWaits s cn page a 8 then signalFault s cn 0 a else s) s

/-- Every access attached to a page ends with SERVICE_FAILED and the host's status (R399). -/
def refusePage (s : State) (p : Page) (status : Word) : State :=
  let s := dropPage s p
  let s := mapMissing s p.ctx p.page fun b => [(b.1, 0x36, status)]
  let s := (waitingAccs s p.ctx).foldl (fun s a => failWaiting s a p.page status) s
  failDispatcher (failEngines (failSqu s p.ctx p.page status) p.ctx p.page) p.ctx p.page

/-- A write of REPGO: a replay request with status 0 makes the attached accesses walk again, any other ends them; one that names
no pending record is stray (R399, R425). -/
def replayRequest (s : State) (ctx value : Nat) : State :=
  let c := ctxAt s ctx
  if value ≠ 1 then s
  else
    match s.fqueue.find? fun p => p.ctx = ctx && p.seq = c.repseq with
    | none =>
      let f := freeValue s
      report f.2 { cause := 0x3E, sev := 1, flags := 1, engine := walkEngine 0, ctx := ctx, addr := f.1.toNat }
    | some p => if c.repstat = 0 then replayPage s p else refusePage s p (w64 c.repstat)

/-- REPGO: the host submits a replay request (R399). -/
def execRepgo (ctx value : Nat) (s : State) : Host.Outcome State Fault Refusal := .next (replayRequest s ctx value)

/-- FAULT_SERVICE_LIMIT: a pending page whose count has passed the limit faults its context (R400). -/
def execFaultServiceLimit (ctx : Nat) (s : State) : Host.Outcome State Fault Refusal :=
  .next (
    let c := ctxAt s ctx
    match s.fqueue.find? fun p => p.ctx = ctx && c.fslimit * 1000 < s.time - p.since with
    | some p =>
      if c.faulted.isSome then s
      else faultCtxWith s ctx { cause := 0x37, engine := deviceEngine 13 0, syn := w64 ((s.time - p.since) / 1000) }
    | none => s)

/-! ### Invalidation -/

/-- A page lies in the range of an invalidation (R118, R319); a length of 0 takes the whole context. -/
def inRange (va len page : Nat) : Bool := len = 0 || (decide (va < (page + 1) * 65536) && decide (page * 65536 < va + len))

/-- Lanes that own buffered stores in the range abort with code 3 (R245). -/
def abortInRange (s : State) (cn va len : Nat) : State :=
  s.warps.foldl (fun s x =>
    if warpCtx s x.1 ≠ cn then s
    else
      match (warpAt s x.1).tx with
      | none => s
      | some t =>
        let m := t.stores.foldl (fun m e => if !e.ts && inRange va len (e.addr / 65536) then m ||| laneBit e.lane else m) 0#64
        if m = 0#64 then s else txAbort s x.1 m 3 0) s

/-- An invalidation of a range of a context: TLB entries and walk results drop, and BUSY is set (R118, R319). -/
def invalidate (s : State) (cn va len : Nat) : State :=
  let s := abortInRange s cn va len
  let c := ctxAt s cn
  let s := putCtx s cn { c with invBusy := true, invAt := s.time, invMark := s.nextId }
  { s with
    tlb := s.tlb.filter fun e => !(e.ctx = cn && e.meets va len)
    warps := s.warps.map fun x =>
      if warpCtx s x.1 = cn then
        (x.1, { x.2 with
          walkBad := x.2.walkBad.filter fun b => b.2.1 = 0x30 || !inRange va len b.1
          walked := x.2.walked.filter fun b => !inRange va len b.1 })
      else x }

/-- A write of INVGO: one of 1 while BUSY is clear starts an invalidation; one beyond 2^57 takes the whole context (R319,
INV_RANGE). -/
def startInvalidation (s : State) (ctx value : Nat) : State :=
  let c := ctxAt s ctx
  if value ≠ 1 || c.invBusy || !c.enabled then s
  else if 2 ^ 57 < c.invva + c.invlen then
    report (invalidate s ctx 0 0) { cause := 0xAF, sev := 1, engine := walkEngine 0, ctx := ctx }
  else invalidate s ctx c.invva c.invlen

/-- INVGO: an invalidation starts (R118, R319). -/
def execInvgo (ctx value : Nat) (s : State) : Host.Outcome State Fault Refusal := .next (startInvalidation s ctx value)

/-- Every access of a context that began before an invalidation has performed (R118). -/
def oldAccsDone (s : State) (cn mark : Nat) : Bool :=
  ((s.accs.map (·.2)).all fun a => mark ≤ a.id || warpCtx s a.warp ≠ cn || a.lanes.all fun l => !l.live || l.done || l.wait)
    && !anyCollapsing s

/-- INVALIDATION_COMPLETE: the count increments and BUSY clears in one step (R118, R319). -/
def execInvalidationComplete (ctx : Nat) (s : State) : Host.Outcome State Fault Refusal :=
  .next (
    let c := ctxAt s ctx
    if c.invBusy && oldAccsDone s ctx c.invMark then
      putCtx s ctx { c with invBusy := false, invCount := (c.invCount + 1) % 2 ^ 31 }
    else s)

/-- INV_TIMEOUT: an invalidation not complete within 1 ms resets the reticle (Table 20-6). -/
def execInvTimeout (ctx reticle : Nat) (s : State) : Host.Outcome State Fault Refusal :=
  .next (
    let c := ctxAt s ctx
    if !c.invBusy || s.time < c.invAt + 1000000 then s
    else
      let s := putCtx s ctx { c with invAt := s.time }
      let s := promise s (reticleKey reticle) { cause := 0x3A, sev := 3, action := 6, engine := walkEngine reticle, ctx := ctx }
      { s with agenda := .event (.reticleReset reticle 0x3A) :: s.agenda })

/-! ### Records -/

/-- RECORD_FOLD_EXPIRY: at the end of a folding period one record of the pending events is written; with none, the period is
over (R365). -/
def execRecordFoldExpiry (engine cause : Nat) (s : State) : Host.Outcome State Fault Refusal :=
  .next (match s.folds.find? fun f => f.engine = engine && f.cause = cause with
  | none => s
  | some f =>
    if s.time < f.last + 1000000 then s
    else
      match f.first with
      | none => { s with folds := s.folds.filter fun x => !(x.engine = engine && x.cause = cause) }
      | some r =>
        let s := { s with
          seqNext := s.seqNext + 1
          folds := s.folds.map fun x =>
            if x.engine = engine && x.cause = cause then { x with first := none, count := 0, last := s.time } else x }
        publish s { r with seq := s.seqNext - 1, syn := foldSyn f.count r.syn })

/-- LOG_WRAP: overwrites of records of severity 1 or 2 are reported at most once per 1 ms (R377). -/
def execLogWrap (s : State) : Host.Outcome State Fault Refusal :=
  .next (
    if s.logLost = 0 || (match s.logTold with | some t => decide (s.time < t + 1000000) | none => false) then s
    else report { s with logLost := 0, logTold := some s.time }
      { cause := 0xBE, sev := 1, engine := deviceEngine 14 0, syn := w64 s.logLost })

/-! ### Time-outs -/

/-- WATCHDOG_EXPIRY: at a whole microsecond a grid's count has reached the limit and its context is faulted; with a save in progress the record is
WATCHDOG_SAVE and follows the saves (R413, R414). -/
def execWatchdogExpiry (ctx grid : Nat) (s : State) : Host.Outcome State Fault Refusal :=
  .next (
    let c := ctxAt s ctx
    match gridOf c grid with
    | none => s
    | some g =>
      if c.wdlimit = 0 || g.dog < c.wdlimit || c.faulted.isSome || s.time % 1000 ≠ 0 then s
      else
        let saving := s.teams.any fun t => t.2.ctx = ctx && t.2.status = .saving
        faultCtxWith s ctx { cause := if saving then 0xB9 else 0xB8, engine := deviceEngine 13 0, grid := grid, syn := w64 g.dog })

/-- ENGINE_NO_PROGRESS: an engine that has moved nothing for 1 ms is reset: what it had started is lost, what it had not is queued
again, and the core is reset (R372). -/
def execEngineNoProgress (core : Nat) (chain : Bool) (s : State) : Host.Outcome State Fault Refusal :=
  .next (
    let c := coreAt s core
    let stale := fun t : Nat => decide (t + 1000000 ≤ s.time)
    let reqs := c.reqs.filter fun r => r.state = 2 && r.waits.isNone
    if !(if chain then c.chains.any fun x => stale x.since else reqs.any fun r => stale r.since) then s
    else
      let s := promise s (coreKey core) { cause := 0x6E, sev := 3, action := if (recentResets s core).length = 15 then 5 else 4, engine := coreEngine (if chain then 3 else 2) core }
      let s := if chain then
          c.chains.foldl (fun s x =>
            detect (dropChain s core x) x.warp
              { pc := x.pc, deferred := true, engine := coreEngine 3 core, pix := pixOf x.pc x.next
                lanes := (lanesOf x.run).map fun l => { lane := l, cause := 0x6F, syn := 0xFF#64 } }) s
        else (c.reqs.filter fun r => 2 ≤ r.state).foldl (fun s r => failReq s core r 0x6F none r.kicked) s
      { s with agenda := .event (.coreReset core 0x6E) :: s.agenda })

/-- SQU_TIMEOUT: a sequence request unserved for 10 ms evacuates the anchor slice; a wait for the host does not count (R400, R404). -/
def execSquTimeout (req : Nat) (s : State) : Host.Outcome State Fault Refusal :=
  .next (match s.squ.find? fun r => r.id = req with
  | none => s
  | some r =>
    if r.told || s.time < r.since + 10000000 || squWaits s r then s
    else
      let a := anchorOf s (lineOf r.desc)
      let s := { s with squ := s.squ.map fun x => if x.id = req then { x with told := true } else x }
      let s := promise s (sliceKey a) { cause := 0x5E, sev := 3, action := 5, engine := squEngine s r.desc }
      let s := closeSlice s a 0x5E
      { s with agenda := .event (.sliceEvacuation a) :: s.agenda })

/-! ### Cold text -/

/-- The code object of a context that covers a piece of cold text: where COLD and COLDSRC are (Table 15-5). -/
def coldObject (s : State) (cn piece : Nat) : Option (Nat × Nat) :=
  (ctxAt s cn).grids.findSome? fun g =>
    let code := recField g.record 0x28 8
    if code = 0 then none
    else
      match readVa s cn (w64 (code + 0x18)) 24 with
      | .error _ => none
      | .ok bs =>
        let lo := leVal (bs.take 8)
        let n := leVal ((bs.drop 8).take 8)
        if lo ≤ 4096 * piece && 4096 * piece < lo + n then some (lo, leVal (bs.drop 16)) else none

/-- The warps of a context whose next packet lies in a piece, or whose BRX waits for it. -/
def coldWaiters (s : State) (cn piece : Nat) : List (Nat × PcEntry) :=
  s.warps.filterMap fun x =>
    if warpCtx s x.1 ≠ cn || x.2.exited then none
    else
      match chosenRun (runsOf x.2) with
      | some e => if (pktOf e.pc).toNat / 4096 = piece || x.2.coldFor = some piece then some (x.1, e) else none
      | none => none

/-- COLD_TEXT_LOAD: the device copies a piece of cold text; a copy that fails, by its own reads or by `failed` at the port, faults
the context of the lowest waiting warp (R325, COLD_FETCH). -/
def execColdTextLoad (ctx piece : Nat) (failed : Option Nat) (s : State) : Host.Outcome State Fault Refusal :=
  .next (
    let c := ctxAt s ctx
    if c.cold.contains piece then s
    else
      match coldObject s ctx piece with
      | none => s
      | some (lo, src) =>
        let bs := readVa s ctx (w64 (src + (4096 * piece - lo))) 4096
        let cause := match failed, bs with
          | some f, _ => some f
          | none, .error e => some e.1
          | none, .ok _ => none
        match cause, bs with
        | none, .ok bs =>
          (match xlate s ctx .exec (w64 (4096 * piece)) with
          | .ok pa _ => putCtx (unitWrite s pa bs) ctx { c with cold := piece :: c.cold }
          | _ => s)
        | some 0x30, _ => agWait s ctx (src / 65536) (dispRecord ctx)
        | some f, _ =>
          let who := (coldWaiters s ctx piece).headD (0, { pc := 0#64, mask := 0#64 })
          let w := warpAt s who.1
          let tm := teamAt s w.team
          faultCtxWith s ctx { cause := 0x0F, flags := 3, engine := coreEngine 0 tm.core, warp := w.wid, lane := lowBit who.2.mask
                               grid := tm.grid, team := tm.index, pc := who.2.pc.toNat, addr := 4096 * piece, syn := w64 f }
        | none, .error _ => s)

/-! ### Soft errors -/

/-- Severity, action and engine kind of the causes that only report (Tables 20-4 to 20-14): a corrected error, a degraded part or a
warning, in which no value changes. -/
def reportOnly (cause : Nat) : Option (Nat × Nat × Nat) :=
  match cause with
  | 0x39 => some (3, 5, 7)
  | 0x7F => some (4, 7, 5)
  | 0x49 => some (0, 0, 4)
  | 0x4C => some (0, 0, 4)
  | 0x6D => some (0, 0, 2)
  | 0x7A => some (0, 0, 4)
  | 0x80 => some (0, 0, 8)
  | 0x8E => some (0, 0, 8)
  | 0x92 => some (0, 0, 9)
  | 0x93 => some (0, 0, 9)
  | 0x9A => some (4, 8, 9)
  | 0x9D => some (1, 0, 9)
  | 0x9E => some (1, 0, 9)
  | 0x9F => some (0, 0, 9)
  | 0xAC => some (1, 0, 11)
  | _ => none

/-- A cause that loses a lane's value strikes the lane where it stands (R345, R390, log 15). -/
def softLane (s : State) (k lane cause kind : Nat) (addr : Option Nat) (syn : Word) : State :=
  let w := warpAt s k
  let m := if lane < 64 then laneBit lane else liveLanes w.pcs
  if w.exited || m &&& liveLanes w.pcs = 0#64 then s
  else
    detect s k
      { pc := (w.pcs.find? fun e => e.mask &&& m ≠ 0#64).map (·.pc) |>.getD 0#64, deferred := true
        engine := coreEngine kind (teamAt s w.team).core
        lanes := (lanesOf (m &&& liveLanes w.pcs)).map fun l => { lane := l, cause := cause, addr := addr, syn := syn } }

/-- A cause of kind X that names a warp faults its context (R361). -/
def softCtx (s : State) (k cause : Nat) (syn : Word) : State :=
  let w := warpAt s k
  let tm := teamAt s w.team
  faultCtxWith s tm.ctx { cause := cause, engine := coreEngine 0 tm.core, warp := w.wid, lane := lowBit w.lanes, grid := tm.grid
                          team := tm.index, syn := syn }

/-- A line poisoned with its report (R373). -/
def poisonLine (s : State) (l cause engine : Nat) (syn : Word) : State :=
  report { s with poison := if s.poison.contains l then s.poison else l :: s.poison }
    { cause := cause, sev := 1, flags := 1, engine := engine, addr := domainAddr s.devnum (128 * l), syn := syn }

/-- Engine of a slice, with a kind (Table 19-5). -/
def sliceEngine (kind slice : Nat) : Nat := engineOf kind (reticleOfSlice slice) (slice % Config.slicesPerReticle)

/-- The rows of a 32-row group of an accumulator become canonical NaN (R367). -/
def spoilAcc (s : State) (core acc row : Nat) : State :=
  let c := coreAt s core
  let g := row / 32
  let a := (List.range 4096).foldl (fun a j => aput a (4096 * g + j) 0x7FC00000#32) (accOf c acc)
  putCore s core { c with accs := aput c.accs acc a }

/-- A replica dropped from a line, which is HOME when it was the last (R127, R129). -/
def dropReplica (x : Line) (ret : Nat) : Line :=
  let x := { x with replicas := aerase x.replicas ret }
  if x.state = .shared && x.replicas = [] then { x with state := .home } else x

/-- A soft error in a TLB or a walker: a bad entry is dropped, to be walked again; SYNDROME tells the level (R390, TLB_CORRECTED). `index`
names an entry, and a walker's state where there is none, of the reticle `unit` at level `level`. -/
def tlbError (s : State) (unit index level : Nat) : State :=
  match s.tlb[index]? with
  | some e =>
    let first := decide (e.unit < 2 ^ 20)
    report { s with tlb := s.tlb.eraseIdx index }
      { cause := 0x38, engine := walkEngine (if first then reticleOf e.unit else e.unit - 2 ^ 20), syn := w64 (if first then 1 else 2) }
  | none => report s { cause := 0x38, engine := walkEngine unit, syn := w64 level }

/-- An uncorrectable error by its structure: the rows of Table 22-1, then accumulators, barrier state, the matrix datapath, a
team image at restore, a write-back and a replica (log 15). -/
def spoil (s : State) (structure_ warp unit index lane : Nat) : State :=
  match structure_ with
  | 0 => softLane s warp lane 0x1A 0 none (w64 (index % 128 + 256 * (lane % 128)))
  | 1 => softCtx s warp 0x1B 0#64
  | 2 => softLane s warp lane 0x1D 0 (some index) 0#64
  | 3 => softLane s warp lane 0x47 0 none (w64 index)
  | 4 => poisonLine s index 0x72 (sliceEngine 4 unit) 0#64
  | 5 => report s { cause := 0x76, flags := 1, engine := sliceEngine 5 unit, addr := domainAddr s.devnum (128 * index) }
  | 6 => tlbError s unit index lane
  | 7 =>
    if lane = 1 then faultCtxWith s unit { cause := 0x8B, flags := 1, engine := engineOf 8 0 0, addr := domainAddr s.devnum index }
    else if lane = 2 then faultCtxWith s unit { cause := 0x2F, flags := 1, engine := engineOf 8 0 0, addr := domainAddr s.devnum index }
    else report s { cause := 0x8A, engine := engineOf 8 (unit / 120) (4 * (unit % 120)) }
  | 8 =>
    match afind s.seqs index with
    | none => s
    | some q =>
      if q.clen = q.rlen then
        report { s with seqs := aput s.seqs index { q with filled := [] } } { cause := 0x59, engine := squEngine s index }
      else faultCtxWith s q.ctx { cause := 0x5A, flags := 1, engine := squEngine s index, addr := index }
  | 9 => poisonLine s index 0x91 (deviceEngine 9 (stackOf (128 * index))) (w64 unit)
  | 10 => softLane (spoilAcc s unit (index / 256) (index % 256)) warp 64 0x1E 1 none (w64 (index / 256 + 256 * (index % 256)))
  | 11 => softCtx s warp 0x4E (w64 index)
  | 12 => softLane (spoilAcc s unit (index / 8) (32 * (index % 8))) warp 64 0x6C 1 none (w64 (index % 8))
  | 13 => faultCtxWith s unit { cause := 0x1F, engine := deviceEngine 13 0, syn := w64 index }
  | 14 => poisonLine s index 0x79 (sliceEngine 4 unit) 0#64
  | 15 =>
    match lineAt s index with
    | some x =>
      report (putLine s index (dropReplica x lane))
        { cause := 0x7C, flags := 1, engine := sliceEngine 4 unit, addr := domainAddr s.devnum (128 * index) }
    | none => s
  | _ => s

/-- What a reporting cause takes out of service: a page walker, or an HBM stack that failed its training (Tables 20-6, 20-12). -/
def withdraw (s : State) (cause unit reticle : Nat) : State :=
  if cause = 0x39 then
    { s with walkersOut := aput s.walkersOut (2 * reticle + unit) (Nat.min 32 (aget 0 s.walkersOut (2 * reticle + unit) + 1)), treeDirty := true }
  else if cause = 0x9A then
    setPart { s with hbmOut := if s.hbmOut.contains unit then s.hbmOut else unit :: s.hbmOut } 10 unit 3
  else s

/-- A corrected error by its structure (Table 22-1): only its record is seen. -/
def corrected_ (s : State) (structure_ warp unit index lane : Nat) : State :=
  let core := (teamAt s (warpAt s warp).team).core
  match structure_ with
  | 0 | 1 => report s { cause := 0x19, engine := coreEngine 0 core, syn := w64 (index % 128 + 256 * (lane % 128)) }
  | 2 | 3 => report s { cause := 0x1C, engine := coreEngine 0 unit }
  | 4 => report s { cause := 0x70, flags := 1, engine := sliceEngine 4 unit, addr := domainAddr s.devnum (128 * index), syn := w64 lane }
  | 5 => report s { cause := 0x71, flags := 1, engine := sliceEngine 5 unit, addr := domainAddr s.devnum (128 * index) }
  | 6 => tlbError s unit index lane
  | 7 => report s { cause := 0x83, engine := engineOf 8 (unit / 120) (4 * (unit % 120)) }
  | 8 => report s { cause := 0x59, engine := squEngine s index }
  | 9 => report s { cause := 0x90, flags := 1, engine := deviceEngine 9 (stackOf (128 * index)), addr := domainAddr s.devnum (128 * index)
                    syn := w64 unit }
  | 10 => report s { cause := 0x1C, engine := coreEngine 1 unit }
  | n =>
    match reportOnly (n - 256) with
    | some (sev, act, kind) =>
      if n < 256 then s
      else report (withdraw s (n - 256) unit lane)
        { cause := n - 256, sev := sev, action := act, engine := engineOf kind (if 9 ≤ kind then 63 else lane) unit, syn := w64 index }
    | none => s

/-- SOFT_ERROR_DETECT: a storage error is corrected, or reported under its structure's cause (R390). -/
def execSoftErrorDetect (structure_ : Nat) (corrected : Bool) (warp unit index lane : Nat) (s : State) :
    Host.Outcome State Fault Refusal :=
  .next (if corrected then corrected_ s structure_ warp unit index lane else spoil s structure_ warp unit index lane)

end Sys2Proof.Machine
end

