-- ==== Sys2Proof/Machine/Tree.lean ====
section
/-!
DEFINITION. The defect tree: the nodes of every part with their status (R22 to R24), the image and its replacement (R25), and
the host copy (R22, R438).
-/
namespace Sys2Proof.Machine
open Sys2Proof

/-! ### Parts -/

/-- The far end of a stitched link of a reticle: 0 east, 1 west, 2 north, 3 south (R11, log 21). -/
def farReticle (r link : Nat) : Option Nat :=
  match link with
  | 0 => if r % 8 < 7 then some (r + 1) else none
  | 1 => if 0 < r % 8 then some (r - 1) else none
  | 2 => if 8 ≤ r then some (r - 8) else none
  | 3 => if r < 40 then some (r + 8) else none
  | _ => none
/-- The stitched links of a reticle. -/
def linksOf (r : Nat) : List Nat := (List.range 4).filter fun k => (farReticle r k).isSome
/-- A reticle on the edge of the grid (R13). -/
def onEdge (r : Nat) : Bool := r % 8 = 0 || r % 8 = 7 || r / 8 = 0 || r / 8 = 5
/-- The HBM stacks of a reticle: two on each edge reticle (R13, log 21). -/
def stacksOf (r : Nat) : List Nat :=
  if onEdge r then
    let k := ((List.range r).filter onEdge).length
    [2 * k, 2 * k + 1]
  else []

/-! ### Nodes -/

/-- What a node record holds beside its place in the tree (Table 1-4). -/
structure Node where
  kind   : Nat
  status : Nat
  index  : Nat
  cap    : Nat := 0
  a      : Nat := 0
  b      : Nat := 0
  deriving DecidableEq, Repr

/-- The absent node number. -/
def noNode : Nat := 0xFFFFFFFF

/-- A part of the tree: from its parent's number and status and its own number, the records of its subtree in depth-first order. -/
abbrev Build := Nat → Nat → Nat → List (List Byte)

/-- The 32 bytes of a node record (Table 1-4). -/
def nodeBytes (x : Node) (parent first count : Nat) : List Byte :=
  bytesOf 1 x.kind ++ bytesOf 1 x.status ++ bytesOf 2 x.index ++ bytesOf 4 parent ++ bytesOf 4 first ++ bytesOf 2 count ++ bytesOf 2 0
    ++ bytesOf 4 x.cap ++ bytesOf 4 x.a ++ bytesOf 4 x.b ++ bytesOf 4 0

/-- A node with its children: below a failed or evacuated parent every node reads the parent's status (R24). -/
def branch (x : Node) (kids : List Build) : Build := fun parent up num =>
  let st := if up = 3 || up = 4 then up else x.status
  let x := { x with status := st, cap := if outOfUse st then x.cap / 2 * 2 else x.cap }
  let sub := kids.foldl (fun (acc : Nat × List (List Byte)) k =>
    let r := k num st acc.1
    (acc.1 + r.length, r.reverse ++ acc.2)) (num + 1, [])
  nodeBytes x parent (if kids.isEmpty then noNode else num + 1) kids.length :: sub.2.reverse

/-- A node without children. -/
def leafNode (x : Node) : Build := branch x []

/-- The logical position that a core holds, before bring-up step 2 and once it is out of use none (R16, R24). -/
def heldPos (s : State) (c : Nat) : Option Nat := if s.placed && !outOfUse (partStatus s 4 c) then logOfCore s c else none

/-- A healthy part in service with less than its full capability is degraded (Table 1-6). -/
def degraded (st : Nat) (less : Bool) : Nat := if st = 0 && less then 5 else st

/-- A core's node: a healthy one outside the embedding is a spare (R16). -/
def coreNode (s : State) (c : Nat) : Build :=
  let p := heldPos s c
  let st := partStatus s 4 c
  leafNode { kind := 4, status := if st = 0 && p.isNone then 1 else st, index := c % 12, cap := b2n p.isSome
             a := coreX c * 256 + coreY c
             b := match p with | some n => n % 96 * 256 + n / 96 | none => noNode }

/-- A cluster's node with its cores. -/
def clusterNode (s : State) (cl : Nat) : Build :=
  branch { kind := 3, status := partStatus s 3 cl, index := cl % 10, a := (clusterAt s cl).permit }
    ((List.range 12).map fun k => coreNode s (12 * cl + k))

/-- A slice's node (R394). -/
def sliceNode (s : State) (h slice : Nat) : Build :=
  leafNode { kind := 6, status := degraded (partStatus s 6 slice) (decide (waysOf h < 16)), index := slice % 16, cap := b2n (!s.slicesOut.contains slice)
             a := waysOf h * 672 * 128, b := waysOf h }

/-- A slice group's node with its slices. -/
def groupNode (s : State) (g : Nat) : Build :=
  let h := groupHealthy s g
  branch { kind := 5, status := degraded (partStatus s 5 g) (decide (h < 16)), index := g % 12, a := h } ((List.range 16).map fun k => sliceNode s h (16 * g + k))

/-- The reticles in the order of the tree: by region, then by number (log 21). -/
def treeOrder : List Nat :=
  (List.range 12).flatMap fun q => (List.range Config.reticles).filter fun r => regionOf r = q

/-- Nodes of a reticle's subtree. -/
def reticleSize (r : Nat) : Nat := 1 + 10 * 13 + 12 * 17 + 2 + 1 + (linksOf r).length + (stacksOf r).length

/-- The node number of a reticle. -/
def reticleNum (r : Nat) : Nat :=
  2 + regionOf r + ((treeOrder.takeWhile fun x => x ≠ r).foldl (fun n x => n + reticleSize x) 0)

/-- A stitched link's node, at the reticle of its near end. -/
def linkNode (s : State) (r i link : Nat) : Build :=
  leafNode { kind := 9, status := partStatus s 9 (4 * r + link), index := i, cap := b2n (!outOfUse (partStatus s 9 (4 * r + link)))
             a := ((farReticle r link).map reticleNum).getD noNode, b := (afind s.linkLanes (4 * r + link)).getD (Config.linkMask link) }

/-- An HBM stack's node. -/
def stackNode (s : State) (i k : Nat) : Build :=
  leafNode { kind := 10, status := partStatus s 10 k, index := i, cap := b2n (!s.hbmOut.contains k), a := 64, b := k }

/-- A reticle's node with everything in it (R23, Table 1-1). -/
def reticleNode (s : State) (i r : Nat) : Build :=
  let used := ((List.range Config.coresPerReticle).filter fun k => (heldPos s (120 * r + k)).isSome).length
  branch { kind := 2, status := partStatus s 2 r, index := i, cap := b2n (onEdge r), a := r % 8 * 256 + r / 8, b := used }
    ((List.range 10).map (fun k => clusterNode s (10 * r + k)) ++ (List.range 12).map (fun g => groupNode s (12 * r + g))
      ++ (List.range 2).map (fun u =>
        let out := aget 0 s.walkersOut (2 * r + u)
        leafNode { kind := 7, status := degraded (partStatus s 7 (2 * r + u)) (decide (0 < out)), index := u, a := 32 - out })
      ++ [leafNode { kind := 8, status := partStatus s 8 r, index := 0 }]
      ++ (List.range (linksOf r).length).map (fun i => linkNode s r i ((linksOf r).getD i 0))
      ++ (List.range (stacksOf r).length).map (fun i => stackNode s i ((stacksOf r).getD i 0)))

/-- A region's node with its reticles. -/
def regionNode (s : State) (q : Nat) : Build :=
  let rs := treeOrder.filter fun r => regionOf r = q
  branch { kind := 1, status := partStatus s 1 q, index := q, a := q } ((List.range rs.length).map fun i => reticleNode s i (rs.getD i 0))

/-- The whole tree: the device with its regions, Yilesh ports and host ports (Table 1-5). -/
def deviceNode (s : State) : Build :=
  branch { kind := 0, status := partStatus s 0 0, index := 0, a := 0x5A48, b := Config.stepping }
    ((List.range 12).map (fun q => regionNode s q)
      ++ (List.range 72).map (fun p =>
        let y := aget ({} : YlPort) s.ylPorts p
        leafNode { kind := 11, status := partStatus s 11 p, index := p, cap := b2n y.trained, a := p, b := y.lanes })
      ++ (List.range 2).map (fun p =>
        let h := aget ({} : HostPort) s.hostPorts p
        leafNode { kind := 12, status := partStatus s 12 p, index := p, cap := b2n (h.up && h.cxl), a := p, b := h.width }))

/-- The node records. -/
def treeNodes (s : State) : List (List Byte) := deviceNode s noNode 0 0

/-! ### The image -/

/-- The header of the image with a generation (Table 1-3). -/
def treeHeader (s : State) (gen nodes : Nat) : List Byte :=
  bytesOf 4 0x57544446 ++ bytesOf 2 1 ++ bytesOf 2 32 ++ bytesOf 4 nodes ++ bytesOf 4 gen ++ bytesOf 8 s.treeAt
    ++ bytesOf 4 96 ++ bytesOf 4 56 ++ bytesOf 4 (64 + 32 * nodes + 96) ++ bytesOf 28 0

/-- The image with a generation: the header, the records and the signature, whose 96 bytes come from a key that the device does not
show (log 20). -/
def treeImage (s : State) (gen : Nat) : List Byte × State :=
  let nodes := treeNodes s
  let sig := freeBytes 12 s
  (treeHeader s gen nodes.length ++ nodes.flatten ++ sig.1, sig.2)

/-- Cells of a byte string from an address: those that differ from empty memory. -/
def cellsFrom (a : Nat) : List Byte → Mem
  | [] => []
  | b :: bs => if b = emptyByte then cellsFrom (a + 1) bs else (a, b) :: cellsFrom (a + 1) bs

/-- Memory with a whole block replaced. -/
def memBlock (m : Mem) (a : Nat) (bs : List Byte) : Mem :=
  (m.filter fun c => c.1 < a) ++ cellsFrom a bs ++ m.filter fun c => a + bs.length ≤ c.1

/-- Firmware writes a block of memory: what it covers of placed lines collapses (R127), the poison of lines written whole ends (R373),
and waiters are evaluated (R239). -/
def writeBlock (s : State) (a : Nat) (bs : List Byte) : State :=
  let hit := s.lines.filter fun l => a < 128 * l.1 + 128 && 128 * l.1 < a + bs.length
  evalWatches { hit.foldl (fun s l => collapseLine s l.1) s with
    mem := memBlock s.mem a bs
    poison := s.poison.filter fun l => !(a ≤ 128 * l && 128 * l + 128 ≤ a + bs.length) }

/-- The bytes of the image as they stand at DTADDR. -/
def treeBytes (s : State) : List Byte := memBytes s.mem s.dtaddr (memVal s.mem (s.dtaddr + 0x20) 4)

/-- The bytes of an image with another generation. -/
def withGen (gen : Nat) (img : List Byte) : List Byte := img.take 12 ++ bytesOf 4 gen ++ img.drop 16

/-- The host copy can be written: DTHOST is set and a host port is up to carry it (R22, R438). -/
def hostReady (s : State) : Bool := s.dthost ≠ 0 && (outPort s).isSome

/-- The key of records that are published once the tree shows what they tell (R25, R359). -/
def treeKey : Nat := 2 ^ 22

/-- The replacement is over: records that waited for it are published, unless the tree has changed again meanwhile. -/
def treeDone (s : State) : State :=
  let s := { s with treePhase := 0 }
  if s.treeDirty then s else keepPromises s treeKey

/-- One part of the replacement of the image, in the order of R25 (log 21). Phase 0: the generation in HBM becomes odd. Phase 1: the
records and the signature are written there. Phase 2: the next even generation is written; phase 3 performs the release, and where
there is a host copy makes its generation odd. Phase 4: its records are written. Phase 5: its even generation, with the release. -/
def treeStep (s : State) : State :=
  match s.treePhase with
  | 0 => { writeBlock s (s.dtaddr + 0x0C) (bytesOf 4 (s.treeGen + 1)) with treePhase := 1 }
  | 1 =>
    let img := treeImage { s with treeDirty := false, treeAt := s.time } (s.treeGen + 1)
    { writeBlock img.2 s.dtaddr img.1 with treePhase := 2 }
  | 2 => { writeBlock s (s.dtaddr + 0x0C) (bytesOf 4 (s.treeGen + 2)) with treePhase := 3, treeGen := s.treeGen + 2 }
  | 3 =>
    if anyCollapsing s then s
    else if s.dthost = 0 then treeDone s
    else if hostReady s then
      { s with hostMem := memBlock s.hostMem (s.dthost + 0x0C) (bytesOf 4 (s.treeGen - 1)), treePhase := 4, dtDue := some s.time }
    else treeDone { s with dtDue := some s.time }
  | 4 => { s with hostMem := memBlock s.hostMem s.dthost (withGen (s.treeGen - 1) (treeBytes s)), treePhase := 5 }
  | _ => treeDone { s with hostMem := memBlock s.hostMem (s.dthost + 0x0C) (bytesOf 4 s.treeGen), dtDue := none }

/-- The tree has changed: firmware is to replace the image (R25). -/
def touchTree (s : State) : State := { s with treeDirty := true }

/-- The generation under which a change of the tree made now is published (R25). -/
def comingGen (s : State) : Nat := if s.treePhase = 2 then s.treeGen + 4 else s.treeGen + 2

/-- Records promised under a key wait for the tree to show the change, where an image stands (R349, R359). -/
def promiseTree (s : State) (key : Nat) : State :=
  if s.dtbytes = 0 then keepPromises s key
  else { s with promised := s.promised.map fun p => if p.1 = key then (treeKey, p.2) else p }

/-- DEFECT_TREE_UPDATE: firmware begins to replace the image when the tree has changed, and goes on (R25). -/
def execDefectTreeUpdate (s : State) : Host.Outcome State Fault Refusal :=
  .next (if s.dtbytes = 0 || (s.treePhase = 0 && !s.treeDirty) then s else treeStep s)

/-- DEFECT_TREE_HOST_COPY: the current image is written to the host copy within 1 ms of the write of DTHOST (R22), under the same
order of generations (R25). -/
def execDefectTreeHostCopy (s : State) : Host.Outcome State Fault Refusal :=
  .next (if s.dtDue.isNone || s.dtbytes = 0 || s.treePhase ≠ 0 || !hostReady s then s else treeStep { s with treePhase := 3 })

/-- A write of DTHOST: the bus address of the host copy, 4 KiB aligned (Table 23-4). -/
def writeDthost (s : State) (addr : Nat) : State :=
  if addr % 4096 ≠ 0 then s
  else { s with dthost := addr, dtDue := if addr = 0 then none else some (s.time + 1000000) }

/-- DTHOST_WRITE: the driver sets the host copy's address (R22). -/
def execDthostWrite (addr : Nat) (s : State) : Host.Outcome State Fault Refusal := .next (writeDthost s addr)

/-- The first image, at bring-up step 2: its place and room, with generation 2 (R22, R328, log 21). -/
def firstTree (s : State) : State :=
  let room := cdiv (64 + 32 * (treeNodes s).length + 96) 4096
  { s with dtbytes := 4096 * room, dtaddr := 4096 * (Config.treeBlock % (0x30000000 - room)), treeDirty := true }

end Sys2Proof.Machine
end

