-- ==== Sys2Proof/Machine/CacheEvents.lean ====
section
/-!
DEFINITION. What the slices and the memory behind them do by themselves: fills, moves and invalidations (R124 to R129), scrubbing
(R391), failing slices (R392 to R395), the directory (R396, R397), and HBM (R405).
-/
namespace Sys2Proof.Machine
open Sys2Proof

/-! ### Lines -/

/-- Accesses that a line held perform in arrival order (R126, R127). -/
def releaseHeld (s : State) (m : Nat) (ids : List Nat) : State :=
  ids.foldl (fun s id =>
    match accAt s id with
    | none => s
    | some a =>
      serveAcc s { a with lanes := a.lanes.map fun l =>
        if l.sent && l.dev = s.devnum && l.live && !l.done && l.pas.any (fun pa => lineOf pa = m) then { l with sent := false } else l }) s

/-- A line's entry ends, ABSENT; what it held goes on (R129). -/
def dropLine (s : State) (l : Nat) : State :=
  match lineAt s l with
  | none => s
  | some x => releaseHeld (evictLine s l) l x.held

/-- The state of a line at rest. -/
def restState (x : Line) : LineState := if x.replicas = [] then .home else .shared

/-- A replica is gone and its invalidation, if one was outstanding, acknowledged; with the last the collapse ends and the held
accesses perform (R127). -/
def ackReplica (s : State) (l ret : Nat) : State :=
  match lineAt s l with
  | none => s
  | some x =>
    let x := { x with replicas := aerase x.replicas ret, acks := x.acks.filter fun r => r ≠ ret }
    if x.state = .collapsing && x.acks = [] then
      serveHeld (putLine s l { x with state := restState x, own := [] }) l
    else putLine s l (if x.state = .shared then { x with state := restState x } else x)

/-- A move ends at a home; the held accesses perform there and the old home clears (R126). -/
def settleAt (s : State) (l home : Nat) : State :=
  match lineAt s l with
  | none => s
  | some x => serveHeld (putLine s l { x with state := .home, home := home, replicas := [], acks := [], uses := [], own := [] }) l

/-- LINE_FILL: an absent line of a cached tier is filled into its anchor slice, which becomes its home (R125). -/
def execLineFill (line : Nat) (s : State) : Host.Outcome State Fault Refusal :=
  .next (if tierOf (128 * line) = .reserved || uncached s false (128 * line) then s else placeLine s line)

/-- MIGRATION_ACK: the new home has the copy; the anchor sets it, with state HOME and counters at 0 (R126). -/
def execMigrationAck (line : Nat) (s : State) : Host.Outcome State Fault Refusal :=
  .next (match lineAt s line with
  | some x => if x.state = .moving then settleAt s line x.moveTo else s
  | none => s)

/-- REPLICA_PLACE: a deferred replica is placed once the line is at rest, after a dirty home is written back (R128). -/
def execReplicaPlace (line reticle : Nat) (s : State) : Host.Outcome State Fault Refusal :=
  .next (match lineAt s line with
  | some x =>
    if !x.defer.contains reticle || x.state = .moving || x.state = .collapsing then s
    else placeReplica (putLine s line { x with dirty := false, defer := x.defer.filter fun r => r ≠ reticle }) line reticle
  | none => s)

/-- INVALIDATION_ACK: a replica acknowledges its invalidation (R127). -/
def execInvalidationAck (line reticle : Nat) (s : State) : Host.Outcome State Fault Refusal :=
  .next (match lineAt s line with
  | some x => if x.acks.contains reticle then ackReplica s line reticle else s
  | none => s)

/-- LINE_EVICT: replacement evicts a line that is neither pinned nor moving nor collapsing; its replicas are invalidated first, and
it leaves once they are gone (R129). -/
def execLineEvict (line : Nat) (s : State) : Host.Outcome State Fault Refusal :=
  .next (match lineAt s line with
  | some x =>
    if x.pin || x.state = .moving || x.state = .collapsing then s
    else if x.replicas = [] then dropLine s line
    else collapseLine s line
  | none => s)

/-- A window in which a line was written or acted on, in windows of another length: the one that holds its last instant. -/
def sameWindow (old new : Nat) (w : Option Nat) : Option Nat := w.map fun n => ((n + 1) * old - 1) / new

/-- Firmware's threshold and window (R126): a threshold of 2 to 255, and a window of a power of two from 1,024 to 65,536. -/
def setYardmaster (s : State) (thr win : Nat) : State :=
  if 2 ≤ thr && thr ≤ 255 && ((List.range 7).any fun k => win = 1024 * 2 ^ k) then
    { s with yardThr := thr, yardWin := win, lines := s.lines.map fun x =>
        (x.1, { x.2 with wrote := sameWindow s.yardWin win x.2.wrote, acted := sameWindow s.yardWin win x.2.acted }) }
  else s

/-- YARDMASTER_WINDOW: at a window boundary every use counter clears (R126). -/
def execYardmasterWindow (s : State) : Host.Outcome State Fault Refusal :=
  .next (
    if s.time % s.yardWin = 0 then { s with lines := s.lines.map fun x => (x.1, { x.2 with uses := [] }) } else s)

/-! ### The placement map -/

/-- Slices of the map. -/
def slicesIn (s : State) : Nat := sliceCount - s.slicesOut.length
/-- Slices of the map in a reticle. -/
def slicesOfReticle (s : State) (r : Nat) : Nat :=
  Config.slicesPerReticle - (s.slicesOut.filter fun k => reticleOfSlice k = r).length

/-- Moves to a slice that has left the map end at the old home (R126, R397). -/
def abandonMoves (s : State) (slice : Nat) : State :=
  s.lines.foldl (fun s y =>
    match lineAt s y.1 with
    | some x =>
      if x.state = .moving && x.moveTo = slice then
        let s := serveHeld (putLine s y.1 { x with state := restState x }) y.1
        report s { cause := 0x77, flags := 1, engine := sliceEngine 5 (anchorOf s y.1), addr := domainAddr s.devnum (128 * y.1)
                   syn := w64 slice }
      else s
    | none => s) s

/-- A slice leaves the map: what was anchored there moves to new anchors (R124, R393 step 3, R394). -/
def leaveMap (s : State) (slice : Nat) : State :=
  if s.slicesOut.contains slice then s
  else
    let seqs := (s.seqs.filter fun q => anchorOf s (lineOf q.1) = slice).length
    let s := { s with slicesOut := slice :: s.slicesOut, closing := s.closing.filter fun c => c.1 ≠ slice, treeDirty := true }
    let s := abandonMoves s slice
    let s := report s { cause := 0x7B, engine := sliceEngine 5 slice, syn := w64 (slicesIn s) }
    let s := if seqs = 0 then s else report s { cause := 0x5B, engine := sliceEngine 6 slice, syn := w64 seqs }
    let n := slicesOfReticle s (reticleOfSlice slice)
    if n < 96 then report s { cause := 0x7E, sev := 4, action := 8, engine := sliceEngine 4 slice, syn := w64 n } else s

/-- A line has its home or a replica in a slice. -/
def heldIn (slice : Nat) (x : Line) : Bool := x.home = slice || x.replicas.any fun r => r.2.1 = slice

/-- PLACEMENT_MAP_CHANGE: an empty slice leaves the map, or a slice in service joins it (R124). -/
def execPlacementMapChange (slice : Nat) (leave : Bool) (s : State) : Host.Outcome State Fault Refusal :=
  .next (
    if sliceCount ≤ slice then s
    else if leave then (if s.lines.any fun y => heldIn slice y.2 then s else leaveMap s slice)
    else if !s.slicesOut.contains slice || outOfUse (partStatus s 6 slice) then s
    else
      let s := { s with slicesOut := s.slicesOut.filter fun k => k ≠ slice, treeDirty := true }
      report s { cause := 0x7B, engine := sliceEngine 5 slice, syn := w64 (slicesIn s) })

/-- Steps 3 and 4 of an evacuation: the slice leaves the map and its node is published as evacuated (R393). -/
def finishEvacuation (s : State) (slice : Nat) : State :=
  let s := promiseTree (setPart (leaveMap s slice) 6 slice 4) (sliceKey slice)
  promiseTree (promise s treeKey { cause := 0x74, sev := 3, action := 5, engine := sliceEngine 4 slice }) treeKey

/-- A closing slice empties: its replicas are dropped, and its lines at rest begin to move (R393 step 2). -/
def emptySlice (s : State) (slice : Nat) : State :=
  s.lines.foldl (fun s y =>
    let s := y.2.replicas.foldl (fun s r => if r.2.1 = slice then ackReplica s y.1 r.1 else s) s
    match lineAt s y.1 with
    | some x =>
      if x.home ≠ slice || x.state = .moving || x.state = .collapsing then s
      else
        match nearFree s (reticleOfSlice slice) y.1 with
        | some k => putLine s y.1 { x with state := .moving, moveTo := k, since := s.time }
        | none => s
    | none => s) s

/-- What stands for the cause of a slice that closes only for the reset of its reticle (R421, log 33). -/
def resetMark : Nat := 0x100

/-- Ways that the slices of a group keep once one of them has left (R394). -/
def waysLeft (s : State) (slice : Nat) : Nat := waysOf (groupHealthy s (groupOf slice) - 1)

/-- Lines in the set of a line that take a way of a slice; those that move away count only where `all`. -/
def waysTaken (s : State) (k l : Nat) (all : Bool) : Nat :=
  (s.lines.filter fun y =>
    takesWay k y.2 && (all || !(y.2.home = k && y.2.state = .moving)) && Config.setOf y.1 = Config.setOf l).length

/-- A line leaves a slice of whose set more ways are taken than are to stay: a replica is dropped, a home line is evicted or, pinned or
shared, moves (R394). -/
def retireWay (ways k : Nat) (s : State) (m : Nat) : State :=
  match lineAt s m with
  | none => s
  | some x =>
    if !takesWay k x || x.state = .moving || x.state = .collapsing || waysTaken s k m false ≤ ways then s
    else if x.home ≠ k then (x.replicas.filter fun r => r.2.1 = k).foldl (fun s r => ackReplica s m r.1) s
    else if !x.pin && x.replicas = [] && x.held = [] then evictLine s m
    else
      match nearFree s (reticleOfSlice k) m with
      | some j => putLine s m { x with state := .moving, moveTo := j, since := s.time }
      | none => s

/-- The other slices of a slice's group that are in the map. -/
def groupRest (s : State) (slice : Nat) : List Nat :=
  ((List.range 16).map fun j => 16 * groupOf slice + j).filter fun k => k ≠ slice && !s.slicesOut.contains k

/-- Each remaining slice of a group empties the ways that it retires (R394). -/
def trimGroup (s : State) (slice : Nat) : State :=
  (groupRest s slice).foldl (fun s k => s.lines.foldl (fun s y => retireWay (waysLeft s slice) k s y.1) s) s

/-- Some way that is to retire is still taken. -/
def groupFull (s : State) (slice : Nat) : Bool :=
  s.lines.any fun y => (groupRest s slice).any fun k => takesWay k y.2 && waysLeft s slice < waysTaken s k y.1 true

/-- The other slices of the group have emptied the ways that they retire, or begin to; then steps 3 and 4 follow (R393, R394). -/
def endEvacuation (s : State) (slice : Nat) : State :=
  let s := trimGroup s slice
  if groupFull s slice then s else finishEvacuation s slice

/-- SLICE_EVACUATION: a slice closes, empties, leaves the map and is published as evacuated; each step follows the one before
(R393). -/
def execSliceEvacuation (slice : Nat) (s : State) : Host.Outcome State Fault Refusal :=
  .next (
    if sliceCount ≤ slice || s.slicesOut.contains slice || s.closing.any (fun c => c.1 = slice && c.2.2 = resetMark) then s
    else
      let s := emptySlice (closeSlice s slice 0x74) slice
      if s.lines.any fun y => heldIn slice y.2 then s else endEvacuation s slice)

/-- EVACUATION_TIMEOUT: an evacuation not complete within 50 ms resets the reticle, under the cause that started it (R393). -/
def execEvacuationTimeout (slice : Nat) (s : State) : Host.Outcome State Fault Refusal :=
  .next (match s.closing.find? fun c => c.1 = slice with
  | some (_, t, cause) =>
    if s.time < t + 50000000 || cause = resetMark then s
    else
      let r := reticleOfSlice slice
      let s := promise s (reticleKey r)
        { cause := cause, sev := 3, action := 6, engine := sliceEngine (if cause = 0x5E then 6 else 4) slice }
      { s with closing := s.closing.map (fun c => if c.1 = slice then (slice, s.time, cause) else c)
               agenda := .event (.reticleReset r cause) :: s.agenda }
  | none => s)

/-- Every line of a slice group is poisoned (R394). -/
def poisonGroup (s : State) (g : Nat) : State :=
  s.lines.foldl (fun s y => if groupOf y.2.home = g then poisonLine s y.1 0x72 (sliceEngine 4 y.2.home) 0#64 else s) s

/-- SLICE_FAILURE: a bank is erased and reconstructed, and its slice evacuated; a second one before the first has left the map loses
the group (R392, R394). -/
def execSliceFailure (slice : Nat) (s : State) : Host.Outcome State Fault Refusal :=
  .next (
    if sliceCount ≤ slice || s.slicesOut.contains slice then s
    else
      let g := groupOf slice
      let r := reticleOfSlice slice
      let s := report s { cause := 0x73, engine := sliceEngine 4 slice, syn := w64 (slice % 16) }
      if s.closing.any fun c => c.1 ≠ slice && groupOf c.1 = g && (c.2.2 = 0x73 || c.2.2 = 0x7D) then
        let f := freeValue (poisonGroup (closeSlice s slice 0x73) g)
        let s := promise f.2 (reticleKey r) { cause := 0x75, sev := 3, action := 6, engine := sliceEngine 4 slice, syn := fld f.1 0 48 |>.setWidth 64 }
        { s with agenda := .event (.reticleReset r 0x75) :: s.agenda }
      else { closeSlice s slice 0x73 with agenda := .event (.sliceEvacuation slice) :: s.agenda })

/-- A line whose home slice is silent: an immutable one is restored from a replica in another reticle, a dirty one is poisoned,
any other is filled again from its tier (R395). -/
def silentLine (s : State) (slice l : Nat) : State :=
  let s := match lineAt s l with
    | some x => x.replicas.foldl (fun s r => if r.2.1 = slice then ackReplica s l r.1 else s) s
    | none => s
  match lineAt s l with
  | none => s
  | some x =>
    if x.home ≠ slice then s
    else if immutable s (128 * l) then
      match x.replicas.find? fun r => r.1 ≠ reticleOfSlice slice with
      | some r =>
        let home := (nearFree s (reticleOfSlice slice) l).getD ((nearSlice s (reticleOfSlice slice) l).getD 0)
        let s := { s with mem := memWrite s.mem (128 * l) r.2.2, poison := s.poison.filter fun p => p ≠ l }
        let s := putLine s l { x with home := home, state := restState x, acks := [] }
        report s { cause := 0x5F, flags := 1, engine := sliceEngine 5 (anchorOf s l), addr := domainAddr s.devnum (128 * l), syn := w64 r.1 }
      | none => dropLine s l
    else if x.dirty then dropLine (poisonLine s l 0x72 (sliceEngine 4 slice) 0#64) l
    else dropLine s l

/-- SLICE_SILENT: a slice that stops answering is evacuated without its data (R395). -/
def execSliceSilent (slice : Nat) (s : State) : Host.Outcome State Fault Refusal :=
  .next (
    if sliceCount ≤ slice || s.slicesOut.contains slice then s
    else
      let s := promise s (sliceKey slice) { cause := 0x7D, sev := 3, action := 5, engine := sliceEngine 4 slice }
      let s := closeSlice s slice 0x7D
      let lines := s.lines.map (·.1)
      let s := lines.foldl (fun s l => silentLine s slice l) s
      let s := (lines.filter fun l => anchorOf s l = slice && (lineAt s l).isSome).foldl (fun s l =>
        report s { cause := 0x76, flags := 1, engine := sliceEngine 5 slice, addr := domainAddr s.devnum (128 * l) }) s
      endEvacuation s slice)

/-! ### The directory -/

/-- DIR_REBUILD: a lost entry is rebuilt from the slices that answer for the line; two homes are an impossible state (R396). -/
def execDirRebuild (line : Nat) (homes : List Nat) (s : State) : Host.Outcome State Fault Refusal :=
  .next (
    let r : Record := { flags := 1, engine := sliceEngine 5 (anchorOf s line), addr := domainAddr s.devnum (128 * line) }
    if 2 ≤ homes.length then
      let f := freeValue s
      report f.2 { r with cause := 0x7F, sev := 4, action := 7, syn := fld f.1 0 48 |>.setWidth 64 }
    else
      let s := report s { r with cause := 0x76 }
      match lineAt s line, homes with
      | some x, [h] => if s.slicesOut.contains h then s else serveHeld (putLine s line { x with home := h }) line
      | none, [h] => if s.slicesOut.contains h then s else putLine s line { home := h, since := s.time }
      | some x, _ => if x.replicas = [] then dropLine s line else s
      | none, _ => s)

/-- COLLAPSE_TIMEOUT: an invalidation unacknowledged for 100 µs resets the replica's reticle, which drops the replica (R397). -/
def execCollapseTimeout (line reticle : Nat) (s : State) : Host.Outcome State Fault Refusal :=
  .next (match lineAt s line with
  | some x =>
    if !x.acks.contains reticle || s.time < x.since + 100000 then s
    else
      let s := promise (putLine s line { x with since := s.time }) (reticleKey reticle)
        { cause := 0x78, sev := 3, action := 6, flags := 1, engine := sliceEngine 5 (anchorOf s line)
          addr := domainAddr s.devnum (128 * line), syn := w64 reticle }
      { s with agenda := .event (.reticleReset reticle 0x78) :: s.agenda }
  | none => s)

/-! ### Scrubbing and HBM -/

/-- L2_SCRUB: a slice scrubs one line; one that cannot be corrected is poisoned at its home, or dropped as a replica (R390, R391). -/
def execL2Scrub (slice line : Nat) (uncorrectable : Bool) (s : State) : Host.Outcome State Fault Refusal :=
  .next (match lineAt s line with
  | some x =>
    if !uncorrectable then s
    else if x.home = slice then poisonLine s line 0x72 (sliceEngine 4 slice) 0#64
    else
      match x.replicas.find? fun r => r.2.1 = slice with
      | some r => report (ackReplica s line r.1)
          { cause := 0x7C, flags := 1, engine := sliceEngine 4 slice, addr := domainAddr s.devnum (128 * line) }
      | none => s
  | none => s)

/-- HBM_PATROL_SCRUB: the patrol scrub poisons an uncorrectable line (R405). -/
def execHbmPatrolScrub (line : Nat) (s : State) : Host.Outcome State Fault Refusal :=
  .next (if tierOf (128 * line) = .hbm then poisonLine s line 0x97 (deviceEngine 9 (stackOf (128 * line))) 0#64 else s)

/-- HBM_ROW_REMAP: a failing row moves to a spare with its contents; the spares of its bank count down (R405). -/
def execHbmRowRemap (stack bank line : Nat) (s : State) : Host.Outcome State Fault Refusal :=
  .next (
    let key := stack * 2 ^ 20 + bank
    let total := Config.spareRows stack bank
    let left := (afind s.spares key).getD total
    let r : Record := { engine := deviceEngine 9 stack, syn := w64 bank }
    if left = 0 then s
    else
      let s := { s with spares := aput s.spares key (left - 1) }
      let s := report s { r with cause := 0x94, flags := 1, addr := domainAddr s.devnum (128 * line) }
      let s := if total ≤ 10 * left && 10 * (left - 1) < total then report s { r with cause := 0x95, sev := 1 } else s
      if left = 1 then report s { r with cause := 0x96, sev := 4, action := 8 } else s)

/-- HBM_THERMAL: past its warning temperature a stack refreshes twice as often; past its limit its traffic stops (R405). -/
def execHbmThermal (stack degC : Nat) (trip : Bool) (s : State) : Host.Outcome State Fault Refusal :=
  .next (
    let r : Record := { engine := deviceEngine 9 stack, syn := w64 degC }
    if trip then
      report { s with hbmHot := if s.hbmHot.contains stack then s.hbmHot else stack :: s.hbmHot } { r with cause := 0x99, sev := 4, action := 7 }
    else report s { r with cause := 0x98, sev := 1 })

/-- HBM_STACK_FAILURE: a stack, or a channel of one, fails in service: its addresses return poison (R405). -/
def execHbmStackFailure (stack : Nat) (channel : Option Nat) (s : State) : Host.Outcome State Fault Refusal :=
  .next (
    let key := match channel with | none => stack | some c => stack + 64 * (c + 1)
    if 48 ≤ stack || s.hbmOut.contains key then s
    else
      let s := { s with hbmOut := key :: s.hbmOut }
      match channel with
      | none => report (setPart s 10 stack 3) { cause := 0x9B, sev := 4, action := 8, engine := deviceEngine 9 stack }
      | some c => report (setPart s 10 stack (if partStatus s 10 stack = 3 then 3 else 5))
          { cause := 0x9C, sev := 4, action := 8, engine := deviceEngine 9 stack, syn := w64 c })

end Sys2Proof.Machine
end

