-- ==== Sys2Proof/Machine/Fabric.lean ====
section
/-!
DEFINITION. Cores, routers and stitched links that fail (R406), re-embedding (R15, R21), core and reticle resets (R421), and
routing tables (R410, R411).
-/
namespace Sys2Proof.Machine
open Sys2Proof

/-! ### Re-embedding -/

/-- A core that can hold a position. -/
def coreGood (s : State) (c : Nat) : Bool := !outOfUse (partStatus s 4 c) && !(coreAt s c).failed

/-- The position of a core in the base layout (R16). -/
def basePos (c : Nat) : Option Nat :=
  if 56 ≤ coreY c then none else some (logNum (unfoldSlot 96 (coreX c)) (unfoldSlot 56 (coreY c)))

/-- The cores that can hold no position (R24). -/
def badCores (s : State) : List Nat :=
  (s.tree.filter fun p => p.1 / 2 ^ 20 = 4 && outOfUse p.2).map (fun p => p.1 % 2 ^ 20)
    ++ (s.cores.filter fun c => c.2.failed).map (·.1)

/-- A route of a position to a neighbour is as long as the distance or detours, and has 1 to 3 hops (R15, R18). -/
def routeOk (s : State) (n dir : Nat) : Bool :=
  let d := hops (coreOfLog s n) (coreOfLog s (nbrPos n dir))
  let h := routedHops s n dir
  decide (1 ≤ h) && decide (d ≤ h) && decide (h ≤ 3)

/-- The embedding is one that R15 and R24 allow: every position that has left the base layout is on a good core of its own, no core out
of use holds one, and every route of a moved position, and of a neighbour to it, has at most 3 hops. -/
def embedOk (s : State) : Bool :=
  let e := s.embed
  e.all (fun m => m.1 < 5376 && m.2 < 5760 && coreGood s m.2 && (match basePos m.2 with
    | some b => (afind e b).isSome
    | none => true))
  && decide ((e.map (·.2)).eraseDups.length = e.length)
  && (badCores s).all (fun c => (logOfCore s c).isNone)
  && e.all (fun m => (List.range 4).all fun d => routeOk s m.1 d && routeOk s (nbrPos m.1 d) (d ^^^ 1))
  && s.detours.all (fun d => routeOk s (d.1 / 4) (d.1 % 4))

/-- The state with positions moved to other cores; the routes that detour are those that firmware now names. -/
def moved (s : State) (moves detours : List (Nat × Nat)) : State :=
  { s with embed := moves.foldl (fun e m => aput e m.1 m.2) s.embed, detours := detours.foldl (fun e d => aput e d.1 d.2) [] }

/-- The records of a re-embedding that has ended, and of the cores it withdrew (R359, R406), once the tree shows it. -/
def reembedded (s : State) (old : List Nat) : State :=
  let s := promise (touchTree s) treeKey { cause := 0x85, sev := 3, action := 5, engine := deviceEngine 14 0, syn := w64 (comingGen s) }
  promiseTree (old.foldl (fun s c => promiseTree s (coreKey c)) s) treeKey

/-- A multicast that is resolved to one of some cores and not yet sent (R20, R21). -/
def resolvedTo (old : List Nat) (r : Req) : Bool := reqKind r = 6 && r.state < 3 && r.cores.any fun c => old.contains c

/-- Something resolved to one of some cores is still to be delivered (R21 step 2). -/
def towards (s : State) (old : List Nat) : Bool :=
  old.any (fun c => (coreAt s c).delivs ≠ []) || s.cores.any fun c => c.2.reqs.any (resolvedTo old)

/-- Requests of saved teams that are resolved to one of some cores return to their requesters (RETURNED, R21, R374). -/
def returnSaved (s : State) (old : List Nat) : State :=
  s.teams.foldl (fun s t =>
    let back := t.2.rqImage.filter (resolvedTo old)
    let s := if back = [] then s else putTeam s t.1 { teamAt s t.1 with rqImage := t.2.rqImage.filter fun r => !resolvedTo old r }
    back.foldl (fun s r =>
      detect s r.warp
        { pc := r.pc, deferred := true, engine := routerEngine (old.headD 0) 0
          lanes := (lanesOf r.run).map fun l => { lane := l, cause := 0x8F, syn := w64 r.kicked } }) s) s

/-- REEMBED: contexts with teams on the affected reticles are pre-empted; once they are off their cores and everything resolved to
an affected core has completed or returned, logical positions move to other cores, the neighbour pointers are rewritten and the
contexts return (R21). Moves that R15 does not allow are none that firmware makes. -/
def execReembed (e : Embedding) (s : State) : Host.Outcome State Fault Refusal :=
  .next (
    let old := e.moves.map fun m => coreOfLog s m.1
    let rs := ((old ++ e.moves.map (·.2)).map reticleOf).eraseDups
    if !embedOk (moved s e.moves e.detours) then s
    else
      let s := holdCtxs s (ctxsOn s rs)
      if ctxsOn s rs ≠ [] then { s with inbox := inboxPut (s.time + 1, .reembed e) s.inbox }
      else
        let s := returnSaved s old
        if towards s old then { s with inbox := inboxPut (s.time + 1, .reembed e) s.inbox }
        else reembedded (resumeCtxs (moved s e.moves e.detours)) old)

/-- A logical position moves down its column, each one that it meets moving on, to the first core that holds none (R16). -/
def shiftDown (s : State) (x : Nat) : List Nat → Nat → Option (List (Nat × Nat))
  | [], _ => none
  | y :: ys, n =>
    let c := coreAtXY x y
    if !coreGood s c then shiftDown s x ys n
    else
      match logOfCore s c with
      | none => some [(n, c)]
      | some m => (shiftDown s x ys m).map fun r => (n, c) :: r

/-- The moves by which firmware empties a failed core: down its column, toward the spare rows (R16, log 33). -/
def columnMoves (s : State) (core n : Nat) : Option (List (Nat × Nat)) :=
  match shiftDown s (coreX core) ((List.range 60).filter fun y => coreY core < y) n with
  | some ms => if embedOk (moved { s with cores := aput s.cores core { coreAt s core with failed := true } } ms []) then some ms else none
  | none => none

/-- No embedding remains: every resident context is saved and faulted, and nothing more is dispatched (R406). -/
def noEmbedding (s : State) : State :=
  let healthy := ((List.range (Config.reticles * Config.coresPerReticle)).filter fun c => coreGood s c).length
  let s := report { s with devstat := 4 } { cause := 0x86, sev := 4, action := 8, engine := deviceEngine 14 0, syn := w64 healthy }
  ((s.ctxs.filter fun c => c.2.enabled && c.2.resident && c.2.faulted.isNone).map (·.1)).foldl (fun s cn =>
    faultCtxWith s cn { cause := 0x86, engine := deviceEngine 14 0, syn := w64 healthy }) s

/-- Requests on their way to a withdrawn core return undelivered (RETURNED, R21, R374). -/
def returnDelivs (s : State) (core : Nat) : State :=
  (coreAt s core).delivs.foldl (fun s d =>
    let s := dropDeliv s core d.id
    match reqAt s d.home d.req with
    | none => s
    | some r =>
      detect (putReq s d.home { r with failed := true }) r.warp
        { pc := r.pc, deferred := true, engine := routerEngine core 0
          lanes := (lanesOf r.run).map fun l => { lane := l, cause := 0x8F, syn := w64 r.kicked } }) s

/-- Teams that cannot be saved: their contexts are faulted and the teams are lost (R406, R421). -/
def loseTeams (s : State) (core cause : Nat) : State :=
  let ts := s.teams.filter fun t => onCore t.2 core
  let cs := (ts.map fun t => t.2.ctx).eraseDups
  let s := cs.foldl (fun s cn => faultCtxWith s cn { cause := cause, engine := routerEngine core 0 }) s
  let s := ts.foldl (fun s t => discardTeam s t.1) s
  cs.foldl finishCtxFault s

/-- A core is withdrawn; its position moves as firmware chooses, or no embedding remains (R406). -/
def withdrawCore (s : State) (core : Nat) (moves : Option (List (Nat × Nat) × List (Nat × Nat))) : State :=
  let s := setPart (putCore s core { coreAt s core with failed := true }) 4 core 3
  let s := returnDelivs s core
  match logOfCore s core, moves with
  | none, _ => promiseTree s (coreKey core)
  | some _, some ms => { s with agenda := .event (.reembed ⟨ms.1, ms.2⟩) :: s.agenda }
  | some _, none => noEmbedding (promiseTree s (coreKey core))

/-- ROUTER_FAILURE: a router fails and its core is withdrawn; its position moves as firmware chooses, when the moves give an embedding
that R15 allows (R406). -/
def execRouterFailure (core : Nat) (moves detours : List (Nat × Nat)) (saveable : Bool) (s : State) : Host.Outcome State Fault Refusal :=
  .next (
    if (coreAt s core).failed then s
    else
      let s := promise s (coreKey core) { cause := 0x84, sev := 3, action := 5, engine := routerEngine core 0 }
      let s := if saveable then s else loseTeams s core 0x84
      let ok := embedOk (moved (putCore s core { coreAt s core with failed := true }) moves detours)
      withdrawCore s core (if ok then some (moves, detours) else none))

/-! ### Stitched links -/

/-- Both ends of a stitched link: each a reticle and a link number. -/
def linkEnds (reticle link : Nat) : List Nat :=
  (4 * reticle + link) :: (match farReticle reticle link with
    | some r => [4 * r + (if link % 2 = 0 then link + 1 else link - 1)]
    | none => [])

/-- ENGINE of a stitched link: the core at its end is not stated (log 5). -/
def linkEngine (s : State) (reticle link : Nat) : Nat × State :=
  let f := freeValue s
  (engineOf 8 reticle (4 * (f.1.toNat % 120) + link), f.2)

/-- STITCHED_LINK_FAILURE: a link is withdrawn; its nodes fail and routes avoid it (R406). -/
def execStitchedLinkFailure (reticle link : Nat) (s : State) : Host.Outcome State Fault Refusal :=
  .next (
    if (farReticle reticle link).isNone then s
    else
      let s := (linkEnds reticle link).foldl (fun s k => setPart s 9 k 3) s
      let e := linkEngine s reticle link
      promiseTree (promise e.2 treeKey { cause := 0x82, sev := 3, action := 5, engine := e.1 }) treeKey)

/-- LINK_DEGRADED: a lane of a link is withdrawn and its healthy-lanes mask changes (R374). -/
def execLinkDegraded (reticle link mask : Nat) (s : State) : Host.Outcome State Fault Refusal :=
  .next (
    if (farReticle reticle link).isNone then s
    else
      let s := (linkEnds reticle link).foldl (fun s k => setPart { s with linkLanes := aput s.linkLanes k mask } 9 k 5) s
      let e := linkEngine s reticle link
      report e.2 { cause := 0x81, sev := 1, engine := e.1, syn := w64 mask })

/-- FABRIC_STALL: a packet has not moved for 100 µs (R411, Table 20-11). -/
def execFabricStall (core link : Nat) (s : State) : Host.Outcome State Fault Refusal :=
  .next (report s { cause := 0x8C, sev := 4, action := 7, engine := routerEngine core link })

/-! ### Resets -/

/-- A unit's reset begins, or goes on (R421). -/
def beginReset (s : State) (key cause : Nat) : State :=
  if s.resetting.any fun x => x.1 = key then s else { s with resetting := s.resetting ++ [(key, cause)] }

/-- A unit's reset is over. -/
def endReset (s : State) (key : Nat) : State := keepPromises { s with resetting := s.resetting.filter fun x => x.1 ≠ key } key

/-- A count of 16 bits that saturates. -/
def satInc (n : Nat) : Nat := Nat.min 0xFFFF (n + 1)

/-- What outlasts the reset of a core: its failure and its resets, the deliveries that wait there, the requests of teams that have left
it, which are delivered all the same (R20), and its counters of grids whose teams stand in the shed (R62). -/
def keepCore (c : Core) : Core :=
  { failed := c.failed, resets := c.resets, delivs := c.delivs, reqs := c.reqs, counts := c.counts }

/-- CORE_RESET: firmware pre-empts a core's teams, which return elsewhere, and resets the core; the sixteenth time in 24 hours it
is marked failed (R360, R421). -/
def execCoreReset (core cause : Nat) (s : State) : Host.Outcome State Fault Refusal :=
  .next (
    let s := beginReset s (coreKey core) cause
    let ts := s.teams.filter fun t => onCore t.2 core
    if ts ≠ [] then
      { s with agenda := ((ts.filter fun t => t.2.status = .resident || t.2.status = .restoring).map fun t =>
          Todo.event (.preemptRequest t.1)) ++ s.agenda }
    else
      let c := coreAt s core
      let times := recentResets s core ++ [s.time]
      let s := putCore s core { keepCore c with resets := times }
      let s := { s with coreResets := satInc s.coreResets }
      if times.length = 16 && !c.failed then
        endReset (withdrawCore s core ((logOfCore s core).bind fun n => (columnMoves s core n).map fun ms => (ms, []))) (coreKey core)
      else endReset s (coreKey core))

/-- A line that no slice can take is poisoned when dirty, and leaves (R421). -/
def strandLine (s : State) (l : Nat) : State :=
  match lineAt s l with
  | none => s
  | some x =>
    if x.state = .moving || (nearFree s (reticleOfSlice x.home) l).isSome then s
    else dropLine (if x.dirty then poisonLine s l 0x72 (sliceEngine 4 x.home) 0#64 else s) l

/-- Slices of a reticle that are in the map. -/
def slicesAt (s : State) (r : Nat) : List Nat :=
  ((List.range Config.slicesPerReticle).map fun k => Config.slicesPerReticle * r + k).filter fun k => !s.slicesOut.contains k

/-- A reticle's slices empty: replicas go, lines move to other reticles, and dirty ones that cannot are poisoned (R393, R421). -/
def emptyReticle (s : State) (r : Nat) : State :=
  let s := (slicesAt s r).foldl (fun s k => closeSlice s k resetMark) s
  let held := fun x : Line => reticleOfSlice x.home = r || x.replicas.any fun y => reticleOfSlice y.2.1 = r
  let ls := (s.lines.filter fun y => held y.2)
  let s := (ls.map fun y => y.2.home).eraseDups.foldl emptySlice s
  ls.foldl (fun s y =>
    let s := y.2.replicas.foldl (fun s p => if reticleOfSlice p.2.1 = r then ackReplica s y.1 p.1 else s) s
    strandLine s y.1) s

/-- A cluster after the reset of its reticle: no tokens and no reservation (R419, Table 23-3). -/
def clearCluster (x : Cluster) : Cluster := { x with pocket := [], held := 0, want := 0, resv := [], prices := [], stretch := false }

/-- The slices of a reticle after its reset: those that were failing are withdrawn, the others serve again (R421, log 33). -/
def reopenSlices (s : State) (r : Nat) : State :=
  let mine := s.closing.filter fun c => reticleOfSlice c.1 = r
  let lost := mine.filter fun c => c.2.2 ≠ resetMark
  let s := { s with closing := s.closing.filter fun c => reticleOfSlice c.1 ≠ r || (lost.any fun x => x.1 = c.1) }
  lost.foldl (fun s c => finishEvacuation s c.1) s

/-- RETICLE_RESET: firmware pre-empts the reticle's contexts and empties its slices; then the reticle is reset, its pockets and
reservations are lost, and the contexts return, their teams with pass counts at 0 (R419, R421). -/
def execReticleReset (reticle cause : Nat) (s : State) : Host.Outcome State Fault Refusal :=
  .next (
    let r := reticle
    let s := beginReset s (reticleKey r) cause
    let on := fun t : Team => holdsCore t && reticleOf t.core = r
    let s := { s with warps := s.warps.map fun w => if on (teamAt s w.2.team) then (w.1, { w.2 with wpass := 0 }) else w }
    let s := holdCtxs s (ctxsOn s [r])
    let s := emptyReticle s r
    if (s.teams.any fun t => on t.2) || (s.lines.any fun y => reticleOfSlice y.2.home = r) then s
    else
      let s := (List.range 10).foldl (fun s k => putCluster s (10 * r + k) (clearCluster (clusterAt s (10 * r + k)))) s
      let s := putReticle s r { reticleAt s r with spares := [], lapInj := 0, tripAt := none, belowAt := none }
      let s := { s with
        cores := s.cores.map fun c =>
          if reticleOf c.1 = r then (c.1, keepCore c.2) else c
        retResets := satInc s.retResets }
      let s := reopenSlices s r
      let s := resumeCtxs { s with resetting := s.resetting.filter fun x => x.1 ≠ reticleKey r }
      let s := { s with resetting := s.resetting.filter fun x => x.1 ≠ reticleKey r }
      promiseTree (touchTree s) (reticleKey r))

/-! ### Routing tables -/

/-- A rejected update: nothing stays staged, and the outcome is reported (R411). -/
def dropUpdate (s : State) (gen cause engine : Nat) : State :=
  report { s with routing := { s.routing with staged := none, accepted := none } }
    { cause := cause, sev := 1, action := 1, engine := engine, syn := w64 gen }

/-- ROUTING_UPDATE_STAGE: an image of the next generation is checked and staged; a rejection aborts it everywhere. Whether every
unit reports in time is a free value (R410, R411, log 5). -/
def execRoutingUpdateStage (gen : Nat) (sigOk crcOk : Bool) (routes : List Nat) (s : State) : Host.Outcome State Fault Refusal :=
  .next (
    let t := s.routing
    if t.staged.isSome || t.oldGen.isSome || gen ≠ t.gen + 1 || s.stage < 4 then s
    else
      let f := freeValue s
      let unit := routerEngine (f.1.toNat / 4 % 5760) 0
      if !sigOk then dropUpdate f.2 gen 0x88 unit
      else if !crcOk then dropUpdate f.2 gen 0x87 unit
      else
        { f.2 with routing := { t with
            staged := some (gen, routes), accepted := if bit f.1 0 then some s.time else none, since := s.time } })

/-- ROUTING_VERDICT_TIMEOUT: a report missing after 1 ms aborts the update (R411). -/
def execRoutingVerdictTimeout (s : State) : Host.Outcome State Fault Refusal :=
  .next (match s.routing.staged, s.routing.accepted with
  | some (gen, _), none => if s.time < s.routing.since + 1000000 then s else dropUpdate s gen 0x89 (deviceEngine 14 0)
  | _, _ => s)

/-- The commit boundary: the first time-slot boundary at least two slots after the last acceptance (R411). -/
def commitAt (s : State) (accepted : Nat) : Nat := cdiv (accepted + 2 * s.tslot) s.tslot * s.tslot

/-- ROUTING_COMMIT: at the commit boundary every unit switches to the new tables (R411). -/
def execRoutingCommit (s : State) : Host.Outcome State Fault Refusal :=
  .next (match s.routing.staged, s.routing.accepted with
  | some (gen, routes), some t =>
    if s.time < commitAt s t then s
    else { s with routing := { gen := gen, routes := routes, oldGen := some s.routing.gen, since := s.time } }
  | _, _ => s)

/-- ROUTING_OLD_DRAIN: the old tables go once no packet of the old generation remains, at most 100 µs after the commit (R411). -/
def execRoutingOldDrain (s : State) : Host.Outcome State Fault Refusal :=
  .next (match s.routing.oldGen with
  | some _ =>
    if (s.remotes.all fun r => s.routing.since ≤ r.since) || s.routing.since + 100000 ≤ s.time then
      { s with routing := { s.routing with oldGen := none } }
    else s
  | none => s)

end Sys2Proof.Machine
end

