-- ==== Sys2Proof/Machine/Outside.lean ====
section
/-!
DEFINITION. Agents outside the device: host stores and AtomicOps (R154, R316), CXL coherence (R114), the host ports (R316, R317,
R376), and the Yilesh domain (R321 to R323, R407 to R409).
-/
namespace Sys2Proof.Machine
open Sys2Proof

/-! ### Stores of outside agents -/

/-- A line brought to rest before an outside store performs at its home: a move ends, and its replicas acknowledge their
invalidation (R126, R127, log 14). -/
def restLine (s : State) (l : Nat) : State :=
  match lineAt s l with
  | none => s
  | some x =>
    let s := if x.state = .moving then settleAt s l x.moveTo else s
    (((lineAt s l).map fun x => x.replicas.map (·.1)).getD []).foldl (fun s r => ackReplica s l r) (collapseLine s l)

/-- A store of an outside agent within one line: at its home, or nowhere when the home rejects it, the stack is dead or no part of
memory is there (R139, R154, R404, R405). -/
def outsideWrite (s : State) (pa : Nat) (bs : List Byte) : State :=
  if tierOf pa = .reserved || inTree s pa || stackDead s pa || (tierFails s pa).isSome then s
  else
    match storeRejected s pa with
    | some c => report s { cause := c, sev := 1, flags := 1, engine := if c = 0x51 then squEngine s (128 * lineOf pa) else tierEngine s pa
                           addr := domainAddr s.devnum pa }
    | none => homeWrite (restLine s (lineOf pa)) none false false false pa bs

/-- A byte string cut at the lines that it crosses. -/
def linePieces : Nat → Nat → List Byte → List (Nat × List Byte)
  | 0, _, _ => []
  | fuel + 1, a, bs =>
    let n := 128 - a % 128
    if bs = [] then [] else (a, bs.take n) :: linePieces fuel (a + n) (bs.drop n)

/-- A store of an outside agent, line by line. -/
def outsideStore (s : State) (pa : Nat) (bs : List Byte) : State :=
  (linePieces (bs.length / 128 + 2) pa bs).foldl (fun s p => outsideWrite s p.1 p.2) s

/-- An atomic of an outside agent at an aligned word that can be read. -/
def outsideAtomic (s : State) (pa : Nat) (op : AtomOp) (ty : Aty) (b b2 : Nat) : State :=
  let n := atyBytes ty
  if pa % n ≠ 0 || tierOf pa = .reserved || (poisonCause s pa true).isSome then s
  else
    let s := restLine s (lineOf pa)
    outsideWrite s pa (bytesOf n (atomNew op ty (memVal s.mem pa n) b b2))

/-- HOST_WRITE: a host store to device memory performs at the home (R154). -/
def execHostWrite (addr : Nat) (data : List Byte) (s : State) : Host.Outcome State Fault Refusal :=
  .next (if tierOf addr = .hbm then outsideStore s addr data else s)

/-- HOST_ATOMICOP: a FetchAdd (0), Swap (1) or CAS (2) of the host, of the sizes of Table 15-1, performs at the home. -/
def execHostAtomicop (addr op size : Nat) (operand swap : Nat) (s : State) : Host.Outcome State Fault Refusal :=
  .next (
    let ty : Option Aty := match size with | 4 => some .n32 | 8 => some .n64 | 16 => if op = 2 then some .n128 else none | _ => none
    let fn : Option AtomOp := match op with | 0 => some .add | 1 => some .exch | 2 => some .cas | _ => none
    match ty, fn with
    | some ty, some fn => if tierOf addr = .hbm then outsideAtomic s addr fn ty operand swap else s
    | _, _ => s)

/-- CXL_BACK_INVALIDATE: a cached line of the pool is dropped (Table 6-3). -/
def execCxlBackInvalidate (line : Nat) (s : State) : Host.Outcome State Fault Refusal :=
  .next (if tierOf (128 * line) = .pool then dropLine s line else s)

/-- CXL_SNOOP: the host takes a cached line of its memory back, and may write it (Table 6-3). -/
def execCxlSnoop (line : Nat) (data : Option (List Byte)) (s : State) : Host.Outcome State Fault Refusal :=
  .next (
    if tierOf (128 * line) ≠ .host || hostPcie s (128 * line) then s
    else
      let s := dropLine s line
      match data with
      | some bs => writeAt s (128 * line) (bs.take 128)
      | none => s)

/-! ### Host ports -/

/-- A host port of the device. -/
def portOfHost (s : State) (p : Nat) : HostPort := aget {} s.hostPorts p
/-- A host port changed; its node shows it (Table 1-5). -/
def setHostPort (s : State) (p : Nat) (x : HostPort) : State := { s with hostPorts := aput s.hostPorts p x, treeDirty := true }

/-- HOST_LINK_UP: a port trains as PCIe or CXL, and its node shows the choice (R316). -/
def execHostLinkUp (port : Nat) (cxl : Bool) (width : Nat) (s : State) : Host.Outcome State Fault Refusal :=
  .next (if 2 ≤ port then s else setHostPort s port { up := true, cxl := cxl, width := width, pool := true })

/-- HOST_LINK_DOWN: a port's link is down; accesses to its halves fail (R317). -/
def execHostLinkDown (port : Nat) (s : State) : Host.Outcome State Fault Refusal :=
  .next (
    if !(portOfHost s port).up then s
    else
      report (setHostPort s port { portOfHost s port with up := false })
        { cause := 0xA4, sev := 3, action := 7, engine := deviceEngine 10 port })

/-- POOL_PATH_DOWN: the path to the CXL pool is lost (R376). -/
def execPoolPathDown (port : Nat) (s : State) : Host.Outcome State Fault Refusal :=
  .next (
    if 2 ≤ port then s
    else
      report { s with hostPorts := aput s.hostPorts port { portOfHost s port with pool := false } }
        { cause := 0xA6, sev := 3, action := 8, engine := deviceEngine 10 port })

/-- HOST_PORT_ERROR: a corrected (0) or non-fatal (1) PCIe error, or a CXL protocol error (2), is reported (Table 20-13). -/
def execHostPortError (port kind status : Nat) (s : State) : Host.Outcome State Fault Refusal :=
  .next (
    let r : Record := { engine := deviceEngine 10 port, syn := w64 status }
    match kind with
    | 0 => report s { r with cause := 0xA2, syn := setFld r.syn 48 16 0 }
    | 1 => report s { r with cause := 0xA3, sev := 1 }
    | 2 => report s { r with cause := 0xA5, sev := 4, action := 7, syn := 0#64 }
    | _ => s)

/-! ### Yilesh ports -/

/-- A Yilesh port of the device. -/
def ylAt (s : State) (p : Nat) : YlPort := aget {} s.ylPorts p
/-- ENGINE of a Yilesh port. -/
def ylEngine (p : Nat) : Nat := deviceEngine 11 p

/-- A lane of a remote request takes a cause, its destination unwritten (R376, R408); an agent finds it in the answer, and a grid's signal
that is lost is reported (log 14). -/
def failRemote (s : State) (r : Remote) (cause : Nat) (syn : Word) (virtual : Bool) : State :=
  let s := { s with remotes := s.remotes.filter fun x => x.tag ≠ r.tag }
  let strike := fun (s : State) (k lane : Nat) (pc : Word) (run : Word) (addr : Nat) =>
    detect s k
      { pc := pc, deferred := true, engine := ylEngine r.port
        lanes := (if lane = 64 then lanesOf run else [lane]).map fun l => { lane := l, cause := cause, addr := some addr, syn := syn } }
  match s.watches.find? fun w => w.tag = some r.tag with
  | some w =>
    let pc := ((runsOf (warpAt s w.warp)).find? fun e => bit e.mask w.lane).map (·.pc) |>.getD 0#64
    strike (wakeWaiter s w) w.warp w.lane pc 0#64 (domainAddr r.dev w.pa)
  | none =>
    match accAt s r.acc with
    | none =>
      if r.acc = 0 then report s { cause := cause, sev := 1, engine := ylEngine r.port, syn := syn }
      else { s with replies := s.replies ++ [{ who := r.acc, va := r.va, cause := cause, syn := syn }] }
    | some a =>
      match a.lanes.find? fun l => l.lane = r.lane with
      | none => s
      | some l =>
        let s := if l.mute then s
          else strike s a.warp l.lane a.pc a.run (if virtual then l.va.toNat else domainAddr r.dev (l.pas.headD 0))
        let s := putAcc s { a with lanes := a.lanes.map fun m => if m.lane = r.lane then { m with live := false, sent := false } else m }
        afterServe s a.id

/-- SYNDROME of a request that may not have performed: its operation and type (YL_IN_DOUBT). -/
def remoteFn (s : State) (r : Remote) : Word :=
  match accAt s r.acc with
  | none => 0#64
  | some a =>
    match a.kind with
    | .atom op ty => fnAty (atomFn op) ty
    | .red op ty => fnAty (atomFn (redAtom op)) ty
    | .waitadd ty => fnAty 0 ty
    | _ => 0#64

/-- A WAITADD whose old value returns from the owner: a lane that its new value does not satisfy waits on, registered there, for the wake
that travels back under the same tag (R238, R323). -/
def remoteAdded (s : State) (a : Acc) (r : Remote) (ty : Aty) (l : LaneAcc) (old : List Byte) : State :=
  let n := 8 * a.bytes
  let t := leVal l.data2
  let new := atomNew .add ty (leVal (old.take a.bytes)) (leVal l.data) 0
  if ival (atySigned ty) n t ≤ ival (atySigned ty) n new then s
  else
    let x := freshId s
    { x.2 with
      remotes := x.2.remotes ++ [{ r with idemp := true }]
      watches := x.2.watches ++ [{ id := x.1, warp := a.warp, lane := l.lane, pa := l.pas.headD 0, bytes := a.bytes, cond := .ge, ty := ty
                                   value := t, tag := some r.tag, dev := l.dev }] }

/-- A remote request completes with the data that its owner returns (R323). -/
def completeRemote (s : State) (r : Remote) (data : List Byte) : State :=
  let s := { s with remotes := s.remotes.filter fun x => x.tag ≠ r.tag }
  match s.watches.find? fun w => w.tag = some r.tag with
  | some w => wakeWaiter s w
  | none =>
    match accAt s r.acc with
    | none =>
      if r.n = 0 then s
      else { s with replies := s.replies ++ [{ who := r.acc, va := r.va, data := (List.range r.n).map fun k => data.getD k 0#8 }] }
    | some a =>
      let s := match a.kind with
        | .load _ => (a.lanes.filter fun l => l.lane = r.lane).foldl (fun s l => noteRead s a.warp a.inTx l a.bytes data) s
        | .waitadd ty => (a.lanes.filter fun l => l.lane = r.lane).foldl (fun s l => remoteAdded s a r ty l data) s
        | _ => s
      let lanes := a.lanes.map fun l =>
        if l.lane ≠ r.lane then l
        else if returns a.kind then
          { l with res := (List.range (a.bytes)).map (fun k => data.getD k 0#8), done := true, sent := false }
        else { doneLane l with sent := false }
      afterServe (putAcc s { a with lanes := lanes }) a.id

/-- YL_COMPLETION_ARRIVAL: a completion, an error completion or an in-doubt completion retires its tag; one for a retired tag is
discarded (R408). -/
def execYlCompletionArrival (tag : Nat) (inDoubt : Bool) (error : Nat) (data : List Byte) (s : State) :
    Host.Outcome State Fault Refusal :=
  .next (match s.remotes.find? fun r => r.tag = tag with
  | none => s
  | some r =>
    if inDoubt then failRemote s r 0xA9 (remoteFn s r) false
    else if error ≠ 0 then failRemote s r 0x28 (w64 (error % 256 + 256 * r.dev)) true
    else completeRemote s r data)

/-- A port dies: idempotent requests go by another route, and the others end in doubt (R407). -/
def killPort (s : State) (port : Nat) : State :=
  let y := ylAt s port
  if !y.trained then s
  else
    let s := { s with ylPorts := aput s.ylPorts port { y with trained := false, fails := 0 }, treeDirty := true }
    let mine := s.remotes.filter fun r => r.port = port
    let again := mine.filter fun r => r.idemp
    let s := { s with remotes := s.remotes.map fun r => if r.port = port && r.idemp then { r with port := ylPort s } else r }
    let s := (mine.filter fun r => !r.idemp).foldl (fun s r => failRemote s r 0xA9 (remoteFn s r) false) s
    promiseTree (promise s treeKey { cause := 0xA8, sev := 3, action := 5, engine := ylEngine port, syn := w64 again.length }) treeKey

/-- YL_LINK_DEATH: a link receives no acknowledgement for 10 µs (R407). -/
def execYlLinkDeath (port : Nat) (s : State) : Host.Outcome State Fault Refusal := .next (killPort s port)

/-- YL_FLIT_RECEIVE: the next flit in sequence is acknowledged; one that fails its CRC is requested again, and the eighth failure in
a row of one number kills the link (R322, R407). -/
def execYlFlitReceive (port seq : Nat) (crcOk : Bool) (s : State) : Host.Outcome State Fault Refusal :=
  .next (
    let y := ylAt s port
    if !y.trained || seq ≠ y.rxSeq then s
    else if crcOk then
      { s with ylPorts := aput s.ylPorts port { y with rxSeq := (seq + 1) % 4096, fails := 0, ackSeq := seq } }
    else
      let s := report { s with ylPorts := aput s.ylPorts port { y with fails := y.fails + 1 } } { cause := 0xA7, engine := ylEngine port }
      if 8 ≤ y.fails + 1 then killPort s port else s)

/-- YL_REQUEST_TIMEOUT: with no route to its owner, a request ends after 1 ms (R409). -/
def execYlRequestTimeout (tag : Nat) (s : State) : Host.Outcome State Fault Refusal :=
  .next (match s.remotes.find? fun r => r.tag = tag with
  | none => s
  | some r =>
    let route := routed s r.dev && s.ylPorts.any fun p => p.2.trained
    if route || s.time < r.since + 1000000 then s else failRemote s r 0xAA (remoteFn s r) false)

/-- YL_DEGRADED: a lane of a port is withdrawn (R376). -/
def execYlDegraded (port lanes : Nat) (s : State) : Host.Outcome State Fault Refusal :=
  .next (
    let y := ylAt s port
    if !y.trained then s
    else
      let s := setPart { s with ylPorts := aput s.ylPorts port { y with lanes := lanes } } 11 port 5
      report s { cause := 0xAB, sev := 1, engine := ylEngine port, syn := w64 lanes })

/-- The tags of a source's last 1,024 writes, with one more (R408). -/
def noteTag (s : State) (src tag : Nat) : State :=
  let mine := (s.tags.filter fun t => t.1 = src).length
  let old := if mine < 1024 then s.tags
    else match s.tags.find? fun t => t.1 = src with
      | some x => s.tags.erase x
      | none => s.tags
  { s with tags := old ++ [(src, tag, [])] }

/-- The operation of an atomic's FN (Table 11-2). -/
def opOfFn (n : Nat) : AtomOp :=
  match n with | 0 => .add | 1 => .min | 2 => .max | 3 => .and | 4 => .or | 5 => .xor | 6 => .exch | _ => .cas

/-- The type of an atomic's ATY (Table 11-2). -/
def tyOfAty (n : Nat) : Aty := match n with | 0 => .i32 | 1 => .n32 | 2 => .i64 | 3 => .n64 | 4 => .fp32 | _ => .n128

/-- YL_REQUEST_ARRIVAL: a read, write or atomic of another device performs here; a write whose tag is known is not performed again,
and a malformed packet is dropped (R323, R408, Table 15-4). -/
def execYlRequestArrival (port src tag kind addr : Nat) (data : List Byte) (op aty : Nat) (s : State) :
    Host.Outcome State Fault Refusal :=
  .next (
    if !(ylAt s port).trained then s
    else
      match kind with
      | 0 => if tierOf addr = .reserved || uncached s false addr then s else placeLine s (lineOf addr)
      | 1 =>
        if s.tags.any fun t => t.1 = src && t.2.1 = tag then s
        else noteTag (outsideStore s addr data) src tag
      | 2 =>
        let n := atyBytes (tyOfAty aty)
        if 8 ≤ op || 6 ≤ aty || !atyAllowed (opOfFn op) (tyOfAty aty) then s
        else outsideAtomic s addr (opOfFn op) (tyOfAty aty) (leVal (data.take n)) (leVal ((data.drop n).take n))
      | 3 | 4 | 5 | 6 => s
      | _ => report s { cause := 0xAC, sev := 1, engine := ylEngine port, syn := w64 src })

end Sys2Proof.Machine
end

