-- ==== Sys2Proof/Machine/Registers.lean ====
section
/-!
DEFINITION. Bring-up (R328), authentication (R420), device and function resets (R421, R422), the debug registers and commands
(R426 to R434), and the register windows of the host (R318 to R320, R423, R426).
-/
namespace Sys2Proof.Machine
open Sys2Proof

/-! ### Bring-up and firmware -/

/-- A context's virtual function is enabled (R328 step 5, log 30). -/
def enableVf (s : State) (n : Nat) : State :=
  let c := ctxAt s n
  if c.enabled || s.devstat ≠ 1 then s else putCtx s n { c with enabled := true, resident := true }

/-- A part that fails its test at bring-up: it is never in service (R24), a slice of it outside the placement map. -/
def markDefective (s : State) (part : Nat × Nat) : State :=
  let s := setPart s part.1 part.2 2
  if part.1 = 6 && !s.slicesOut.contains part.2 then { s with slicesOut := part.2 :: s.slicesOut }
  else if part.1 = 7 then { s with walkersOut := aput s.walkersOut part.2 32 }
  else if part.1 = 10 && !s.hbmOut.contains part.2 then { s with hbmOut := part.2 :: s.hbmOut }
  else s

/-- Step 2 of bring-up: the wafer is tested, the torus embedded as firmware chooses within the bound of R15, and the first image
published (R328). The spec names no defective part; the event carries those of the wafer, by kind and number (log 35). -/
def embedWafer (s : State) (x : BringUpStep) : State :=
  let t := moved (x.defects.foldl markDefective s) x.embedding.moves x.embedding.detours
  if embedOk t then firstTree { t with stage := 2, placed := true } else s

/-- Firmware's setting of the Yardmaster, where it makes one (R126). -/
def yardSetting (s : State) (y : Option (Nat × Nat)) : State :=
  match y with
  | some y => setYardmaster s y.1 y.2
  | none => s

/-- BRING_UP: the steps of R328 in their order; stage 5 + n is step 5 for context n. A boot image that fails verification holds the
device, and an identity certificate that fails is not presented (R420). Step 2 carries what it finds and how it embeds the torus. The
table has no event for firmware's setting of the Yardmaster (R126), so that it comes with this one, at any time (log 35). -/
def execBringUp (x : BringUpStep) (authOk identityOk : Bool) (s : State) : Host.Outcome State Fault Refusal :=
  .next (
    let stage := x.step
    let s := if s.devstat = 2 then s else yardSetting s x.yard
    if s.devstat = 2 then s
    else if 5 ≤ stage then (if s.stage = 4 && stage < 69 then enableVf s (stage - 5) else s)
    else if stage = 0 || s.stage + 1 ≠ stage then s
    else
      match stage with
      | 1 =>
        if authOk then { s with stage := 1, devstat := 0, identity := identityOk }
        else report { s with devstat := 2 } { cause := 0xBB, sev := 4, action := 8, engine := deviceEngine 14 0 }
      | 2 => embedWafer s x
      | 3 => { s with stage := 3 }
      | _ => { s with stage := 4, devstat := 1 })

/-- DEVICE_NUMBER_ASSIGN: at step 4 of bring-up the Yilesh ports train, and the fabric manager assigns the number and installs the
first routing tables (R321, R328, log 34). -/
def execDeviceNumberAssign (number : Nat) (routes : List Nat) (s : State) : Host.Outcome State Fault Refusal :=
  .next (
    if s.stage ≠ 3 then s
    else
      let ports := (List.range 72).filter fun p => !outOfUse (partStatus s 11 p)
      { s with
        devnum := number % 2 ^ 13, routing := { gen := 1, routes := routes }, treeDirty := true
        ylPorts := ports.foldl (fun m p => aput m p { trained := true, lanes := 8 }) s.ylPorts })

/-- FIRMWARE_UPDATE: a verified image is installed, any other is discarded (R420). -/
def execFirmwareUpdate (version : Nat) (authOk : Bool) (s : State) : Host.Outcome State Fault Refusal :=
  .next (
    if s.stage = 0 then s
    else if authOk then { s with fwVersion := version }
    else report s { cause := 0xBA, sev := 1, engine := deviceEngine 14 0, syn := w64 version })

/-- ATTESTATION_REQUEST: served only with a verified identity (R420). -/
def execAttestationRequest (s : State) : Host.Outcome State Fault Refusal :=
  .next (if s.identity && s.stage ≠ 0 then { s with attests := s.attests + 1 } else s)

/-! ### Resets -/

/-- A device reset (R421, R422): every SRAM, HBM, %TIME and the SEQ counter are lost. What lies outside the device stays, as do the
Vilvor log, the installed firmware, and the parts that are out of use (log 33). A held device stays held but for a power-on after service
(R420). -/
def resetDevice (s : State) (kind err : Nat) : State :=
  let count := if kind = 0 then 0 else satInc (s.rstcause.toNat / 2 ^ 16)
  let r := State.reset
  { r with
    mem := s.mem.filter (fun c => tierOf c.1 ≠ .hbm), hostMem := s.hostMem, log := s.log
    rstcause := w32 (count * 2 ^ 16 + err % 256 * 256 + kind), devstat := if s.devstat = 2 && kind ≠ 0 then 2 else 3, fwVersion := s.fwVersion
    tree := s.tree, slicesOut := s.slicesOut.filter (fun k => outOfUse (partStatus s 6 k)), hbmOut := s.hbmOut
    spares := s.spares, linkLanes := s.linkLanes, walkersOut := s.walkersOut
    cores := (s.cores.filter (fun c => c.2.failed)).map fun c => (c.1, { failed := true })
    nextId := s.nextId, freeCtr := s.freeCtr, inbox := s.inbox }

/-- A write of RSTCTL, ignored while the device is resetting (R425, Table 23-4). -/
def writeRstctl (s : State) (key : Nat) : State :=
  if key = 0x52534554 && s.devstat ≠ 3 then resetDevice s 1 s.calledBy else s

/-- DEVICE_RESET: RSTCTL (1, with its key), a PCIe conventional reset (2), or power-on (0) (R421, Table 23-5). -/
def execDeviceReset (kind key : Nat) (s : State) : Host.Outcome State Fault Refusal :=
  .next (match kind with
  | 0 => resetDevice s 0 0
  | 1 => writeRstctl s key
  | 2 => resetDevice s 2 s.calledBy
  | _ => s)

/-- FW_EXCEPTION: firmware fails, and Vilvor restarts it with a device reset (Table 23-5, R377). -/
def execFwException (code : Nat) (s : State) : Host.Outcome State Fault Refusal :=
  .next (resetDevice (report s { cause := 0xBC, sev := 4, action := 7, engine := deviceEngine 14 0, syn := w64 code }) 3 0xBC)

/-- FUNCTION_LEVEL_RESET: the context of a VF is destroyed (R421, VF_RESET). -/
def execFunctionLevelReset (ctx : Nat) (s : State) : Host.Outcome State Fault Refusal :=
  .next (
    if !(ctxAt s ctx).enabled then s
    else
      let s := discardTeams s ctx
      let s := { s with
        ctxs := aerase s.ctxs ctx, fqueue := s.fqueue.filter fun p => p.ctx ≠ ctx, fqWait := s.fqWait.filter fun p => p.1 ≠ ctx
        tlb := s.tlb.filter fun e => e.ctx ≠ ctx }
      let x := stampRecord s { cause := 0xAE, sev := 2, engine := deviceEngine 10 s.vfport, ctx := ctx }
      toDeviceRing (logAdd x.2 x.1) x.1)

/-! ### Debug commands -/

/-- A debug command is accepted with ENABLE set and no other under way (R427). -/
def dbgReady (c : Ctx) : Bool := dbgReg c 0x60 % 2 = 1 && !c.dbgBusy && c.stepping.isNone

/-- The target warp of a context, when its team stands in the shed and it has not exited (R431, R434). -/
def dbgTarget (s : State) (cn : Nat) : Option Nat :=
  let c := ctxAt s cn
  match s.teams.find? fun t => t.2.ctx = cn && t.2.status = .saved && t.2.grid = dbgReg c 0x78 && t.2.index = dbgReg c 0x70 with
  | none => none
  | some t =>
    let k := warpKey t.1 (dbgReg c 0x7A)
    if dbgReg c 0x7A < t.2.nwarps && !(warpAt s k).exited then some k else none

/-- HALT: the context is switched out as a debug halt (R428). -/
def dbgHaltCmd (s : State) (cn : Nat) : State :=
  let c := ctxAt s cn
  if !dbgReady c || c.halted then s
  else if c.faulted.isSome then putCtx s cn { c with halted := true, dbgWhy := 1 }
  else afterSave (beginHalt s cn 1 0) cn

/-- RESUME: the halted context returns (R428). -/
def dbgResumeCmd (s : State) (cn : Nat) : State :=
  let c := ctxAt s cn
  if !dbgReady c || !c.halted then s
  else if c.faulted.isSome then putCtx s cn { c with halted := false }
  else switchIn s cn

/-- STEP: the target team is to return, and its target warp to issue one instruction (R431). -/
def dbgStepCmd (s : State) (cn : Nat) : State :=
  let c := ctxAt s cn
  if !dbgReady c || !c.halted then s
  else
    match dbgTarget s cn with
    | none => putCtx s cn { c with dbgWhy := 7 }
    | some k => putCtx s cn { c with dbgBusy := true, stepping := some (k, 0) }

/-- A warp with the newest entry of its undo log applied (R434). -/
def undoOne (w : Warp) (u : Undo) (rest : List Undo) : Warp :=
  let w := u.regs.foldl applyWrite w
  let w := match w.handler with
    | some h => { w with handler := some { h with runs := u.pcs } }
    | none => { w with pcs := u.pcs }
  { w with latches := u.latch.getD w.latches, seed := u.seed, undo := rest }

/-- BACK: the newest entry of the target warp's log is applied to its image (R434). -/
def dbgBackCmd (s : State) (cn : Nat) : State :=
  let c := ctxAt s cn
  if !dbgReady c || !c.halted then s
  else
    match dbgTarget s cn with
    | none => putCtx s cn { c with dbgWhy := 7 }
    | some k =>
      match (warpAt s k).undo with
      | [] => putCtx s cn { c with dbgWhy := 6 }
      | u :: rest => putWarp (putCtx s cn { c with dbgWhy := 5 }) k (undoOne (warpAt s k) u rest)

/-- DBG_HALT: the HALT command (R428). -/
def execDbgHalt (ctx : Nat) (s : State) : Host.Outcome State Fault Refusal := .next (dbgHaltCmd s ctx)
/-- DBG_RESUME: the RESUME command (R428). -/
def execDbgResume (ctx : Nat) (s : State) : Host.Outcome State Fault Refusal := .next (dbgResumeCmd s ctx)
/-- DBG_STEP: the STEP command (R431). -/
def execDbgStep (ctx : Nat) (s : State) : Host.Outcome State Fault Refusal := .next (dbgStepCmd s ctx)
/-- DBG_BACK: the BACK command (R434). -/
def execDbgBack (ctx : Nat) (s : State) : Host.Outcome State Fault Refusal := .next (dbgBackCmd s ctx)

/-- The stepped instruction has completed, or its run has parked (R431 step 3). -/
def stepSettled (s : State) (k : Nat) : Bool :=
  let w := warpAt s k
  let run := (ctxAt s (teamAt s w.team).ctx).stepRun
  let c := coreAt s (teamAt s w.team).core
  let rep := match w.rep with
    | some r => r.stopped || decide (r.start + r.steps.length ≤ aclkAt s (teamAt s w.team).core)
    | none => true
  (w.pcs ++ runsOf w).any (fun e => e.park.isSome && e.mask &&& run ≠ 0#64)
    || (accsOf s k = [] && (s.squ.all fun r => r.warp ≠ k) && holdsOf w = [] && rep
      && (c.queue ++ c.waiting).all (fun x => x.warp ≠ k) && c.chains.all fun x => x.warp ≠ k)

/-- DBG_STEP_END: the step's instruction has completed or parked, or 1 ms has passed, and the team is saved again; a team that has
exited ends the step (R431). -/
def execDbgStepEnd (ctx : Nat) (s : State) : Host.Outcome State Fault Refusal :=
  .next (
    let c := ctxAt s ctx
    match c.stepping with
    | none => s
    | some (k, t) =>
      match afind s.teams (k / 16) with
      | none => putCtx s ctx { c with stepping := none, dbgBusy := false, dbgWhy := 4 }
      | some x =>
        let fin := if t ≠ 0 then stepSettled s k || t + 1000000 ≤ s.time + 1 else x.issueAt + 1000000 ≤ s.time
        if x.status = .resident && fin then { s with agenda := .event (.preemptRequest (k / 16)) :: s.agenda } else s)

/-! ### Register windows -/

/-- No team of a context is on a core or in the shed (R318, R423). -/
def ctxIdle (s : State) (cn : Nat) : Bool := !(s.teams.any fun t => t.2.ctx = cn)

/-- A debug register takes a value. -/
def setDbg (s : State) (cn off v : Nat) : State := let c := ctxAt s cn; putCtx s cn { c with dbg := aput c.dbg off v }

/-- A write of DBGCTL: clearing UNDO empties the logs, and setting ENABLE clears REASON (R432, Table 24-2). -/
def writeDbgctl (s : State) (cn v : Nat) : State :=
  let c := ctxAt s cn
  let was := dbgReg c 0x60
  let s := setDbg s cn 0x60 (v % 8)
  let s := if was % 2 = 0 && v % 2 = 1 then putCtx s cn { ctxAt s cn with dbgWhy := 0, dbgIndex := 0 } else s
  if v / 2 % 2 = 1 then s
  else { s with warps := s.warps.map fun w => if warpCtx s w.1 = cn then (w.1, { w.2 with undo := [], undoLost := true }) else w }

/-- A write of DBGCMD (Table 24-1). -/
def writeDbgcmd (s : State) (cn v : Nat) : State :=
  match v % 16 with
  | 1 => dbgHaltCmd s cn
  | 2 => dbgResumeCmd s cn
  | 3 => dbgStepCmd s cn
  | 4 => dbgBackCmd s cn
  | _ => s

/-- A write of a debug register of a context (Table 24-1). -/
def writeDebug (s : State) (cn off v : Nat) : State :=
  if off = 0x60 then writeDbgctl s cn v
  else if off = 0x64 then writeDbgcmd s cn v
  else if off = 0x6C then
    (if ctxIdle s cn && v % 4096 = 0 && 4096 ≤ v && v ≤ 262144 then setDbg s cn off v else s)
  else if off = 0x70 then setDbg s cn off (v % 2 ^ 64)
  else if off = 0x78 then (if v < 1024 then setDbg s cn off v else s)
  else if off = 0x7A then (if v < 16 then setDbg s cn off v else s)
  else if off = 0x80 || off = 0x88 || off = 0x90 || off = 0x98 then setDbg s cn off (v % 2 ^ 57 / 4 * 4 + v % 2)
  else if off = 0xA0 || off = 0xB0 then setDbg s cn off (v % 2 ^ 64)
  else if off = 0xA8 || off = 0xB8 then
    (if v % 2 ^ 17 ≤ 65536 then setDbg s cn off (v % 2 ^ 17 + v / 2 ^ 30 % 4 * 2 ^ 30) else s)
  else s

/-- A write of a register of a context's block (Table 23-4). -/
def writeCtxBlock (s : State) (cn off v : Nat) : State :=
  let c := ctxAt s cn
  let idle := ctxIdle s cn
  let n64 := v % 2 ^ 64
  match off with
  | 0x00 => if idle then putCtx s cn { c with hentry := n64 } else s
  | 0x08 => if idle then putCtx s cn { c with tarea := n64 } else s
  | 0x10 => if idle then putCtx s cn { c with tasize := n64 } else s
  | 0x18 => if idle then putCtx s cn { c with hmask := v % 2 ^ 12 } else s
  | 0x20 => putCtx s cn { c with wdlimit := n64 }
  | 0x28 => putCtx s cn { c with fslimit := n64 }
  | 0x30 => if idle && n64 % 4096 = 0 then putCtx s cn { c with crbase := n64 } else s
  | 0x38 => if idle && 6 ≤ v && v ≤ 16 then putCtx s cn { c with crlog2 := v } else s
  | 0x48 => putCtx s cn { c with repseq := n64 }
  | 0x50 => putCtx s cn { c with repstat := v % 2 ^ 32 }
  | 0x54 => replayRequest s cn v
  | _ => writeDebug s cn off v

/-- A write of a register of the device's page (Table 23-4). -/
def writeDevice (s : State) (off v : Nat) : State :=
  let n64 := v % 2 ^ 64
  match off with
  | 0x010 => writeRstctl s v
  | 0x020 => if n64 % 4096 = 0 then { s with drbase := n64 } else s
  | 0x028 => if 6 ≤ v && v ≤ 16 then { s with drlog2 := v } else s
  | 0x02A => { s with drvec := v % 2 ^ 16 }
  | 0x038 => { s with drci := n64 }
  | 0x058 => writeDthost s n64
  | 0x062 => if v ≤ 1 && !(s.ctxs.any fun c => c.2.enabled) then { s with vfport := v } else s
  | 0x064 => if 250 ≤ v && v ≤ 16000 && !(s.ctxs.any fun c => c.2.grids ≠ []) then { s with tslot := v } else s
  | _ => s

/-- A write of the management window (R423). -/
def writeManagement (s : State) (off v : Nat) : State :=
  if off < 0x1000 then writeDevice s off v
  else if off < 0x1000 + 0x100 * 64 then writeCtxBlock s ((off - 0x1000) / 0x100) ((off - 0x1000) % 0x100) v
  else s

/-- A write of a context page (Table 15-2, R318). -/
def writeCtxPage (s : State) (cn off v : Nat) : State :=
  let c := ctxAt s cn
  let idle := ctxIdle s cn
  let n64 := v % 2 ^ 64
  match off with
  | 0x000 => if idle then putCtx s cn { c with root := n64 } else s
  | 0x008 => if idle then putCtx s cn { c with shed := n64 } else s
  | 0x010 => if idle then putCtx s cn { c with shedsz := n64 } else s
  | 0x018 => putCtx s cn { c with invva := n64 }
  | 0x020 => putCtx s cn { c with invlen := n64 }
  | 0x028 => startInvalidation s cn v
  | 0x030 => if idle then putCtx s cn { c with share := w64 (v % 2 ^ 48) } else s
  | _ => s

/-- A write of a doorbell page (Table 15-3): RING, LOG2N and PRIO only while the queue is disabled and empty. -/
def writeQueuePage (s : State) (cn q off v : Nat) : State :=
  let x := queueAt (ctxAt s cn) q
  let free := !x.enable && x.read = x.write
  match off with
  | 0x00 => if free && v % 4096 = 0 then setQueue s cn q { x with ring := w64 v, lastGrid := none } else s
  | 0x08 => if free && 4 ≤ v && v ≤ 16 then setQueue s cn q { x with log2n := v } else s
  | 0x09 => if free && v ≤ 7 then setQueue s cn q { x with prio := v } else s
  | 0x0A => writeEnable s cn q v
  | 0x10 => writeDoorbell s cn q (v % 2 ^ 64)
  | 0x20 => writeSkip s cn q v
  | _ => s

/-- INVSTAT (Table 15-2). -/
def invStat (c : Ctx) : Nat := b2n c.invBusy + 2 * (c.invCount % 2 ^ 31)
/-- CTXSTAT (Table 23-4). -/
def ctxStat (c : Ctx) : Nat :=
  b2n c.resident + match c.faulted with
    | some cause => 2 + 4 * (cause % 256)
    | none => 0
/-- DBGSTAT (Table 24-1): the count of the target warp's undo log saturates at 255. -/
def dbgStat (s : State) (cn : Nat) : Nat :=
  let c := ctxAt s cn
  let log := match dbgTarget s cn with
    | some k => Nat.min 255 (warpAt s k).undo.length
    | none => 0
  b2n c.halted + 2 * b2n c.dbgBusy + 2 ^ 4 * (c.dbgWhy % 16) + 2 ^ 8 * (c.dbgIndex % 4) + 2 ^ 16 * log

/-- A debug register of a context as a read gives it (Table 24-1). -/
def readDebug (s : State) (cn off : Nat) : Nat :=
  if off = 0x68 then dbgStat s cn
  else if [0x60, 0x6C, 0x70, 0x78, 0x7A, 0x80, 0x88, 0x90, 0x98, 0xA0, 0xA8, 0xB0, 0xB8].contains off then dbgReg (ctxAt s cn) off
  else 0

/-- A register of a context's block as a read gives it (Table 23-4). -/
def readCtxBlock (s : State) (cn off : Nat) : Nat :=
  let c := ctxAt s cn
  match off with
  | 0x00 => c.hentry
  | 0x08 => c.tarea
  | 0x10 => c.tasize
  | 0x18 => c.hmask
  | 0x20 => c.wdlimit
  | 0x28 => c.fslimit
  | 0x30 => c.crbase
  | 0x38 => c.crlog2
  | 0x40 => c.crlost
  | 0x48 => c.repseq
  | 0x50 => c.repstat
  | 0x58 => ctxStat c
  | _ => readDebug s cn off

/-- A register of the device's page as a read gives it (Table 23-4). -/
def readDevice (s : State) (off : Nat) : Nat :=
  match off with
  | 0x000 => 0x5A48
  | 0x004 => Config.stepping
  | 0x008 => s.devstat
  | 0x00C => s.rstcause.toNat
  | 0x014 => s.retResets
  | 0x016 => s.coreResets
  | 0x018 => s.seqNext
  | 0x020 => s.drbase
  | 0x028 => s.drlog2
  | 0x02A => s.drvec
  | 0x030 => s.drpi
  | 0x038 => s.drci
  | 0x040 => s.drlost
  | 0x048 => s.dtaddr
  | 0x050 => s.dtbytes
  | 0x058 => s.dthost
  | 0x060 => s.devnum
  | 0x062 => s.vfport
  | 0x064 => s.tslot
  | _ => 0

/-- A register of a context page as a read gives it (Table 15-2). -/
def readCtxPage (s : State) (cn off : Nat) : Nat :=
  let c := ctxAt s cn
  match off with
  | 0x000 => c.root
  | 0x008 => c.shed
  | 0x010 => c.shedsz
  | 0x018 => c.invva
  | 0x020 => c.invlen
  | 0x02C => invStat c
  | 0x030 => c.share.toNat
  | _ => 0

/-- A register of a doorbell page as a read gives it (Table 15-3). -/
def readQueuePage (s : State) (cn q off : Nat) : Nat :=
  let x := queueAt (ctxAt s cn) q
  match off with
  | 0x00 => x.ring.toNat
  | 0x08 => x.log2n
  | 0x09 => x.prio
  | 0x0A => b2n x.enable
  | 0x0B => b2n x.stopped
  | 0x10 => x.write
  | 0x18 => x.read
  | _ => 0

/-- What a host reads at a register: page 0 is the management window, page 1 + n the window of VF n. A write-only register and every
other offset read as 0, and a read changes nothing (Table 0-2, R5, R6, R318, R423). -/
def registerRead (s : State) (page offset : Nat) : Nat :=
  if page = 0 then
    (if offset < 0x1000 then readDevice s offset
    else if offset < 0x1000 + 0x100 * 64 then readCtxBlock s ((offset - 0x1000) / 0x100) ((offset - 0x1000) % 0x100) else 0)
  else if 64 < page || !(ctxAt s (page - 1)).enabled then 0
  else if offset < 0x1000 then readCtxPage s (page - 1) offset
  else if offset < 0x1000 * 33 then readQueuePage s (page - 1) (offset / 0x1000 - 1) (offset % 0x1000)
  else 0

/-- REGISTER_WRITE: a write of a host register, of page 0, the management window, or of page 1 + n, the window of VF n (R318, R423,
log 34). While the device is held it has no contexts to serve (R420). -/
def execRegisterWrite (page offset value : Nat) (s : State) : Host.Outcome State Fault Refusal :=
  .next (
    if page = 0 then writeManagement s offset value
    else if 64 < page || !(ctxAt s (page - 1)).enabled then s
    else if offset < 0x1000 then writeCtxPage s (page - 1) offset value
    else if offset < 0x1000 * 33 then writeQueuePage s (page - 1) (offset / 0x1000 - 1) (offset % 0x1000) value
    else s)

end Sys2Proof.Machine
end

