-- ==== Sys2Proof/Machine/Agenda.lean ====
section
/-!
DEFINITION. What happens when (logs 2 to 4): the aclk of clusters (R293, R294) with the issue opportunities of their ports (R69), the
passing of a nanosecond (R89), the watchdog (R412), and the events that are due at an instant.
-/
namespace Sys2Proof.Machine
open Sys2Proof

/-! ### Clocks -/

/-- What a cluster's clock gains in a nanosecond, in 1/20 of a period: step n runs at 0.60 + 0.05 n GHz (R293); a droop lengthens the
period by an open amount of at most a half (R294, log 5); a stopped cluster gains nothing. -/
def clockGain (x : Cluster) (free : Nat) : Nat :=
  let full := 12 + x.freq
  if x.stopEnd.isSome then 0 else if x.stretch then full - free % (full / 3 + 1) else full

/-- The clusters of the wafer. -/
def clusterList : List Nat := List.range (Config.reticles * 10)

/-- Every cluster's clock goes on for a nanosecond; the aclks that begin are to be carried out. -/
def runClocks (s : State) : State × List Todo :=
  clusterList.foldl (fun (acc : State × List Todo) cl =>
    let x := clusterAt acc.1 cl
    let f := if x.stretch then freeValue acc.1 else (0#64, acc.1)
    let p := x.phase + clockGain x f.1.toNat
    (putCluster f.2 cl { x with phase := p % 20 }, acc.2 ++ List.replicate (p / 20) (.aclk cl))) (s, [])

/-- The cores of a cluster with teams on them. -/
def busyCores (s : State) (cl : Nat) : List Nat := (clusterCores cl).filter fun c => s.teams.any fun t => onCore t.2 c

/-- The latches of a cluster's teams that hold MMAs. -/
def latchEvents (s : State) (cl : Nat) : List Todo :=
  ((clusterTeams s cl).filter fun t => t.2.latch ≠ []).map fun t => .event (.gangLatchOpen t.1)

/-- The binds and packet holds of a cluster's ports that may end (R69, R72). -/
def holdEvents (s : State) (c p : Nat) : List Todo :=
  let x := portAt s c p
  (if x.bound.isSome then [.event (.bindLapse c p)] else []) ++ (if x.hold.isSome then [.event (.packetHoldEnd c p)] else [])

/-- An aclk of a cluster begins: its scheduler serves the claimants, latches open, and each port of each of its cores has one issue
opportunity; the order of the two ports alternates (R69, R287, log 2). -/
def beginAclk (s : State) (cl : Nat) : State :=
  let x := clusterAt s cl
  let s := putCluster s cl { x with aclk := x.aclk + 1 }
  let cores := busyCores s cl
  let s := cores.foldl (fun s c =>
    let k := coreAt s c
    putCore s c { k with ports := k.ports.map fun p => { p with picked := none } }) s
  let order := if x.aclk % 2 = 1 then [0, 1] else [1, 0]
  let ports := cores.flatMap fun c => order.flatMap fun p => holdEvents s c p ++ [.port c p]
  if cores = [] then s
  else { s with agenda := .event (.tokenGrant cl) :: latchEvents s cl ++ ports ++ s.agenda }

/-- Each region's clock slews by at most 1 ns in 5,000 toward its aim (R313, log 3). -/
def slew (s : State) : State :=
  if s.time % 5000 ≠ 0 then s
  else { s with regionOff := (List.range 12).map fun r =>
    let x := s.regionOff.getD r 0
    let a := s.regionAim.getD r 0
    if x < a then x + 1 else if a < x then x - 1 else x }

/-- The warp time of a nanosecond, by context (R296). -/
def reside (s : State) : State :=
  s.teams.foldl (fun s t =>
    if t.2.status ≠ .resident then s
    else
      let r := reticleOf t.2.core
      let n := ((teamWarps t.1 t.2).filter fun k => !(warpAt s k).exited).length
      let x := reticleAt s r
      putReticle s r { x with resided := aset 0 x.resided t.2.ctx (aget 0 x.resided t.2.ctx + n) }) s

/-! ### The watchdog -/

/-- An access or sequence request that only waits in the fault queue. -/
def heldInQueue (s : State) (id : Nat) : Bool :=
  (match accAt s id with
    | some a => a.lanes.all fun l => !l.live || l.wait
    | none => false)
  || s.squ.any fun r => r.id = id && squWaits s r

/-- A run that waits only on accesses in the fault queue: its fetch, the access that holds it, or the flags of its next packet
(R398, Table 23-1). -/
def runInQueue (s : State) (k : Nat) (e : PcEntry) : Bool :=
  let w := warpAt s k
  match (holdsOf w).filter fun h => h.2 &&& e.mask ≠ 0#64 with
  | h :: hs => (h :: hs).all fun h => heldInQueue s h.1
  | [] =>
    if w.walkBad.any (fun b => b.1 = pageOf (pktOf e.pc) && b.2.1 = 0x30 && bit b.2.2 8 = false)
        || w.walks.any (fun r => r.waits && r.exec) then true
    else
      match fetchPacket s k e with
      | .bytes bs =>
        let need := leVal (bs.take 4) % 4096
        slotOf e.pc = 0 && (List.range 12).any fun f =>
          need / 2 ^ f % 2 = 1 &&
            (let mine := (accsOf s k).filter fun a => a.flag = some f
             mine ≠ [] && mine.all fun a => a.lanes.all fun l => !l.live || l.wait)
      | _ => false

/-- A warp counts for its grid's watchdog at this instant (Table 23-1). -/
def warpCounts (s : State) (t : Team) (k : Nat) : Bool :=
  let w := warpAt s k
  let c := ctxAt s t.ctx
  if t.status = .saving then true
  else if t.status ≠ .resident || w.exited || (c.halted && c.stepping.isNone)
      || (clusterAt s (clusterOf t.core)).stopEnd.isSome then false
  else if w.handler.isSome then true
  else
    let runs := (runsOf w).filter fun e => e.park.isNone
    runs ≠ [] && !(runs.all fun e => runInQueue s k e)

/-- At each whole microsecond the watchdog of every grid that counts advances (R412). -/
def watchTick (s : State) : State :=
  if s.time % 1000 ≠ 0 then s
  else
    let hits := (s.teams.filter fun t => (teamWarps t.1 t.2).any fun k => warpCounts s t.2 k).map fun t => (t.2.ctx, t.2.grid)
    { s with ctxs := s.ctxs.map fun c =>
        (c.1, { c.2 with grids := c.2.grids.map fun g => if hits.contains (c.1, g.entry) then { g with dog := g.dog + 1 } else g }) }

/-- At each whole microsecond the contexts that were faulted before it, and whose teams have left their cores, have their shed headers and
records written (R352, R415). -/
def endFaults (s : State) : State :=
  if s.time % 1000 ≠ 0 then s else ((s.ctxs.filter fun c => c.2.faultRec.isSome).map (·.1)).foldl finishCtxFault s

/-! ### Events that are due -/

/-- Accesses: those that can be served, and those whose values return. -/
def accEvents (s : State) : List Todo :=
  (s.accs.map (·.2)).flatMap fun a =>
    (if accReady s a then [.event (if asLoad a.kind then .loadServe a.id else .storePerform a.id)] else [])
      ++ (if a.lanes.any fun l => l.live && l.done then [.event (.loadDataReturn a.id)] else [])

/-- What a warp waits for that may have come: walks, faults, sleeps, time slots, cold text, and the end of its region. -/
def warpEvents (s : State) (k : Nat) (w : Warp) : List Todo :=
  let parks := (w.pcs ++ runsOf w).filterMap (·.park)
  let fetch := match chosenRun (runsOf w) with
    | some e => if w.exited then none else coldPiece s k (pktOf e.pc)
    | none => none
  let cold := fetch.toList ++ w.coldFor.toList.filter fun p => !(ctxAt s (warpCtx s k)).cold.contains p
  List.flatten
    [ (if w.walks.any (fun r => !r.waits) then [.event (.pageWalk k)] else [])
    , (if parks.any (fun p => match p with | .sleep _ => true | _ => false) then [.event (.sleepWake k)] else [])
    , (if parks.any (fun p => match p with | .tsync _ => true | _ => false) then [.event (.tsyncWake k)] else [])
    , cold.map (fun p => .event (.coldTextLoad (warpCtx s k) p none))
    , (if w.tx.isSome then (if commitReady s k then [.event (.leaseTimeout k), .event (.commitLeasesHeld k)] else []) else [])
    , (if w.detected ≠ [] then [.event (.faultTake k)] else []) ]

/-- The head of a core's matrix queue. -/
def matrixEvents (core : Nat) (c : Core) : List Todo :=
  match c.queue with
  | [] => []
  | x :: _ =>
    match x.work with
    | .mma _ _ _ _ => [.event (.matrixMmaGroup core)]
    | .aclr _ => [.event (.matrixAclrExecute core)]
    | .drain _ _ _ => [.event (.matrixDrainExecute core)]

/-- A request of the engine at its present state. -/
def reqEvent (core : Nat) (r : Req) : Todo :=
  match r.state with
  | 0 => .event (.rqRequestStart core r.id)
  | 1 => .event (.tileRequestAccept core r.id)
  | _ => if reqKind r = 7 then .event (.chunkMove core r.id) else .event (.rqRequestComplete core r.id)

/-- The work of a core's units. -/
def coreEvents (s : State) (core : Nat) (c : Core) : List Todo :=
  let stale := fun t : Nat => decide (t + 1000000 ≤ s.time)
  List.flatten
    [ matrixEvents core c
    , c.chains.map (fun x => .event (.chainUnit core x.id))
    , c.reqs.map (reqEvent core)
    , c.delivs.map (fun d => .event (.multicastDelivery core d.id))
    , (c.delivs.filter fun d => !d.told && d.since + 10000000 ≤ s.time).map (fun d => .event (.mcWaiting core d.id))
    , (if c.allocs = [] then [] else [.event (.rallocGrant core), .event (.emergencyGrant core)])
    , (if c.chains.any fun x => stale x.since then [.event (.engineNoProgress core true)] else [])
    , (if c.reqs.any fun r => r.state = 2 && stale r.since then [.event (.engineNoProgress core false)] else []) ]

/-- The cores of a context's share with room for a team of a grid. -/
def coresFor (s : State) (c : Ctx) (g : Grid) : List Nat :=
  (List.range (Config.reticles * Config.coresPerReticle)).filter fun k => inShare s c k && fitsTeam s k g.record

/-- A grid of a context: its dependences, its start, its teams, and its end. -/
def gridEvents (s : State) (cn : Nat) (c : Ctx) (g : Grid) : List Todo :=
  let src := 32 + g.entry
  if !g.started then
    ((List.range 2).filter fun d => !g.deps.getD d true).map (fun d => .event (.dependenceReread cn src d))
      ++ [.event (.gridDispatchStart cn src)]
  else if hasTeams g then
    ((coresFor s c g).take (recTeams g.record - g.next)).map (fun k => .event (.teamPlace cn g.entry k))
      ++ (if g.parent.isSome then [.event (.childResidencyPreempt cn g.entry)] else [])
  else if gridOver g then [.event (.gridRetire cn g.entry)] else []

/-- A queue of a context: its next record, and its first pending one. -/
def queueEvents (cn q : Nat) (x : Queue) : List Todo :=
  (if x.enable && !x.stopped && x.read < x.write then [.event (.queueRecordCopy cn q)] else [])
    ++ (if x.pending = [] then []
        else [.event (.dependenceReread cn q 0), .event (.dependenceReread cn q 1), .event (.gridDispatchStart cn q)])

/-- The reticle of an access of a context that an invalidation waits for. -/
def slowReticle (s : State) (cn : Nat) : Nat :=
  match (s.accs.map (·.2)).find? fun a => warpCtx s a.warp = cn with
  | some a => reticleOf (teamAt s (warpAt s a.warp).team).core
  | none => 0

/-- A context's dispatch, limits, invalidation and debug step. -/
def ctxEvents (s : State) (cn : Nat) (c : Ctx) : List Todo :=
  List.flatten
    [ (if dispatchable s c then
        c.queues.flatMap (fun q => queueEvents cn q.1 q.2) ++ (c.grids.filter fun g => !g.retired).flatMap (gridEvents s cn c)
    else [])
    , (if c.faulted.isNone && c.wdlimit ≠ 0 && s.time % 1000 = 0 then
            (c.grids.filter fun g => c.wdlimit ≤ g.dog).map fun g => .event (.watchdogExpiry cn g.entry) else [])
    , (if s.fqueue.any fun p => p.ctx = cn && c.fslimit * 1000 < s.time - p.since then [.event (.faultServiceLimit cn)] else [])
    , (if c.invBusy then .event (.invalidationComplete cn) ::
            (if c.invAt + 1000000 ≤ s.time then [.event (.invTimeout cn (slowReticle s cn))] else []) else [])
    , (if c.stepping.isSome then [.event (.dbgStepEnd cn)] else []) ]

/-- The core on which a saved team returns: the one that firmware moves it to, else the first that meets R308. -/
def restoreCore (s : State) (t : Nat) (x : Team) : Option Nat :=
  if 2 ≤ x.reason && fitsImage s (x.reason - 2) t then some (x.reason - 2)
  else (List.range (Config.reticles * Config.coresPerReticle)).find? fun k => fitsImage s k t

/-- A team: its stop, its save, its return, its first issue, and its end. -/
def teamEvents (s : State) (t : Nat) (x : Team) : List Todo :=
  let c := ctxAt s x.ctx
  let out := c.faulted.isSome || c.inSwitch
  match x.status with
  | .resident => if out then [.event (.preemptRequest t)] else []
  | .restoring => if out then [.event (.preemptRequest t)] else [.event (.restoreFirstIssue t)]
  | .saving => [.event (.teamSaveWrite t)]
  | .saved =>
    if restorable s t && x.reason ≠ 1 then
      (match restoreCore s t x with
      | some k => [.event (.teamRestore t k)]
      | none => [])
    else []
  | .exited | .released => [.event (.teamRelease t)]

/-- A line: the ends of its move and of its invalidations, and its deferred replicas. -/
def lineEvents (s : State) (l : Nat) (x : Line) : List Todo :=
  List.flatten
    [ (if x.state = .moving && x.since < s.time then [.event (.migrationAck l)] else [])
    , (if x.since < s.time then x.acks.map (fun r => .event (.invalidationAck l r)) else [])
    , (if x.since + 100000 ≤ s.time then x.acks.map (fun r => .event (.collapseTimeout l r)) else [])
    , (if x.state = .moving || x.state = .collapsing then [] else x.defer.map fun r => .event (.replicaPlace l r)) ]

/-- Slices that close, and units that are being reset. -/
def unitEvents (s : State) : List Todo :=
  List.flatten
    [ s.closing.flatMap (fun c => if c.2.2 = resetMark then [] else
        .event (.sliceEvacuation c.1) :: (if c.2.1 + 50000000 ≤ s.time then [.event (.evacuationTimeout c.1)] else []))
    , s.resetting.map (fun x => if x.1 < 2 ^ 20 then .event (.reticleReset x.1 x.2) else .event (.coreReset (x.1 - 2 ^ 21) x.2)) ]

/-- The ring, the tokens and the clocks of a reticle (R285, R286). -/
def powerEvents (s : State) : List Todo :=
  let at_ := s.time % lapNs
  List.flatten
    [ (if at_ = 0 then
        (List.range Config.reticles).map (fun r => .event (.ringLap r false)) ++ clusterList.map (fun c => .event (.tokenEvaporation c))
      else if at_ % 2 = 0 then (List.range Config.reticles).map (fun r => .event (.ringStationVisit r (at_ / 2 - 1))) else [])
    , (s.retics.filter fun r => match r.2.belowAt with | some t => decide (t + 1000000 ≤ s.time) | none => false).map
          (fun r => .event (.throttled r.1))
    , (s.clusters.filter fun c => match c.2.stopEnd with | some t => decide (t ≤ s.time) | none => false).map
          (fun c => .event (.stepRelockTimeout c.1)) ]

/-- What the device as a whole has to do. -/
def deviceEvents (s : State) : List Todo :=
  List.flatten
    [ (if s.time % s.yardWin = 0 then [.event (.yardmasterWindow)] else [])
    , (if s.fqWait ≠ [] && s.fqueue.length < fqueueSize then [.event .faultQueueAdmit] else [])
    , (s.folds.filter fun f => f.last + 1000000 ≤ s.time).map (fun f => .event (.recordFoldExpiry f.engine f.cause))
    , (if s.logLost = 0 then [] else [.event .logWrap])
    , (s.watches.filter fun w => match w.poll with | some t => decide (t ≤ s.time) | none => false).map (fun w => .event (.watchReread w.id))
    , s.squ.flatMap (fun r => .event (.squServeRequest r.id) ::
          (if !r.told && r.since + 10000000 ≤ s.time then [.event (.squTimeout r.id)] else []))
    , (s.remotes.filter fun r => r.since + 1000000 ≤ s.time).map (fun r => .event (.ylRequestTimeout r.tag))
    , (match s.routing.staged, s.routing.accepted with
          | some _, some _ => [.event .routingCommit]
          | some _, none => [.event .routingVerdictTimeout]
          | none, _ => [])
    , (if s.routing.oldGen.isSome then [.event .routingOldDrain] else [])
    , (if (s.treeDirty || s.treePhase ≠ 0) && s.dtbytes ≠ 0 then [.event .defectTreeUpdate] else [])
    , (if s.dtDue.isSome && s.dtbytes ≠ 0 then [.event .defectTreeHostCopy] else []) ]

/-- Everything that is due at this instant, in the model's order (log 2); each event checks its own condition again. -/
def dueEvents (s : State) : List Todo :=
  List.flatten
    [ powerEvents s ++ deviceEvents s ++ accEvents s ++ s.warps.flatMap (fun w => warpEvents s w.1 w.2)
    , s.cores.flatMap (fun c => coreEvents s c.1 c.2) ++ s.ctxs.flatMap (fun c => ctxEvents s c.1 c.2)
    , s.teams.flatMap (fun t => teamEvents s t.1 t.2) ++ s.lines.flatMap (fun l => lineEvents s l.1 l.2) ++ unitEvents s ]

/-- A nanosecond passes: the clocks go on, inputs from outside whose time has come are taken, and the due events and the aclks that
begin are to be carried out (R89, R293, logs 2, 3, 14). -/
def tick (s : State) : State :=
  let s := endFaults (reside (watchTick (slew { s with time := s.time + 1 })))
  let c := runClocks s
  let s := c.1
  let inputs := (s.inbox.takeWhile fun x => x.1 ≤ s.time).map fun x => Todo.event x.2
  { s with inbox := s.inbox.dropWhile (fun x => x.1 ≤ s.time), agenda := inputs ++ dueEvents s ++ c.2 }

/-- The virtual address at which withFetchWord stores an instruction's packet. -/
def loadVa : Word := 0#64

/-- A program loaded from outside the machine (log 25): a team of one warp on core 0, its code page mapped with X = 1, and the
words of one instruction in slots 0 and 1 of a packet whose control word is 0. -/
def loadWord (s : State) (nbits w : Nat) : State :=
  let v := w % 2 ^ nbits
  let leaf : Word := 0x1001F#64
  let bytes := bytesOf 4 0 ++ bytesOf 4 v ++ bytesOf 4 (v / 2 ^ 32) ++ bytesOf 4 0
  let wp : Warp :=
    { lanes := BitVec.allOnes 64, standing := true, blocks := 15, launched := 15, ql := List.replicate 8 {}
      pcs := [{ pc := slotPc loadVa 0, mask := BitVec.allOnes 64 }] }
  { s with
    mem := memWrite s.mem 0x10000 bytes
    tlb := { unit := coreTlb 0, ctx := 0, page := pageOf loadVa, leaf := leaf } :: s.tlb
    ctxs := aput s.ctxs 0 { enabled := true, resident := true }
    teams := aput s.teams 0 {}
    warps := aput s.warps 0 wp
    cores := aput s.cores 0 { free := 237 }
    clusters := aput s.clusters 0 {}
    agenda := [.port 0 0] }

end Sys2Proof.Machine
end

