-- ==== Sys2Proof/Machine/Dispatch.lean ====
section
/-!
DEFINITION. One arm for every constructor of Instr: a direct call of its meaning.
-/
namespace Sys2Proof.Machine
open Sys2Proof

/-- What an instruction or event does. -/
def exec (i : Instr) (s : State) : Host.Outcome State Fault Refusal :=
  match i with
  | .vadd ty o => Sys2Proof.Machine.execVadd ty o s
  | .vsub ty o => Sys2Proof.Machine.execVsub ty o s
  | .vmul ty o => Sys2Proof.Machine.execVmul ty o s
  | .vmulh ty o => Sys2Proof.Machine.execVmulh ty o s
  | .vmad ty o => Sys2Proof.Machine.execVmad ty o s
  | .vmin ty o => Sys2Proof.Machine.execVmin ty o s
  | .vmax ty o => Sys2Proof.Machine.execVmax ty o s
  | .vabs ty o => Sys2Proof.Machine.execVabs ty o s
  | .vand ty o => Sys2Proof.Machine.execVand ty o s
  | .vor ty o => Sys2Proof.Machine.execVor ty o s
  | .vxor ty o => Sys2Proof.Machine.execVxor ty o s
  | .vnot ty o => Sys2Proof.Machine.execVnot ty o s
  | .vshl ty o => Sys2Proof.Machine.execVshl ty o s
  | .vshr ty o => Sys2Proof.Machine.execVshr ty o s
  | .vbfx ty o => Sys2Proof.Machine.execVbfx ty o s
  | .vbfi ty o => Sys2Proof.Machine.execVbfi ty o s
  | .vclz ty o => Sys2Proof.Machine.execVclz ty o s
  | .vpopc ty o => Sys2Proof.Machine.execVpopc ty o s
  | .vmov o => Sys2Proof.Machine.execVmov o s
  | .vmovImm o => Sys2Proof.Machine.execVmovImm o s
  | .vmovh o => Sys2Proof.Machine.execVmovh o s
  | .vsel o => Sys2Proof.Machine.execVsel o s
  | .vcmp cond o => Sys2Proof.Machine.execVcmp cond o s
  | .fcmp cond o => Sys2Proof.Machine.execFcmp cond o s
  | .pand o => Sys2Proof.Machine.execPand o s
  | .por o => Sys2Proof.Machine.execPor o s
  | .pxor o => Sys2Proof.Machine.execPxor o s
  | .pmov o => Sys2Proof.Machine.execPmov o s
  | .fadd ty o => Sys2Proof.Machine.execFadd ty o s
  | .fsub ty o => Sys2Proof.Machine.execFsub ty o s
  | .fmul ty o => Sys2Proof.Machine.execFmul ty o s
  | .ffma ty o => Sys2Proof.Machine.execFfma ty o s
  | .fmin ty o => Sys2Proof.Machine.execFmin ty o s
  | .fmax ty o => Sys2Proof.Machine.execFmax ty o s
  | .fneg ty o => Sys2Proof.Machine.execFneg ty o s
  | .fabs ty o => Sys2Proof.Machine.execFabs ty o s
  | .vrcp o => Sys2Proof.Machine.execVrcp o s
  | .vrsq o => Sys2Proof.Machine.execVrsq o s
  | .vsqrt o => Sys2Proof.Machine.execVsqrt o s
  | .vexp2 o => Sys2Proof.Machine.execVexp2 o s
  | .vlog2 o => Sys2Proof.Machine.execVlog2 o s
  | .vsin o => Sys2Proof.Machine.execVsin o s
  | .vcos o => Sys2Proof.Machine.execVcos o s
  | .vtanh o => Sys2Proof.Machine.execVtanh o s
  | .smxStep o => Sys2Proof.Machine.execSmxStep o s
  | .cvt o => Sys2Proof.Machine.execCvt o s
  | .qntDiv o => Sys2Proof.Machine.execQntDiv o s
  | .qntMul o => Sys2Proof.Machine.execQntMul o s
  | .pack w o => Sys2Proof.Machine.execPack w o s
  | .unpk w o => Sys2Proof.Machine.execUnpk w o s
  | .dot toI32 o => Sys2Proof.Machine.execDot toI32 o s
  | .xrd k o => Sys2Proof.Machine.execXrd k o s
  | .xred op o => Sys2Proof.Machine.execXred op o s
  | .voteAny o => Sys2Proof.Machine.execVoteAny o s
  | .voteAll o => Sys2Proof.Machine.execVoteAll o s
  | .voteBallot o => Sys2Proof.Machine.execVoteBallot o s
  | .vsrd d num ext => Sys2Proof.Machine.execVsrd d num ext s
  | .vget d g hi ext => Sys2Proof.Machine.execVget d g hi ext s
  | .rep cnt ds sa sb sc => Sys2Proof.Machine.execRep cnt ds sa sb sc s
  | .br neg pn off => Sys2Proof.Machine.execBr neg pn off s
  | .ld sz o => Sys2Proof.Machine.execLd sz o s
  | .st sz o => Sys2Proof.Machine.execSt sz o s
  | .ldg words o => Sys2Proof.Machine.execLdg words o s
  | .stg words o => Sys2Proof.Machine.execStg words o s
  | .lds sz o => Sys2Proof.Machine.execLds sz o s
  | .atom op ty o => Sys2Proof.Machine.execAtom op ty o s
  | .red op ty o => Sys2Proof.Machine.execRed op ty o s
  | .waitadd ty o => Sys2Proof.Machine.execWaitadd ty o s
  | .waitw cond ty o => Sys2Proof.Machine.execWaitw cond ty o s
  | .cctlUnpin o => Sys2Proof.Machine.execCctlUnpin o s
  | .cctlPin o => Sys2Proof.Machine.execCctlPin o s
  | .cctlEvict o => Sys2Proof.Machine.execCctlEvict o s
  | .cctlPrefetch o => Sys2Proof.Machine.execCctlPrefetch o s
  | .mbarInit o => Sys2Proof.Machine.execMbarInit o s
  | .mbarExp o => Sys2Proof.Machine.execMbarExp o s
  | .mbarWait o => Sys2Proof.Machine.execMbarWait o s
  | .mbarArv o => Sys2Proof.Machine.execMbarArv o s
  | .bar k => Sys2Proof.Machine.execBar k s
  | .barArv k => Sys2Proof.Machine.execBarArv k s
  | .barCnt k b => Sys2Proof.Machine.execBarCnt k b s
  | .fenceAcq scope => Sys2Proof.Machine.execFenceAcq scope s
  | .fenceRel scope => Sys2Proof.Machine.execFenceRel scope s
  | .fenceAr scope => Sys2Proof.Machine.execFenceAr scope s
  | .fenceFull scope => Sys2Proof.Machine.execFenceFull scope s
  | .tryL ww off => Sys2Proof.Machine.execTryL ww off s
  | .tryG tt ww off => Sys2Proof.Machine.execTryG tt ww off s
  | .commitL scope => Sys2Proof.Machine.execCommitL scope s
  | .commitG scope => Sys2Proof.Machine.execCommitG scope s
  | .abort imm => Sys2Proof.Machine.execAbort imm s
  | .tstat d => Sys2Proof.Machine.execTstat d s
  | .tbufRead d a => Sys2Proof.Machine.execTbufRead d a s
  | .seqRes o => Sys2Proof.Machine.execSeqRes o s
  | .seqCmt o => Sys2Proof.Machine.execSeqCmt o s
  | .mma o => Sys2Proof.Machine.execMma o s
  | .aclr acc => Sys2Proof.Machine.execAclr acc s
  | .drain o => Sys2Proof.Machine.execDrain o s
  | .chain o => Sys2Proof.Machine.execChain o s
  | .uadd ty o => Sys2Proof.Machine.execUadd ty o s
  | .usub ty o => Sys2Proof.Machine.execUsub ty o s
  | .umul ty o => Sys2Proof.Machine.execUmul ty o s
  | .umulh ty o => Sys2Proof.Machine.execUmulh ty o s
  | .udiv ty o => Sys2Proof.Machine.execUdiv ty o s
  | .urem ty o => Sys2Proof.Machine.execUrem ty o s
  | .umin ty o => Sys2Proof.Machine.execUmin ty o s
  | .umax ty o => Sys2Proof.Machine.execUmax ty o s
  | .uand ty o => Sys2Proof.Machine.execUand ty o s
  | .uor ty o => Sys2Proof.Machine.execUor ty o s
  | .uxor ty o => Sys2Proof.Machine.execUxor ty o s
  | .uandn ty o => Sys2Proof.Machine.execUandn ty o s
  | .unot ty o => Sys2Proof.Machine.execUnot ty o s
  | .uclz ty o => Sys2Proof.Machine.execUclz ty o s
  | .upopc ty o => Sys2Proof.Machine.execUpopc ty o s
  | .ushl ty o => Sys2Proof.Machine.execUshl ty o s
  | .ushr ty o => Sys2Proof.Machine.execUshr ty o s
  | .usar ty o => Sys2Proof.Machine.execUsar ty o s
  | .urot ty o => Sys2Proof.Machine.execUrot ty o s
  | .ubfx ty o => Sys2Proof.Machine.execUbfx ty o s
  | .ubfi ty o => Sys2Proof.Machine.execUbfi ty o s
  | .umov o => Sys2Proof.Machine.execUmov o s
  | .umovi ty o => Sys2Proof.Machine.execUmovi ty o s
  | .umovk o => Sys2Proof.Machine.execUmovk o s
  | .usel o => Sys2Proof.Machine.execUsel o s
  | .uadr o => Sys2Proof.Machine.execUadr o s
  | .ucmp cond ty o => Sys2Proof.Machine.execUcmp cond ty o s
  | .qand d a b q => Sys2Proof.Machine.execQand d a b q s
  | .qor d a b q => Sys2Proof.Machine.execQor d a b q s
  | .qxor d a b q => Sys2Proof.Machine.execQxor d a b q s
  | .qmov d a b q => Sys2Proof.Machine.execQmov d a b q s
  | .qany d a b q => Sys2Proof.Machine.execQany d a b q s
  | .qall d a b q => Sys2Proof.Machine.execQall d a b q s
  | .qset d a b q => Sys2Proof.Machine.execQset d a b q s
  | .uld sz d a x => Sys2Proof.Machine.execUld sz d a x s
  | .ust sz d a x => Sys2Proof.Machine.execUst sz d a x s
  | .bra off q => Sys2Proof.Machine.execBra off q s
  | .call off q => Sys2Proof.Machine.execCall off q s
  | .ret a q => Sys2Proof.Machine.execRet a q s
  | .brx a x => Sys2Proof.Machine.execBrx a x s
  | .loop c off q => Sys2Proof.Machine.execLoop c off q s
  | .pad label => Sys2Proof.Machine.execPad label s
  | .exit q => Sys2Proof.Machine.execExit q s
  | .nop q => Sys2Proof.Machine.execNop q s
  | .srd d num q => Sys2Proof.Machine.execSrd d num q s
  | .swr a num q => Sys2Proof.Machine.execSwr a num q s
  | .ugetl d v lane q => Sys2Proof.Machine.execUgetl d v lane q s
  | .ralloc n q => Sys2Proof.Machine.execRalloc n q s
  | .rfree n q => Sys2Proof.Machine.execRfree n q s
  | .gang a q => Sys2Proof.Machine.execGang a q s
  | .launch d a q => Sys2Proof.Machine.execLaunch d a q s
  | .tsync q => Sys2Proof.Machine.execTsync q s
  | .yield q => Sys2Proof.Machine.execYield q s
  | .sleep ns q => Sys2Proof.Machine.execSleep ns q s
  | .trap imm q => Sys2Proof.Machine.execTrap imm q s
  | .eret => Sys2Proof.Machine.execEret s
  | .tileAlloc d a b q => Sys2Proof.Machine.execTileAlloc d a b q s
  | .tileFind d a q => Sys2Proof.Machine.execTileFind d a q s
  | .tileInv d a q => Sys2Proof.Machine.execTileInv d a q s
  | .tileRel d a q => Sys2Proof.Machine.execTileRel d a q s
  | .tileStat d a q => Sys2Proof.Machine.execTileStat d a q s
  | .rqKick a b q => Sys2Proof.Machine.execRqKick a b q s
  | .seqBind d a x => Sys2Proof.Machine.execSeqBind d a x s
  | .seqLen d a x => Sys2Proof.Machine.execSeqLen d a x s
  | .seqFork d a b x => Sys2Proof.Machine.execSeqFork d a b x s
  | .seqDrop d a x => Sys2Proof.Machine.execSeqDrop d a x s
  | .breakpointHit warp bp => Sys2Proof.Machine.execBreakpointHit warp bp s
  | .loadDataReturn acc => Sys2Proof.Machine.execLoadDataReturn acc s
  | .loadServe acc => Sys2Proof.Machine.execLoadServe acc s
  | .storePerform acc => Sys2Proof.Machine.execStorePerform acc s
  | .watchReread watch => Sys2Proof.Machine.execWatchReread watch s
  | .sleepWake warp => Sys2Proof.Machine.execSleepWake warp s
  | .tsyncWake warp => Sys2Proof.Machine.execTsyncWake warp s
  | .bindLapse core port => Sys2Proof.Machine.execBindLapse core port s
  | .packetHoldEnd core port => Sys2Proof.Machine.execPacketHoldEnd core port s
  | .gangLatchOpen team => Sys2Proof.Machine.execGangLatchOpen team s
  | .matrixMmaGroup core => Sys2Proof.Machine.execMatrixMmaGroup core s
  | .matrixAclrExecute core => Sys2Proof.Machine.execMatrixAclrExecute core s
  | .matrixDrainExecute core => Sys2Proof.Machine.execMatrixDrainExecute core s
  | .chainUnit core chain => Sys2Proof.Machine.execChainUnit core chain s
  | .tileRequestAccept core req => Sys2Proof.Machine.execTileRequestAccept core req s
  | .rqRequestStart core req => Sys2Proof.Machine.execRqRequestStart core req s
  | .rqRequestComplete core req => Sys2Proof.Machine.execRqRequestComplete core req s
  | .multicastDelivery core deliv => Sys2Proof.Machine.execMulticastDelivery core deliv s
  | .chunkMove core req => Sys2Proof.Machine.execChunkMove core req s
  | .squServeRequest req => Sys2Proof.Machine.execSquServeRequest req s
  | .leaseTimeout warp => Sys2Proof.Machine.execLeaseTimeout warp s
  | .commitLeasesHeld warp => Sys2Proof.Machine.execCommitLeasesHeld warp s
  | .rallocGrant core => Sys2Proof.Machine.execRallocGrant core s
  | .emergencyGrant core => Sys2Proof.Machine.execEmergencyGrant core s
  | .queueRecordCopy ctx queue => Sys2Proof.Machine.execQueueRecordCopy ctx queue s
  | .gridDispatchStart ctx src => Sys2Proof.Machine.execGridDispatchStart ctx src s
  | .dependenceReread ctx src dep => Sys2Proof.Machine.execDependenceReread ctx src dep s
  | .teamPlace ctx grid core => Sys2Proof.Machine.execTeamPlace ctx grid core s
  | .childResidencyPreempt ctx grid => Sys2Proof.Machine.execChildResidencyPreempt ctx grid s
  | .teamRelease team => Sys2Proof.Machine.execTeamRelease team s
  | .drainedReport core ctx grid seq => Sys2Proof.Machine.execDrainedReport core ctx grid seq s
  | .gridRetire ctx grid => Sys2Proof.Machine.execGridRetire ctx grid s
  | .tokenGrant cluster => Sys2Proof.Machine.execTokenGrant cluster s
  | .ringLap reticle corrupt => Sys2Proof.Machine.execRingLap reticle corrupt s
  | .ringStationVisit reticle station => Sys2Proof.Machine.execRingStationVisit reticle station s
  | .tokenEvaporation cluster => Sys2Proof.Machine.execTokenEvaporation cluster s
  | .stepRelockTimeout cluster => Sys2Proof.Machine.execStepRelockTimeout cluster s
  | .throttled reticle => Sys2Proof.Machine.execThrottled reticle s
  | .preemptRequest team => Sys2Proof.Machine.execPreemptRequest team s
  | .teamSaveWrite team => Sys2Proof.Machine.execTeamSaveWrite team s
  | .teamRestore team core => Sys2Proof.Machine.execTeamRestore team core s
  | .restoreFirstIssue team => Sys2Proof.Machine.execRestoreFirstIssue team s
  | .reembed moves => Sys2Proof.Machine.execReembed moves s
  | .defectTreeUpdate => Sys2Proof.Machine.execDefectTreeUpdate s
  | .defectTreeHostCopy => Sys2Proof.Machine.execDefectTreeHostCopy s
  | .lineFill line => Sys2Proof.Machine.execLineFill line s
  | .migrationAck line => Sys2Proof.Machine.execMigrationAck line s
  | .replicaPlace line reticle => Sys2Proof.Machine.execReplicaPlace line reticle s
  | .invalidationAck line reticle => Sys2Proof.Machine.execInvalidationAck line reticle s
  | .yardmasterWindow => Sys2Proof.Machine.execYardmasterWindow s
  | .pageWalk warp => Sys2Proof.Machine.execPageWalk warp s
  | .faultQueueAdmit => Sys2Proof.Machine.execFaultQueueAdmit s
  | .faultServiceLimit ctx => Sys2Proof.Machine.execFaultServiceLimit ctx s
  | .invalidationComplete ctx => Sys2Proof.Machine.execInvalidationComplete ctx s
  | .invTimeout ctx reticle => Sys2Proof.Machine.execInvTimeout ctx reticle s
  | .faultTake warp => Sys2Proof.Machine.execFaultTake warp s
  | .trapFrameFree warp => Sys2Proof.Machine.execTrapFrameFree warp s
  | .recordFoldExpiry engine cause => Sys2Proof.Machine.execRecordFoldExpiry engine cause s
  | .logWrap => Sys2Proof.Machine.execLogWrap s
  | .watchdogExpiry ctx grid => Sys2Proof.Machine.execWatchdogExpiry ctx grid s
  | .coldTextLoad ctx piece failed => Sys2Proof.Machine.execColdTextLoad ctx piece failed s
  | .engineNoProgress core chain => Sys2Proof.Machine.execEngineNoProgress core chain s
  | .mcWaiting core deliv => Sys2Proof.Machine.execMcWaiting core deliv s
  | .squTimeout req => Sys2Proof.Machine.execSquTimeout req s
  | .sliceEvacuation slice => Sys2Proof.Machine.execSliceEvacuation slice s
  | .evacuationTimeout slice => Sys2Proof.Machine.execEvacuationTimeout slice s
  | .collapseTimeout line reticle => Sys2Proof.Machine.execCollapseTimeout line reticle s
  | .ylRequestTimeout tag => Sys2Proof.Machine.execYlRequestTimeout tag s
  | .routingVerdictTimeout => Sys2Proof.Machine.execRoutingVerdictTimeout s
  | .routingCommit => Sys2Proof.Machine.execRoutingCommit s
  | .routingOldDrain => Sys2Proof.Machine.execRoutingOldDrain s
  | .attestationRequest => Sys2Proof.Machine.execAttestationRequest s
  | .reticleReset reticle cause => Sys2Proof.Machine.execReticleReset reticle cause s
  | .coreReset core cause => Sys2Proof.Machine.execCoreReset core cause s
  | .dbgStepEnd ctx => Sys2Proof.Machine.execDbgStepEnd ctx s
  | .redMerge acc into => Sys2Proof.Machine.execRedMerge acc into s
  | .doorbell ctx queue value => Sys2Proof.Machine.execDoorbell ctx queue value s
  | .queueSkip ctx queue value => Sys2Proof.Machine.execQueueSkip ctx queue value s
  | .queueEnable ctx queue value => Sys2Proof.Machine.execQueueEnable ctx queue value s
  | .pwcControlInterval reticle thermal current degC => Sys2Proof.Machine.execPwcControlInterval reticle thermal current degC s
  | .energyUpdate dynamic rest metered => Sys2Proof.Machine.execEnergyUpdate dynamic rest metered s
  | .frequencyStepChange cluster freq => Sys2Proof.Machine.execFrequencyStepChange cluster freq s
  | .droopStretch cluster => Sys2Proof.Machine.execDroopStretch cluster s
  | .boostGrant reticle ceiling => Sys2Proof.Machine.execBoostGrant reticle ceiling s
  | .hotspotMigration team core => Sys2Proof.Machine.execHotspotMigration team core s
  | .thermalShutdown reticle degC => Sys2Proof.Machine.execThermalShutdown reticle degC s
  | .railGap reticle mv => Sys2Proof.Machine.execRailGap reticle mv s
  | .powerLimit watts => Sys2Proof.Machine.execPowerLimit watts s
  | .contextSwitch ctx => Sys2Proof.Machine.execContextSwitch ctx s
  | .contextRestore ctx => Sys2Proof.Machine.execContextRestore ctx s
  | .timeExchange measured => Sys2Proof.Machine.execTimeExchange measured s
  | .dthostWrite addr => Sys2Proof.Machine.execDthostWrite addr s
  | .lineEvict line => Sys2Proof.Machine.execLineEvict line s
  | .placementMapChange slice leave => Sys2Proof.Machine.execPlacementMapChange slice leave s
  | .repgo ctx value => Sys2Proof.Machine.execRepgo ctx value s
  | .invgo ctx value => Sys2Proof.Machine.execInvgo ctx value s
  | .softErrorDetect structure_ corrected warp unit index lane => Sys2Proof.Machine.execSoftErrorDetect structure_ corrected warp unit index lane s
  | .l2Scrub slice line uncorrectable => Sys2Proof.Machine.execL2Scrub slice line uncorrectable s
  | .hbmPatrolScrub line => Sys2Proof.Machine.execHbmPatrolScrub line s
  | .sliceFailure slice => Sys2Proof.Machine.execSliceFailure slice s
  | .sliceSilent slice => Sys2Proof.Machine.execSliceSilent slice s
  | .dirRebuild line homes => Sys2Proof.Machine.execDirRebuild line homes s
  | .hbmRowRemap stack bank line => Sys2Proof.Machine.execHbmRowRemap stack bank line s
  | .hbmThermal stack degC trip => Sys2Proof.Machine.execHbmThermal stack degC trip s
  | .hbmStackFailure stack channel => Sys2Proof.Machine.execHbmStackFailure stack channel s
  | .routerFailure core moves detours saveable => Sys2Proof.Machine.execRouterFailure core moves detours saveable s
  | .stitchedLinkFailure reticle link => Sys2Proof.Machine.execStitchedLinkFailure reticle link s
  | .fabricStall core link => Sys2Proof.Machine.execFabricStall core link s
  | .ylFlitReceive port seq crcOk => Sys2Proof.Machine.execYlFlitReceive port seq crcOk s
  | .ylRequestArrival port src tag kind addr data op aty => Sys2Proof.Machine.execYlRequestArrival port src tag kind addr data op aty s
  | .ylCompletionArrival tag inDoubt error data => Sys2Proof.Machine.execYlCompletionArrival tag inDoubt error data s
  | .ylLinkDeath port => Sys2Proof.Machine.execYlLinkDeath port s
  | .hostWrite addr data => Sys2Proof.Machine.execHostWrite addr data s
  | .hostAtomicop addr op size operand swap => Sys2Proof.Machine.execHostAtomicop addr op size operand swap s
  | .cxlBackInvalidate line => Sys2Proof.Machine.execCxlBackInvalidate line s
  | .cxlSnoop line data => Sys2Proof.Machine.execCxlSnoop line data s
  | .hostLinkUp port cxl width => Sys2Proof.Machine.execHostLinkUp port cxl width s
  | .hostLinkDown port => Sys2Proof.Machine.execHostLinkDown port s
  | .deviceNumberAssign number routes => Sys2Proof.Machine.execDeviceNumberAssign number routes s
  | .routingUpdateStage gen sigOk crcOk routes => Sys2Proof.Machine.execRoutingUpdateStage gen sigOk crcOk routes s
  | .firmwareUpdate version authOk => Sys2Proof.Machine.execFirmwareUpdate version authOk s
  | .bringUp stage authOk identityOk => Sys2Proof.Machine.execBringUp stage authOk identityOk s
  | .deviceReset kind key => Sys2Proof.Machine.execDeviceReset kind key s
  | .functionLevelReset ctx => Sys2Proof.Machine.execFunctionLevelReset ctx s
  | .dbgHalt ctx => Sys2Proof.Machine.execDbgHalt ctx s
  | .dbgResume ctx => Sys2Proof.Machine.execDbgResume ctx s
  | .dbgStep ctx => Sys2Proof.Machine.execDbgStep ctx s
  | .dbgBack ctx => Sys2Proof.Machine.execDbgBack ctx s
  | .registerWrite page offset value => Sys2Proof.Machine.execRegisterWrite page offset value s
  | .droopRecovery cluster => Sys2Proof.Machine.execDroopRecovery cluster s
  | .fwException code => Sys2Proof.Machine.execFwException code s
  | .linkDegraded reticle link mask => Sys2Proof.Machine.execLinkDegraded reticle link mask s
  | .ylDegraded port lanes => Sys2Proof.Machine.execYlDegraded port lanes s
  | .poolPathDown port => Sys2Proof.Machine.execPoolPathDown port s
  | .hostPortError port kind status => Sys2Proof.Machine.execHostPortError port kind status s

end Sys2Proof.Machine
end

