-- ==== Sys2Proof/Machine/Step.lean ====
section
/-!
DEFINITION. One step of the machine (log 2): the next thing of this instant's agenda (an event, or an issue opportunity of a
port), else an input from outside that is due, else a nanosecond passes. And how a word is placed where the next step issues
it.
-/
namespace Sys2Proof.Machine
open Sys2Proof

/-- One step. -/
def step (s : State) : Host.Outcome State Fault Refusal :=
  match s.agenda with
  | .event i :: rest => exec i { s with agenda := rest }
  | .port core p :: rest => issuePort exec core p { s with agenda := rest }
  | .aclk cl :: rest => .next (markEarly exec (busyCores s cl) (beginAclk { s with agenda := rest } cl))
  | [] =>
    match s.inbox with
    | (t, i) :: rest => if t ≤ s.time then exec i { s with inbox := rest } else .next (tick s)
    | [] => .next (tick s)

/-- The state with an instruction's words stored where the next step fetches (log 25). -/
def State.withFetchWord (s : State) (nbits w : Nat) : State := loadWord s nbits w

end Sys2Proof.Machine
end

