-- ==== Sys2Proof/Safety.lean ====
section
/-!
DEFINITION. What the statements about the machine speak of: a memory in canonical form, an instruction that stages 1 to 3 let
through, the value of a register at an aclk, where a lane stands, and what a change leaves alone.
-/
namespace Sys2Proof.Machine
open Sys2Proof

/-! ### The issue of an instruction -/

/-- Stages 1 to 3 of Table 21-1 let the current instruction through: no reserved control field, no cause of stage 2, and nothing
that a handler or an open TRY region forbids. -/
def clear (s : State) (ban : Ban) (causes : List (Nat × Word)) : Bool :=
  (stage1 s).isEmpty && causes.isEmpty
    && (if s.cur.inHandler then !ban.inHandler else !ban.inTry || txLanes (me s) &&& s.cur.mask = 0#64)

/-- The issuing warp as the instruction reads it: every write due by its issue has taken place (R437). -/
def issuing (s : State) : Warp := settle (now s) (me s)

/-- v(r) of lane l as an instruction that issues at aclk t reads it (R437). -/
def vAt (w : Warp) (t r l : Nat) : W32 := vreg (settle t w) r l
/-- p(r) of lane l at aclk t (R437). -/
def pAt (w : Warp) (t r l : Nat) : Bool := bit (prow (settle t w) r) l
/-- g(r) at aclk t (R437). -/
def gAt (w : Warp) (t r : Nat) : Word := greg (settle t w) r
/-- q(r) at aclk t (R437). -/
def qAt (w : Warp) (t r : Nat) : Bool := qreg (settle t w) r

/-- The pending writes of a warp stand in the order of their times (R437): an invariant of the machine. -/
def pendOk (w : Warp) : Prop := w.pend.Pairwise fun a b => a.due ≤ b.due

/-! ### What an instruction writes -/

/-- A write changes lane l of v(r). -/
def hitsV (r l : Nat) : PWrite → Bool
  | .v q m _ => decide (q = r) && bit m l
  | _ => false
/-- A write changes lane l of p(r); a write to p0 changes nothing (R84). -/
def hitsP (r l : Nat) : PWrite → Bool
  | .p q m _ => decide (q = r) && decide (q ≠ 0) && bit m l
  | _ => false
/-- A write changes g(r). -/
def hitsG (r : Nat) : PWrite → Bool
  | .g q _ => decide (q = r)
  | _ => false
/-- A write changes q(r). -/
def hitsQ (r : Nat) : PWrite → Bool
  | .q q _ => decide (q = r)
  | _ => false

/-- At aclk t the register that a write names holds what it writes, in the lanes of its mask. -/
def landed (b : Warp) (t : Nat) : PWrite → Prop
  | .v r m row => ∀ l, l < 64 → bit m l = true → vAt b t r l = laneAt row l
  | .p r m x => r ≠ 0 → ∀ l, bit m l = true → pAt b t r l = bit x l
  | .g r x => gAt b t r = x
  | .q r x => r < 16 → qAt b t r = x

/-- Every register reads in b at aclk t as it does in a. -/
def sameAt (a b : Warp) (t : Nat) : Prop :=
  (∀ r l, l < 64 → vAt b t r l = vAt a t r l) ∧ (∀ r l, pAt b t r l = pAt a t r l) ∧ (∀ r, gAt b t r = gAt a t r)
    ∧ ∀ r, r < 16 → qAt b t r = qAt a t r

/-- From aclk t0 on, b reads as a with writes put in, each at its time (R437): before the first of them every register reads as it
did; at its own time each has taken place; and a register that none of them names reads as it did at every time. -/
def wrote (a b : Warp) (t0 : Nat) (xs : List Pend) : Prop :=
  (∀ t, t0 ≤ t → (∀ x ∈ xs, t < x.due) → sameAt a b t)
    ∧ (∀ x ∈ xs, landed b x.due x.w)
    ∧ (∀ t, t0 ≤ t →
        (∀ r l, l < 64 → (∀ x ∈ xs, hitsV r l x.w = false) → vAt b t r l = vAt a t r l)
        ∧ (∀ r l, (∀ x ∈ xs, hitsP r l x.w = false) → pAt b t r l = pAt a t r l)
        ∧ (∀ r, (∀ x ∈ xs, hitsG r x.w = false) → gAt b t r = gAt a t r)
        ∧ ∀ r, r < 16 → (∀ x ∈ xs, hitsQ r x.w = false) → qAt b t r = qAt a t r)

/-- Of two writes, the later does not hide the earlier at the time of the earlier. -/
def apart (x y : Pend) : Prop :=
  x.due < y.due ∨
    ((∀ r l, hitsV r l x.w = true → hitsV r l y.w = false) ∧ (∀ r l, hitsP r l x.w = true → hitsP r l y.w = false)
      ∧ (∀ r, hitsG r x.w = true → hitsG r y.w = false) ∧ ∀ r, hitsQ r x.w = true → hitsQ r y.w = false)

/-- Writes that all land at one aclk. -/
def landAt (t : Nat) (ws : List PWrite) : List Pend := ws.map fun w => ⟨t, w⟩

/-! ### The forms of instructions -/

/-- What iterations `first` to n - 1 of a REP leave that finds w: each issues one aclk after the one before it, and reads after those
before it have written (R172). -/
def repRun (s : State) (i : Instr) (x : LaneOp) (ds sa sb sc : BitVec 3) (first n : Nat) (act : Word) (w : Warp) : RepView :=
  ((List.range n).filter fun j => decide (first ≤ j)).foldl (fun v j =>
    repIter (now s + (j - first)) act 0#64 (repAt s i x ds sa sb sc j) v) ⟨w, []⟩

/-- n bytes that instruction fetch reads for the issuing warp at an address that its translation reaches, in text that is loaded and
sound (R156, R195, R325). -/
def codeBytes (s : State) (va : Word) (n : Nat) : Option (List Byte) :=
  match coldPiece s s.cur.warp va, translate s s.cur.warp .exec va with
  | none, .ok pa _ => if (poisonCause s pa false).isNone then some (memBytes s.mem pa n) else none
  | _, _ => none

/-- No port of the issuing core is bound to the issuing warp, and its own port has it yield (R73, R203). -/
def yields (s : State) : State :=
  let x := coreAt s s.cur.core
  putCore s s.cur.core { x with ports := x.ports.mapIdx fun j p =>
    let p := if p.bound = some s.cur.warp then { p with bound := none, nbound := 0 } else p
    if j = s.cur.port then { p with yielded := some s.cur.warp } else p }

/-- The lanes in which a lane instruction acts: those of its run whose governing predicate is true (R207). -/
def activeLanes (s : State) (x : LaneOp) : Word := s.cur.mask &&& govMask (issuing s) x.gov

/-- The integer function of a uniform instruction with its latency (Table 9-2). -/
def uniFn : Instr → Option (IntF × Nat × UType × UaOp)
  | .uadd ty o => some (fnAdd, 2, ty, o)
  | .usub ty o => some (fnSub, 2, ty, o)
  | .umul ty o => some (fnMul, 4, ty, o)
  | .umulh ty o => some (fnMulh, 4, ty, o)
  | .udiv ty o => some (fnDiv, 36, ty, o)
  | .urem ty o => some (fnRem, 36, ty, o)
  | .umin ty o => some (fnMin, 2, ty, o)
  | .umax ty o => some (fnMax, 2, ty, o)
  | .uand ty o => some (fnAnd, 2, ty, o)
  | .uor ty o => some (fnOr, 2, ty, o)
  | .uxor ty o => some (fnXor, 2, ty, o)
  | .uandn ty o => some (fnAndn, 2, ty, o)
  | .unot ty o => some (fnNot, 2, ty, o)
  | .uclz ty o => some (fnClz, 2, ty, o)
  | .upopc ty o => some (fnPopc, 2, ty, o)
  | .ushl ty o => some (fnShl, 2, ty, o)
  | .ushr ty o => some (fnShr, 2, ty, o)
  | .usar ty o => some (fnSar, 2, ty, o)
  | .urot ty o => some (fnRot, 2, ty, o)
  | .ubfx ty o => some (fnBfx, 2, ty, o)
  | _ => none

/-- A uniform instruction of fixed latency: its width in slots, its causes of stage 2, whether its predicate holds, its latency,
and the register that it writes with the value. -/
structure UniForm where
  width  : Nat
  causes : List (Nat × Word) := []
  holds  : Bool
  lat    : Nat := 2
  write  : PWrite

/-- The uniform instructions of fixed latency other than those of uniFn, on the warp that they read. -/
def uniForm (s : State) : Instr → Option UniForm
  | .ubfi ty o =>
    let n := utyBits ty
    let x := uaBits n (issuing s) o
    some { width := extWidth o.ext, holds := uaHolds (issuing s) o && (uaB (issuing s) o).toNat / 256 % 256 ≠ 0
           write := .g o.d.toNat (w64 (wrapN n (fnBfi (utySigned ty) n x.1 x.2.1 x.2.2))) }
  | .umov o => some { width := extWidth o.ext, holds := uaHolds (issuing s) o, write := .g o.d.toNat (greg (issuing s) o.a.toNat) }
  | .umovi ty o => some { width := extWidth o.ext, holds := uaHolds (issuing s) o
                          write := .g o.d.toNat (w64 ((sx64 (uaImm o)).toNat % 2 ^ utyBits ty)) }
  | .umovk o => some { width := extWidth o.ext, holds := uaHolds (issuing s) o
                       write := .g o.d.toNat (setFld (greg (issuing s) o.d.toNat) (16 * (fld (uaImm o) 16 2).toNat) 16
                         (fld (uaImm o) 0 16).toNat) }
  | .usel o => some { width := extWidth o.ext, holds := uaHolds (issuing s) o
                      write := .g o.d.toNat (if qreg (issuing s) (fld (uaImm o) 0 4).toNat then greg (issuing s) o.a.toNat
                        else greg (issuing s) o.b.toNat) }
  | .uadr o => some { width := extWidth o.ext, holds := uaHolds (issuing s) o, write := .g o.d.toNat (s.cur.pkt + sx64 (uaImm o)) }
  | .ucmp c ty o =>
    let n := utyBits ty
    let x := uaBits n (issuing s) o
    some { width := extWidth o.ext, holds := uaHolds (issuing s) o
           write := .q (o.d.toNat % 16) (ucondHolds c (ival (utySigned ty) n x.1) (ival (utySigned ty) n x.2.1)) }
  | .qand d a b q => some { width := extWidth q, holds := qpredHolds (issuing s) q
                            write := .q (d.toNat % 16) (qSrc (issuing s) a && qSrc (issuing s) b) }
  | .qor d a b q => some { width := extWidth q, holds := qpredHolds (issuing s) q
                           write := .q (d.toNat % 16) (qSrc (issuing s) a || qSrc (issuing s) b) }
  | .qxor d a b q => some { width := extWidth q, holds := qpredHolds (issuing s) q
                            write := .q (d.toNat % 16) (qSrc (issuing s) a != qSrc (issuing s) b) }
  | .qmov d a _ q => some { width := extWidth q, holds := qpredHolds (issuing s) q, write := .q (d.toNat % 16) (qSrc (issuing s) a) }
  | .qany d a _ q => some { width := extWidth q, holds := qpredHolds (issuing s) q
                            write := .q (d.toNat % 16) (decide (prow (issuing s) a.toNat &&& s.cur.mask ≠ 0#64)) }
  | .qall d a _ q => some { width := extWidth q, holds := qpredHolds (issuing s) q
                            write := .q (d.toNat % 16) (decide (prow (issuing s) a.toNat &&& s.cur.mask = s.cur.mask)) }
  | .qset d a _ q => some { width := extWidth q, holds := qpredHolds (issuing s) q, write := .q (d.toNat % 16) (bit a 0) }
  | .srd d num q => some { width := extWidth q, causes := sregCauses num.toNat, holds := qpredHolds (issuing s) q
                           write := .g d.toNat (sregVal (settleMe s) num.toNat (lowBit s.cur.mask)) }
  | .ugetl d v lane q => some { width := extWidth q, causes := ugetlCauses s v, holds := qpredHolds (issuing s) q, lat := 4
                                write := .g d.toNat (if lane.toNat < 64 then zx64 (vreg (issuing s) v.toNat lane.toNat) else 0#64) }
  | _ => none

/-! ### The forms of memory instructions -/

/-- The memory instructions that leave one access, each as it issues. -/
def memForm (s : State) : Instr → Option MemInstr
  | .ld sz o => some (ldInstr s sz o)
  | .st sz o => some (stInstr s sz o)
  | .ldg words o => some (ldgInstr s words o)
  | .stg words o => some (stgInstr s words o)
  | .atom op ty o => some (atomInstr s op ty o)
  | .red op ty o => some (redInstr s op ty o)
  | .waitadd ty o => some (waitaddInstr s ty o)
  | .waitw c ty o => some (waitwInstr s c ty o)
  | .cctlUnpin o => some (cctlInstr s 0 o)
  | .cctlPin o => some (cctlInstr s 1 o)
  | .cctlEvict o => some (cctlInstr s 2 o)
  | .cctlPrefetch o => some (cctlInstr s 3 o)
  | .mbarInit o => some (mbarInstr s 0 o)
  | .mbarExp o => some (mbarInstr s 1 o)
  | .mbarArv o => some (mbarInstr s 3 o)
  | .uld sz d a x => some (uldInstr sz d a x)
  | .ust sz d a x => some (ustInstr sz d a x)
  | _ => none

/-- SEQ.RES and SEQ.CMT, each as it issues. -/
def seqForm (s : State) : Instr → Option MemInstr
  | .seqRes o => some (seqResInstr s o)
  | .seqCmt o => some (seqCmtInstr s o)
  | _ => none

/-- The uniform sequence instructions: what each asks, its destination, the register of its descriptor's address, the child's
address, and its fields. -/
def seqUniForm (s : State) : Instr → Option (SquOp × Nat × BitVec 6 × Word × UmExt)
  | .seqBind d a x => some (.bind, d.toNat % 8, a, 0#64, x)
  | .seqLen d a x => some (.len, d.toNat, a, 0#64, x)
  | .seqFork d a b x => some (.fork, d.toNat, a, greg (issuing s) b.toNat, x)
  | .seqDrop d a x => some (.drop, d.toNat, a, 0#64, x)
  | _ => none

/-- The fences: scope, the earlier accesses that each waits for, whether it releases, whether it acquires (R146). -/
def fenceForm : Instr → Option (BitVec 3 × (AccKind → Bool) × Bool × Bool)
  | .fenceAcq c => some (c, readsValue, false, true)
  | .fenceRel c => some (c, fun _ => true, true, false)
  | .fenceAr c => some (c, fun _ => true, true, true)
  | .fenceFull c => some (c, fun _ => true, true, true)
  | _ => none

/-- Every lane of an access passes the checks of stage 4 and becomes as given (R384). -/
def reaches (s : State) (x : MemInstr) (inTx : Bool) (as : List LaneAcc) : Prop :=
  (x.lanes s).map (fun l => reachLane s s.cur.warp x.form inTx l (x.addr s l)) = as.map Reach.ok

/-- The warp that issues a memory instruction: walk results dropped, the claim and the %PIX of a wide one used up. -/
def issued (s : State) (w : Warp) (x : MemInstr) : Warp :=
  { (if x.wide then usePix (spendTokens w) s.cur else w) with walkBad := [] }

/-- The access that an issue opens: its id, its warp, PC and aclk, its lanes and the lanes that it acts for (R71, R192). -/
def opened (s : State) (a : Acc) (ls : List LaneAcc) : Acc :=
  { a with id := s.nextId, warp := s.cur.warp, pc := curPc s, issued := now s, lanes := ls, run := runLanesOf s.cur.mask ls
           inTx := regionLanes s }

/-- The state with an access opened by the issuing warp, now w: its flag counts one more, that of a relaxed RED no longer than a lane of
it waits for a page (R71, R237). -/
def opens (s : State) (w : Warp) (a : Acc) (ls : List LaneAcc) : State :=
  keepAcc (setMe { s with nextId := s.nextId + 1 } (if a.counted then flagUp w a.flag else w)) (opened s a ls)

/-- A lane of LDS as it issues, and what its resolution gives (R132). -/
def ldsOf (s : State) (o : LmOp) (n : Nat) (desc : Word) (l : Nat) : LaneAcc × Lds :=
  let pos := leVal (groupBytes (me s) o.a 8 l)
  let hb := leVal (groupBytes (me s) o.b 4 l)
  ({ lane := l, va := desc, data := ldsData desc pos hb }, ldsLane s s.cur.warp n l desc pos hb)

/-- A lane of LDS is resolved: to an element or to a status. -/
def ldsWhole : Lds → Bool
  | .elem _ _ _ => true
  | .status _ => true
  | _ => false

/-! ### Reserved encodings -/

/-- The opcodes and FN values that are not instructions, with their causes (Table 21-3): `uni` is bit 31, `op` bits 29:24 and `fn` bits
2:0 of a lane word, bits 5:3 of a uniform one. -/
def reservedFn (uni : Bool) (op fn : Nat) : Option Nat :=
  let from_ := fun (lo cause : Nat) => if lo ≤ fn then some cause else none
  if uni then
    if op = 0x1F || 0x20 ≤ op then some 1
    else if op = 0x01 || op = 0x05 then from_ 7 1
    else if op = 0x02 || op = 0x04 then from_ 6 1
    else if op = 0x03 || op = 0x1C then from_ 5 1
    else if op = 0x1E then from_ 4 1
    else if [0x0A, 0x0B, 0x0E, 0x0F, 0x15, 0x16, 0x17, 0x18, 0x1B, 0x1D].contains op then from_ 1 1
    else if op = 0x07 then from_ 5 2
    else none
  else if op = 0x00 || op = 0x2E || op = 0x2F then some 1
  else if 0x01 ≤ op && op ≤ 0x12 then from_ 6 2
  else if 0x18 ≤ op && op ≤ 0x1F then from_ 3 2
  else if op = 0x24 || op = 0x25 then from_ 4 2
  else if op = 0x30 then from_ 7 2
  else if op = 0x31 || op = 0x34 then from_ 5 2
  else if [0x14, 0x21, 0x22, 0x2A, 0x37].contains op then from_ 1 1
  else if [0x23, 0x26, 0x2B, 0x3E].contains op then from_ 2 1
  else if op = 0x13 || op = 0x29 || op = 0x3A then from_ 3 1
  else if [0x17, 0x27, 0x38, 0x39, 0x3B, 0x3C, 0x3F].contains op then from_ 4 1
  else if op = 0x36 then from_ 6 1
  else if op = 0x3D then from_ 7 1
  else none

/-- The uniform opcodes whose words have a TY field in bits 2:0 (Tables 8-10, 8-12). -/
def tyOpcodes : List Nat :=
  [0x00, 0x01, 0x02, 0x03, 0x04, 0x05, 0x06, 0x07, 0x0A, 0x0B, 0x0E, 0x0F, 0x15, 0x16, 0x17, 0x18, 0x1B, 0x1C, 0x1D, 0x1E]

/-! ### Where lanes stand -/

/-- Lane l has a place in the runs of a warp that issue. -/
def inRuns (w : Warp) (l : Nat) : Prop := ∃ e ∈ runsOf w, bit e.mask l = true

/-- Lane l stands at an address, parked and held as given. -/
def laneStands (w : Warp) (l : Nat) (pc : Word) (park : Option Park) (hold : Option Nat) : Prop :=
  inRuns w l ∧ heldBy w l = hold ∧ ∀ e ∈ runsOf w, bit e.mask l = true → e.pc = pc ∧ e.park = park

/-- Lane l stands in b wherever it stood in a. -/
def staysPut (a b : Warp) (l : Nat) : Prop :=
  heldBy b l = heldBy a l ∧
    ∀ pc park, (∃ e ∈ runsOf b, bit e.mask l = true ∧ e.pc = pc ∧ e.park = park)
      ↔ ∃ e ∈ runsOf a, bit e.mask l = true ∧ e.pc = pc ∧ e.park = park

/-- The lanes of the issuing run stand at an address in t, parked and held as given, and the other lanes where they stood. -/
def runMoves (s t : State) (pc : Word) (park : Option Park) (hold : Option Nat) : Prop :=
  (∀ l, bit s.cur.mask l = true → inRuns (me s) l → laneStands (me t) l pc park hold)
    ∧ ∀ l, bit s.cur.mask l = false → staysPut (me s) (me t) l

/-! ### What a change leaves alone -/

/-- Nothing but the issuing warp differs: memory, every other warp, teams, cores, contexts and all else are as they were. -/
def onlyMe (s t : State) : Prop := t = putWarp s s.cur.warp (me t)

/-- Of a warp, nothing but registers with their pending writes, the runs with what holds them, latches, the generator and the undo log
differs: its flags, format slots, ql registers, gang, region, blocks and all else are as they were. -/
def sameRest (a b : Warp) : Prop :=
  b = { a with v := b.v, p := b.p, g := b.g, q := b.q, pend := b.pend, pcs := b.pcs, holds := b.holds, handler := b.handler, latches := b.latches
               seed := b.seed, undo := b.undo, undoLost := b.undoLost }

/-- The latches after a push in every lane (R81), or with none. -/
def pushed (w : Warp) (t lat : Nat) : Option (List Word) → List Latch
  | none => w.latches
  | some vals => (({ vals := vals, born := t, lat := lat } : Latch) :: w.latches).take 8

/-- An instruction issues and nothing but its warp changes: its lanes stand at pc, parked and held as given; its writes land at
their times; and of the rest of the warp only latches, the generator and the undo log may differ. -/
def passes (s t : State) (pc : Word) (park : Option Park) (hold : Option Nat) (xs : List Pend) : Prop :=
  onlyMe s t ∧ sameRest (me s) (me t) ∧ runMoves s t pc park hold ∧ wrote (me s) (me t) (now s) xs

/-- An instruction of fixed latency completes: its lanes go on to pc, and its writes land at their times. -/
def completes (s t : State) (pc : Word) (xs : List Pend) : Prop := passes s t pc none none xs

/-- Latches and generator are as they were. -/
def quiet (s t : State) : Prop := (me t).latches = (me s).latches ∧ (me t).seed = (me s).seed

/-! ### Events of the units -/

/-- Access n is a, of the one lane l, and may be served now; no request is merged into another, and no watchpoint is set in its
context. -/
def servesOne (s : State) (n : Nat) (a : Acc) (l : LaneAcc) : Prop :=
  accAt s n = some a ∧ a.id = n ∧ a.lanes = [l] ∧ accReady s a = true ∧ l.ok = true ∧ (∀ x ∈ s.accs, x.2.merged = false)
    ∧ (ctxAt s (warpCtx s a.warp)).dbg = []

/-- The flags of a warp after an access of it has finished (R71). -/
def flagsAfter (s : State) (a : Acc) : List (Nat × Nat) :=
  (if a.counted then flagDown (warpAt s a.warp) a.flag else warpAt s a.warp).flags

/-- The runs of b are those of a, each parked as before unless it waited for what `ok` names (R38). -/
def woken (ok : Park → Bool) (a b : List PcEntry) : Prop :=
  ∀ l pc p, (∃ e ∈ b, bit e.mask l = true ∧ e.pc = pc ∧ e.park = p)
    ↔ ∃ e ∈ a, bit e.mask l = true ∧ e.pc = pc ∧ e.park.filter (fun q => !ok q) = p

/-- Only the runs of warp k differ. -/
def onlyRuns (s t : State) (k : Nat) : Prop :=
  t = putWarp s k { warpAt s k with pcs := (warpAt t k).pcs, handler := (warpAt t k).handler }

/-- Warp k has met one more fault, of a cause, at lanes given as a mask (R345). -/
def struck (s t : State) (k : Nat) (cause : Nat) (m : Word) : Prop :=
  ∃ d, (warpAt t k).detected = (warpAt s k).detected ++ [d] ∧ faultMask d = m ∧ ∀ x ∈ d.lanes, x.cause = cause

/-- A record of a cause and severity has been written since s (R348). -/
def logged (s t : State) (cause sev : Nat) : Prop :=
  ∃ r ∈ t.log, r.cause = cause ∧ r.sev = sev ∧ s.seqNext ≤ r.seq

/-- A record of a cause and severity that tells of a change of the defect tree has been written since s, or waits, where an image stands,
for the tree to show the change (R349, R359). -/
def toldByTree (s t : State) (cause sev : Nat) : Prop :=
  (s.dtbytes = 0 → logged s t cause sev)
    ∧ (s.dtbytes ≠ 0 → ∃ p ∈ t.promised, p.1 = treeKey ∧ p.2.cause = cause ∧ p.2.sev = sev ∧ s.seqNext ≤ p.2.seq)

/-- An outside agent's store at an address performs at once: memory is there, nothing forbids it, and no slice holds the line. -/
def plainPlace (s : State) (pa : Nat) : Prop :=
  tierOf pa ≠ .reserved ∧ inTree s pa = false ∧ stackDead s pa = false ∧ tierFails s pa = none ∧ storeRejected s pa = none
    ∧ lineAt s (lineOf pa) = none

/-! ### Memory -/

/-- Memory, the host's memory and every tile store are in canonical form. -/
def MemoryOk (s : State) : Prop :=
  Memory.wf s.mem = true ∧ Memory.wf s.hostMem = true ∧ ∀ t ∈ s.teams, Memory.wf t.2.tile = true

end Sys2Proof.Machine
end

