-- ==== Sys2Proof/Certificates/Slice0/Obligations.lean ====
section
/-!
DEFINITION. The statements for the provers.
-/
open Sys2Proof Sys2Proof.Machine

/-! ### Lane instructions (chapter 10) -/

/-- R207, R79, R437: a lane instruction of fixed latency that stages 1 to 3 let through, and of which no lane meets a cause of stage
4, completes: the result stands in D from the issue plus its latency on, in the active lanes; no register reads otherwise before
that, and no other register or lane at any time; every lane of the run goes on to the next instruction; nothing but its warp
changes, and of that neither the latches beyond the push nor any flag, format slot, ql register or block. -/
def Obligations.LaneCompletes : Prop :=
  ∀ (i : Instr) (s : State) (n : Nat) (x : LaneOp), laneForm s i = some (n, x) →
    clear s {} (regCauses s (laneVops x) ++ x.more (me s)) = true → badLanes (issuing s) x (activeLanes s x) = [] →
    pendOk (me s) →
    ∃ t, exec i s = .next t
      ∧ completes s t (nextPc s.cur n)
          (landAt (now s + x.lat) (laneWrites x (activeLanes s x) (x.val (issuing s) (activeLanes s x))))
      ∧ (me t).seed = (x.val (issuing s) (activeLanes s x)).seed.getD (me s).seed

/-- R81: the push of the latch stack by a lane instruction of fixed latency: with a v destination, NOWB or not, the result stands in
b0 in the active lanes, what D holds in the others, the older entries move up and the ninth leaves; with a predicate destination the
latches are as they were. -/
def Obligations.LatchesPushed : Prop :=
  ∀ (i : Instr) (s : State) (n : Nat) (x : LaneOp), laneForm s i = some (n, x) →
    clear s {} (regCauses s (laneVops x) ++ x.more (me s)) = true → badLanes (issuing s) x (activeLanes s x) = [] →
    pendOk (me s) →
    ∃ t, exec i s = .next t ∧
      let lo := fun l => laneAt ((x.val (issuing s) (activeLanes s x)).rows.getD 0 zeroRow) l
      let hi := fun l => if x.n = 1 then 0#32 else laneAt ((x.val (issuing s) (activeLanes s x)).rows.getD 1 zeroRow) l
      let old := fun l => if x.n = 1 then zx64 (vreg (issuing s) x.d.toNat l)
        else zx64 (vreg (issuing s) x.d.toNat l) ||| (zx64 (vreg (issuing s) (x.d.toNat + 1) l) <<< 32)
      if x.pred then (me t).latches = (me s).latches
      else
        (me t).latches.length = min 8 ((me s).latches.length + 1)
        ∧ (∀ k, k + 1 < 8 → (me t).latches[k + 1]? = (me s).latches[k]?)
        ∧ ∃ b0, (me t).latches[0]? = some b0 ∧ b0.born = now s ∧ b0.lat = x.lat
          ∧ ∀ l, l < 64 → b0.vals.getD l 0#64 = if bit (activeLanes s x) l then zx64 (lo l) ||| (zx64 (hi l) <<< 32) else old l

/-- R209, R74: a special-function instruction does not issue while the core's unit takes in another. R209, R215: one that finds the
unit free issues, holds the unit for 4 aclk, ends its claim of tokens, and completes as a lane instruction of latency 10 does. -/
def Obligations.SpecialFunctions : Prop :=
  (∀ (i : Instr) (s : State) (n : Nat) (x : LaneOp), sfuForm i = some (n, x) → sfuBusy s = true →
     exec i s = .next { s with cur := { s.cur with held := true } })
  ∧ (∀ (i : Instr) (s : State) (n : Nat) (x : LaneOp), sfuForm i = some (n, x) → sfuBusy s = false →
       clear s {} (regCauses s (laneVops x)) = true → pendOk (me s) →
       let u := sfuTakes s
       ∃ t, exec i s = .next t ∧ x.lat = 10
         ∧ completes u t (nextPc s.cur n)
             (landAt (now s + x.lat) (laneWrites x (activeLanes s x) (x.val (issuing s) (activeLanes s x))))
         ∧ (me t).seed = (me s).seed)

/-- R220: DOT over a format slot that it accepts completes as a lane instruction of latency 6 does, and ends its claim of tokens. -/
def Obligations.DotCompletes : Prop :=
  ∀ (toI32 : Bool) (o : LaOp) (s : State), clear s {} (regCauses s (laneVops (dotOp toI32 o))) = true →
    (let f := slotReg (issuing s) (laRm o).toNat
     let e := (slotEf f).getD .fp32
     dotAccepts e = true ∧ slotZpm f ≠ 1 ∧ (toI32 = true → intFmt e = true)) →
    pendOk (me s) →
    let x := dotOp toI32 o
    let u := spendMe s
    ∃ t, exec (.dot toI32 o) s = .next t ∧ x.lat = 6
      ∧ completes u t (nextPc s.cur (laWidth o))
          (landAt (now s + x.lat) (laneWrites x (activeLanes s x) (x.val (issuing s) (activeLanes s x))))
      ∧ (me t).seed = (me s).seed

/-- R172, R226, R227: REP before a legal target that meets no cause issues its iterations 0 to CNT, or those from the unit that %PIX
names for it on, one aclk apart, each with its fields strided and reading after those before it have written; their writes land one
after another, the run goes on past the target, %PIX is used up, and the warp notes the REP. -/
def Obligations.RepCompletes : Prop :=
  ∀ (cnt : BitVec 6) (ds sa sb sc : BitVec 3) (s : State) (i : Instr) (o : LaOp) (x : LaneOp),
    s.cur.slot < 2 → slotWord s.cur (s.cur.slot + 1) ≠ 0#32 →
    decode (slotWord s.cur (s.cur.slot + 1))
      (if s.cur.slot = 0 then some (slotWord s.cur 2) else none) = .ok i →
    repTarget (fun o => o) s i = some (o, x) → clear s {} (repCauses s i x cnt ds sa sb sc) = true → pendOk (me s) →
    let u := setMe s (usePix (spendTokens (me s)) s.cur)
    let first := unitsDone (me s) s.cur
    badLanes (issuing u) x (activeLanes u x) = [] →
    let v := repRun u i x ds sa sb sc first (cnt.toNat + 1) (activeLanes u x) (issuing u)
    ∃ t r, exec (.rep cnt ds sa sb sc) s = .next t
      ∧ (me t).rep = some r ∧ r.start = now s ∧ r.first = first ∧ r.n = cnt.toNat + 1 ∧ r.stopped = false
      ∧ completes (setMe u { me u with rep := (me t).rep }) t (nextPc s.cur (1 + laWidth o)) v.ws
      ∧ (me t).latches = v.w.latches ∧ (me t).seed = v.w.seed

/-! ### Values (Tables 9-2 and 10-2) -/

/-- Tables 9-2 and 10-2: the wrapped result of each integer function over n-bit operands is the bit-vector operation of its name.
Tables 9-2 and 10-2: the same for logic, shifts, rotation and division. -/
def Obligations.LaneValues : Prop :=
  (∀ (n : Nat) (sg : Bool) (a b c : BitVec n), 0 < n →
     wrapN n (fnAdd sg n a.toNat b.toNat c.toNat) = (a + b).toNat
     ∧ wrapN n (fnSub sg n a.toNat b.toNat c.toNat) = (a - b).toNat
     ∧ wrapN n (fnMul sg n a.toNat b.toNat c.toNat) = (a * b).toNat
     ∧ wrapN n (fnMad sg n a.toNat b.toNat c.toNat) = (a * b + c).toNat
     ∧ wrapN n (fnMulh sg n a.toNat b.toNat c.toNat)
         = (if sg then ((a.signExtend (2 * n) * b.signExtend (2 * n)).toNat / 2 ^ n) else a.toNat * b.toNat / 2 ^ n)
     ∧ wrapN n (fnMin sg n a.toNat b.toNat c.toNat) = (if sg then (if a.sle b then a else b) else if a ≤ b then a else b).toNat
     ∧ wrapN n (fnMax sg n a.toNat b.toNat c.toNat) = (if sg then (if a.sle b then b else a) else if a ≤ b then b else a).toNat
     ∧ wrapN n (fnAbs sg n a.toNat b.toNat c.toNat) = (if sg && a.msb then -a else a).toNat)
  ∧ (∀ (n : Nat) (sg : Bool) (a b c : BitVec n), 0 < n →
       wrapN n (fnAnd sg n a.toNat b.toNat c.toNat) = (a &&& b).toNat
       ∧ wrapN n (fnOr sg n a.toNat b.toNat c.toNat) = (a ||| b).toNat
       ∧ wrapN n (fnXor sg n a.toNat b.toNat c.toNat) = (a ^^^ b).toNat
       ∧ wrapN n (fnAndn sg n a.toNat b.toNat c.toNat) = (a &&& ~~~b).toNat
       ∧ wrapN n (fnNot sg n a.toNat b.toNat c.toNat) = (~~~a).toNat
       ∧ wrapN n (fnShl sg n a.toNat b.toNat c.toNat) = (a <<< b.toNat).toNat
       ∧ wrapN n (fnShr sg n a.toNat b.toNat c.toNat) = (a >>> b.toNat).toNat
       ∧ wrapN n (fnSar sg n a.toNat b.toNat c.toNat) = (a.sshiftRight b.toNat).toNat
       ∧ wrapN n (fnRot sg n a.toNat b.toNat c.toNat) = (a.rotateLeft b.toNat).toNat
       ∧ wrapN n (fnDiv sg n a.toNat b.toNat c.toNat) = (if b = 0#n then BitVec.allOnes n else if sg then a.sdiv b else a.udiv b).toNat
       ∧ wrapN n (fnRem sg n a.toNat b.toNat c.toNat) = (if b = 0#n then a else if sg then a.srem b else a.umod b).toNat)

/-! ### Uniform instructions (chapter 9) -/

/-- R186, R187: UARITH, ULOGIC, USHIFT and UBFX whose predicate holds write gr(D) with the n-bit result of their function,
zero-extended, their latency after the issue; whose predicate does not hold write nothing; nothing else changes. R186 to R190, R197,
R198: the moves, compares, predicate instructions and reads of special and lane registers write the one register that they name when
their predicate holds, and nothing else. -/
def Obligations.UniformsComplete : Prop :=
  (∀ (i : Instr) (s : State) (f : IntF) (lat : Nat) (ty : UType) (o : UaOp), uniFn i = some (f, lat, ty, o) →
     clear s {} [] = true → pendOk (me s) →
     let n := utyBits ty
     let a := (greg (issuing s) o.a.toNat).toNat % 2 ^ n
     let b := (uaB (issuing s) o).toNat % 2 ^ n
     let d := (greg (issuing s) o.d.toNat).toNat % 2 ^ n
     ∃ t, exec i s = .next t
       ∧ completes s t (nextPc s.cur (extWidth o.ext)) (landAt (now s + lat)
           (if uaHolds (issuing s) o then [.g o.d.toNat (w64 (wrapN n (f (utySigned ty) n a b d)))] else []))
       ∧ quiet s t)
  ∧ (∀ (i : Instr) (s : State) (u : UniForm), uniForm s i = some u → clear s {} u.causes = true → pendOk (me s) →
       ∃ t, exec i s = .next t
         ∧ completes s t (nextPc s.cur u.width) (landAt (now s + u.lat) (if u.holds then [u.write] else [])) ∧ quiet s t)

/-- R193, R194, R195, R196: the branches, PAD and NOP move the whole run: to the target when taken, to the next instruction when
not; CALL writes g63 with the next packet's address and LOOP counts down, and nothing else changes. R225: BR moves each lane of the
run by its own condition: those whose predicate, negated or not, holds to the target, the others to the next instruction; no
register changes. R195: BRX whose predicate holds, whose index is below the table's length and whose target holds a PAD with the
table's label goes to the target; one whose predicate does not hold goes on. -/
def Obligations.LanesBranch : Prop :=
  (∀ (s : State), clear s {} [] = true → pendOk (me s) →
     (∀ off q, ∃ t, exec (.bra off q) s = .next t ∧ quiet s t
       ∧ completes s t (if qpredHolds (issuing s) q then pktTarget s.cur.pkt off else nextPc s.cur (extWidth q)) [])
     ∧ (∀ off q, ∃ t, exec (.call off q) s = .next t ∧ quiet s t
       ∧ completes s t (if qpredHolds (issuing s) q then pktTarget s.cur.pkt off else nextPc s.cur (extWidth q))
           (landAt (now s + 2) (if qpredHolds (issuing s) q then [.g 63 (s.cur.pkt + 16#64)] else [])))
     ∧ (∀ (a : BitVec 6) q, (qpredHolds (issuing s) q = true → (greg (issuing s) a.toNat).toNat % 16 = 0) →
       ∃ t, exec (.ret a q) s = .next t ∧ quiet s t
       ∧ completes s t (if qpredHolds (issuing s) q then slotPc (greg (issuing s) a.toNat) 0 else nextPc s.cur (extWidth q)) [])
     ∧ (∀ (c : BitVec 6) off q, ∃ t, exec (.loop c off q) s = .next t ∧ quiet s t
       ∧ completes s t (if qpredHolds (issuing s) q && decide (1 < (greg (issuing s) c.toNat).toNat) then pktTarget s.cur.pkt off
             else nextPc s.cur (extWidth q))
           (landAt (now s + 2) (if qpredHolds (issuing s) q then
             [.g c.toNat (if 1 < (greg (issuing s) c.toNat).toNat then greg (issuing s) c.toNat - 1#64 else 0#64)] else [])))
     ∧ (∀ label, ∃ t, exec (.pad label) s = .next t ∧ quiet s t ∧ completes s t (nextPc s.cur 1) [])
     ∧ ∀ q, ∃ t, exec (.nop q) s = .next t ∧ quiet s t ∧ completes s t (nextPc s.cur (extWidth q)) [])
  ∧ (∀ (neg : Bool) (pn : BitVec 6) (off : BitVec 17) (s : State), clear s {} [] = true → pendOk (me s) →
       ∃ t, exec (.br neg pn off) s = .next t ∧ quiet s t ∧ onlyMe s t ∧ sameRest (me s) (me t)
         ∧ wrote (me s) (me t) (now s) []
         ∧ (∀ l, l < 64 → bit s.cur.mask l = true → inRuns (me s) l →
             laneStands (me t) l
               (if pAt (me s) (now s) pn.toNat l != neg then pktTarget s.cur.pkt off else nextPc s.cur 1) none none)
         ∧ ∀ l, bit s.cur.mask l = false → staysPut (me s) (me t) l)
  ∧ (∀ (a : BitVec 6) (x : UbExt) (s : State), clear s {} [] = true → pendOk (me s) →
       (qgovHolds (issuing s) x.gov = false →
         ∃ t, exec (.brx a x) s = .next t ∧ quiet s t ∧ completes (setMe s { me s with coldFor := none }) t (nextPc s.cur 2) [])
       ∧ (qgovHolds (issuing s) x.gov = true →
         let h := s.cur.pkt + 16#64 * sx64 x.toff
         let i := (greg (issuing s) a.toNat).toNat
         ∀ (hd en p : List Byte),
           codeBytes s h 6 = some hd → codeBytes s (h + w64 (16 + 4 * i)) 4 = some en →
           let target := h + 16#64 * sx64 (w32 (leVal en))
           codeBytes s (slotPc target 0) 4 = some p →
           i < leVal (hd.take 4) → leVal p = 0x8D000000 + leVal (hd.drop 4) →
           ∃ t, exec (.brx a x) s = .next t ∧ quiet s t
             ∧ completes (setMe s { me s with coldFor := none }) t (slotPc target 0) []))

/-- R202, R203, R44: TSYNC parks the run until the next multiple of the time slot, SLEEP until NSEC ns after the issue; where the
predicate does not hold the run goes on. R203, R73: YIELD ranks the warp last at its next issue opportunity and ends a bind of
either port to it. R91, R197: SWR of %SRSEED sets the generator state from its issue on; of any other register it is an illegal use.
-/
def Obligations.RunsWait : Prop :=
  (∀ (q : QPred) (s : State), pendOk (me s) →
     (clear s ⟨true, true⟩ [] = true → ∃ t, exec (.tsync q) s = .next t ∧ quiet s t
       ∧ passes s t (nextPc s.cur (extWidth q)) (if qpredHolds (issuing s) q then
           some (.tsync (Nat.max 1 s.tslot * (timeAt s s.cur.core / Nat.max 1 s.tslot + 1))) else none) none [])
     ∧ (clear s ⟨true, false⟩ [] = true → ∀ ns : BitVec 18, ∃ t, exec (.sleep ns q) s = .next t ∧ quiet s t
       ∧ passes s t (nextPc s.cur (extWidth q)) (if qpredHolds (issuing s) q then
           some (.sleep (timeAt s s.cur.core + ns.toNat)) else none) none []))
  ∧ (∀ (q : QPred) (s : State), pendOk (me s) → clear s {} [] = true →
       ∃ t, exec (.yield q) s = .next t ∧ quiet s t
         ∧ if qpredHolds (issuing s) q then
             completes (yields s) t (nextPc s.cur (extWidth q)) []
           else completes s t (nextPc s.cur (extWidth q)) [])
  ∧ (∀ (a : BitVec 6) (num : BitVec 8) (q : QPred) (s : State), pendOk (me s) → clear s ⟨true, false⟩ (swrCauses num.toNat) = true →
       num = 0x30#8 ∧ ∃ t, exec (.swr a num q) s = .next t ∧ passes s t (nextPc s.cur (extWidth q)) none none []
         ∧ (me t).latches = (me s).latches
         ∧ (me t).seed = if qpredHolds (issuing s) q then greg (issuing s) a.toNat else (me s).seed)

/-! ### Blocks, gangs, the end of threads, traps (chapters 2, 4, 9 and 19) -/

/-- R67, R80, R199: RALLOC that the free general blocks cover, with no earlier request pending, adds the blocks at once: their
registers hold 0, the others what they held, and the run goes on. One that they do not cover and that could ever be granted parks
its run and joins the core's requests. R68, R199: RFREE gives up the warp's top blocks: the emergency set takes them until it is
full and the general pool the rest; the registers below the new limit hold what they held, and memory is as it was. -/
def Obligations.BlocksMove : Prop :=
  (∀ (n : BitVec 4) (q : QPred) (s : State), pendOk (me s) → clear s ⟨true, false⟩ (rallocCauses (me s) n.toNat) = true →
     let c := s.cur.core
     let x := coreAt s c
     (qpredHolds (issuing s) q = false →
       ∃ t, exec (.ralloc n q) s = .next t ∧ passes s t (nextPc s.cur (extWidth q)) none none [] ∧ quiet s t)
     ∧ (qpredHolds (issuing s) q = true → x.allocs = [] → n.toNat ≤ x.free →
       ∃ t, exec (.ralloc n q) s = .next t ∧ t = putWarp (putCore s c { x with free := x.free - n.toNat }) s.cur.warp (me t)
         ∧ sameRest { me s with blocks := (me s).blocks + n.toNat } (me t) ∧ quiet s t
         ∧ runMoves s t (nextPc s.cur (extWidth q)) none none
         ∧ (∀ r l, l < 64 → vreg (me t) r l = if r < 8 * (me s).blocks then vAt (me s) (now s) r l else 0#32)
         ∧ (∀ r, gAt (me t) (now s) r = gAt (me s) (now s) r) ∧ ∀ r l, pAt (me t) (now s) r l = pAt (me s) (now s) r l)
     ∧ (qpredHolds (issuing s) q = true → (x.allocs ≠ [] ∨ x.free < n.toNat) → n.toNat ≤ everFree (settleMe s) s.cur.warp c + 4 →
       ∃ t, exec (.ralloc n q) s = .next t
         ∧ (coreAt t c).allocs = x.allocs ++ [{ warp := s.cur.warp, n := n.toNat, run := s.cur.mask, age := s.nextId }]
         ∧ passes (putCore { s with nextId := s.nextId + 1 } c (coreAt t c)) t (nextPc s.cur (extWidth q)) (some .ralloc) none []))
  ∧ (∀ (n : BitVec 4) (q : QPred) (s : State), pendOk (me s) → clear s ⟨true, false⟩ (rfreeCauses (me s) n.toNat) = true →
       let c := s.cur.core
       let x := coreAt s c
       (qpredHolds (issuing s) q = false →
         ∃ t, exec (.rfree n q) s = .next t ∧ passes s t (nextPc s.cur (extWidth q)) none none [] ∧ quiet s t)
       ∧ (qpredHolds (issuing s) q = true →
         ∃ t, exec (.rfree n q) s = .next t ∧ (me t).blocks = (me s).blocks - n.toNat
           ∧ (coreAt t c).emerg = x.emerg + min n.toNat (4 - x.emerg)
           ∧ (coreAt t c).free = x.free + (n.toNat - min n.toNat (4 - x.emerg))
           ∧ (∀ r l, l < 64 → r < 8 * ((me s).blocks - n.toNat) → vreg (me t) r l = vAt (me s) (now s) r l)
           ∧ runMoves s t (nextPc s.cur (extWidth q)) none none ∧ quiet s t
           ∧ t = { s with warps := t.warps, accs := t.accs, cores := t.cores }))

/-- R41, R200: GANG with a source that names a proper list writes the warp's GANG register, its POS taken from the list; where no
member of the old gang holds an MMA, nothing else changes. A source that does not is an illegal use and the register stays. -/
def Obligations.GangWrites : Prop :=
  ∀ (a : BitVec 6) (q : QPred) (s : State), pendOk (me s) → clear s ⟨true, true⟩ [] = true → qpredHolds (issuing s) q = true →
    (gangBad (myTeam s).nwarps (me s).wid (greg (issuing s) a.toNat) = false → (myTeam s).latch = [] →
      ∃ t, exec (.gang a q) s = .next t ∧ quiet s t
        ∧ passes (setMe s { me s with gang := gangWord (me s).wid (greg (issuing s) a.toNat) }) t (nextPc s.cur (extWidth q))
            none none [])
    ∧ (gangBad (myTeam s).nwarps (me s).wid (greg (issuing s) a.toNat) = true → s.cur.inHandler = false →
      ∃ t d, exec (.gang a q) s = .next t ∧ (me t).detected = (me s).detected ++ [d] ∧ (me t).gang = (me s).gang
        ∧ d.lanes = (lanesOf s.cur.mask).map fun l =>
            { lane := l, cause := 0x0C, addr := none, syn := w64 ((greg (issuing s) a.toNat).toNat % 2 ^ 32) })

/-- R30, R196: EXIT takes the lanes of its run off the warp; a warp whose last lane leaves has exited and has no run. Memory is as
it was. -/
def Obligations.ExitLeaves : Prop :=
  ∀ (q : QPred) (s : State), pendOk (me s) → clear s ⟨true, false⟩ [] = true → (me s).handler = none →
    (qpredHolds (issuing s) q = false →
      ∃ t, exec (.exit q) s = .next t ∧ passes s t (nextPc s.cur (extWidth q)) none none [] ∧ quiet s t)
    ∧ (qpredHolds (issuing s) q = true →
      ∃ t, exec (.exit q) s = .next t ∧ t.mem = s.mem ∧ t.hostMem = s.hostMem
        ∧ (∀ l, bit s.cur.mask l = true → ¬ inRuns (me t) l)
        ∧ ((∀ l, inRuns (me s) l → bit s.cur.mask l = true) → (me t).exited = true ∧ (me t).pcs = [] ∧ (me t).latches = []))

/-- R204, R345: TRAP stops the run after itself: a fault of every lane of the run is detected with cause 0x00, IMM8 in its syndrome
and the next instruction as the PC to resume at; no lane moves and no register changes. -/
def Obligations.TrapStops : Prop :=
  ∀ (imm : BitVec 8) (q : QPred) (s : State), pendOk (me s) → clear s ⟨true, true⟩ [] = true →
    (qpredHolds (issuing s) q = false →
      ∃ t, exec (.trap imm q) s = .next t ∧ passes s t (nextPc s.cur (extWidth q)) none none [] ∧ quiet s t)
    ∧ (qpredHolds (issuing s) q = true →
      ∃ t d, exec (.trap imm q) s = .next t
        ∧ t = putWarp { s with seqNext := s.seqNext + 1 } s.cur.warp (me t) ∧ quiet s t
        ∧ sameRest { me s with detected := (me s).detected ++ [d] } (me t) ∧ wrote (me s) (me t) (now s) []
        ∧ (∀ l, staysPut (me s) (me t) l)
        ∧ d.pc = curPc s ∧ d.resume = nextPc s.cur (extWidth q) ∧ d.deferred = false ∧ d.seq = s.seqNext ∧ d.time = s.time
        ∧ d.lanes = (lanesOf s.cur.mask).map fun l => { lane := l, cause := 0x00, syn := zx64 imm })

/-- R345, R379: an instruction that meets a cause in stage 1 or 2 has no effect of its own: the lowest of its causes strikes every
lane of the run where it stands, with the instruction's address to resume at; no lane moves and no register changes. -/
def Obligations.CausesStopTheRun : Prop :=
  ∀ (s : State) (ban : Ban) (causes : List (Nat × Word)) (eff : State → State) (c : Nat × Word),
    lowest (stage1 s ++ causes) = some c → s.cur.inHandler = false → pendOk (me s) →
    let t := checked s ban causes eff
    (∃ d, sameRest { me s with detected := (me s).detected ++ [d] } (me t) ∧ d.pc = curPc s ∧ d.resume = curPc s
      ∧ d.deferred = false ∧ d.seq = s.seqNext ∧ d.time = s.time
      ∧ d.lanes = (lanesOf s.cur.mask).map fun l => { lane := l, cause := c.1, addr := none, syn := c.2 })
    ∧ t = { s with seqNext := s.seqNext + 1, warps := aput s.warps s.cur.warp (me t), cur := { s.cur with early := true } }
    ∧ quiet s t ∧ wrote (me s) (me t) (now s) [] ∧ ∀ l, staysPut (me s) (me t) l

/-- R346, R352, R353: the oldest detected fault of a warp whose cause enters a handler, with no load outstanding and a frame free,
enters it: the frame of the lowest free number is written from its first byte with the record, F, RESUME and g56 to g63, then the
latches; g60 holds the frame's address, g61 the cause, g62 the lanes; the lanes of F run at HENTRY; the latches are empty; the PC
table is as it was; and the record is published as handled. -/
def Obligations.FaultEntersHandler : Prop :=
  ∀ (k : Nat) (s : State) (d : Detected) (n : Nat) (s1 s2 : State),
    let w := warpAt s k
    let tm := teamAt s w.team
    let c := ctxAt s tm.ctx
    let l := lowestLane d.lanes
    w.exited = false → tm.status = .resident → w.detected = [d] → w.handler = none → w.tx = none → c.faulted = none → d.lanes ≠ [] →
    entersHandler c d.lanes = true → loadsDone s k = true → freeFrame c = some n → l.cause ≠ 0x47 →
    let r := faultRecord s k d 1 0 false true
    storeVa (putWarp s k (forgetWalks w)) tm.ctx (frameVa c n)
      (frameBytes r { d with pix := pixAt (settleAll w) d } (settleAll w) false 0) = .ok s1 →
    storeVa s1 tm.ctx (frameVa c n + 0x1000#64) (frameLatches (settleAll w)) = .ok s2 →
    ∃ t, exec (.faultTake k) s = .next t
      ∧ (∃ h, (warpAt t k).handler = some h ∧ h.f = faultMask d ∧ h.frame = n ∧ h.held = false
          ∧ h.runs = [{ pc := slotPc (w64 c.hentry) 0, mask := faultMask d }])
      ∧ greg (warpAt t k) 60 = frameVa c n ∧ greg (warpAt t k) 61 = w64 l.cause ∧ greg (warpAt t k) 62 = faultMask d
      ∧ (∀ r, r ≠ 60 → r ≠ 61 → r ≠ 62 → greg (warpAt t k) r = greg (settleAll w) r)
      ∧ (warpAt t k).latches = [] ∧ (warpAt t k).pcs = (warpAt s2 k).pcs ∧ (warpAt t k).detected = []
      ∧ (warpAt t k).v = (settleAll w).v ∧ (warpAt t k).p = (settleAll w).p
      ∧ n ∈ (ctxAt t tm.ctx).frames ∧ t.log.head? = some r

/-- R354: ERET in handler mode, with no store of the handler's lanes outstanding, returns: g56 to g63 and the latches come from the
frame, PIX too, the lanes of F go to RESUME where that is not 0, the frame is free and the warp is out of handler mode. R46: the
rendezvous points of its team are then looked at. -/
def Obligations.EretReturns : Prop :=
  ∀ (s : State) (h : Handler) (bs ls : List Byte), pendOk (me s) → clear s {} [] = true → s.cur.inHandler = true →
    (me s).handler = some h → h.gone = false → storesPending (settleMe s) s.cur.warp h.f = false →
    readVa s (myTeam s).ctx (frameVa (myCtx s) h.frame) 0x100 = .ok bs →
    readVa s (myTeam s).ctx (frameVa (myCtx s) h.frame + 0x1000#64) 4096 = .ok ls →
    let resume := w64 (leVal ((bs.drop 0x48).take 8))
    ∃ v t, exec .eret s = .next v ∧ v = checkPoints t (me s).team
      ∧ (me t).handler = none
      ∧ (∀ j, j < 8 → greg (me t) (56 + j) = w64 (leVal ((bs.drop (0x80 + 8 * j)).take 8)))
      ∧ (∀ r, r < 56 ∨ 64 ≤ r → greg (me t) r = greg (settleAll (issuing s)) r)
      ∧ (me t).pix = w32 (leVal ((bs.drop 0x50).take 4)) ∧ (me t).latches.length = h.depth
      ∧ (∀ l, bit h.f l = true → (∃ e ∈ (me s).pcs, bit e.mask l = true) → resume ≠ 0#64 → laneStands (me t) l resume none none)
      ∧ (myCtx t).frames = (myCtx s).frames.erase h.frame
      ∧ t = { s with warps := t.warps, ctxs := t.ctxs }

/-- R51, R201: LAUNCH by lane 0 of warp 0, its record aligned, its pages translated on this device, no store of the run outstanding:
an invalid record gives status 1 and no free grid entry status 2; otherwise status 0, and the child grid takes the lowest free entry
with the record as it stood, one level deeper, after what its launching team has outstanding, its parent counting one child more. -/
def Obligations.LaunchCreates : Prop :=
  ∀ (d a : BitVec 6) (q : QPred) (s : State) (g : Grid) (p1 p2 : Nat) (e1 e2 : Word),
    pendOk (me s) → clear s ⟨true, true⟩ [] = true → qpredHolds (issuing s) q = true →
    let va := greg (issuing s) a.toNat
    let c := myCtx s
    (me s).wid = 0 → bit s.cur.mask 0 = true → gridOf c (myTeam s).grid = some g → g.depth < 10 → va.toNat % 64 = 0 →
    storesPending (settleMe s) s.cur.warp s.cur.mask = false →
    translate (settleMe s) s.cur.warp .read va = .ok p1 e1 → translate (settleMe s) s.cur.warp .read (va + 255#64) = .ok p2 e2 →
    leafDev e1 = s.devnum → leafDev e2 = s.devnum →
    let pas := [(pageOf va, (fld e1 16 35).toNat * 65536), (pageOf (va + 255#64), (fld e2 16 35).toNat * 65536)]
    (∀ v : Word, va.toNat ≤ v.toNat → v.toNat < va.toNat + 256 →
      poisonCause s (aget 0 pas (pageOf v) + v.toNat % 65536) false = none) →
    let r := launchBytes s pas va
    let pc := nextPc s.cur (extWidth q)
    (recordBad s c r ≠ none → ∃ t, exec (.launch d a q) s = .next t ∧ passes s t pc none none (landAt (now s) [.g d.toNat 1#64]))
    ∧ (recordBad s c r = none → freeEntry c = none →
        ∃ t, exec (.launch d a q) s = .next t ∧ passes s t pc none none (landAt (now s) [.g d.toNat 2#64]))
    ∧ (recordBad s c r = none → ∀ e, freeEntry c = some e →
        let c' := setGrid c { g with children := g.children + 1 }
        let child := { newGrid e s.nextId 32 (g.depth + 1) g.prio (some (myTeam s).grid) r with
          after := ((s.accs.filter fun a => a.2.warp / 16 = (me s).team).map (·.1)) }
        let u := putCtx { s with nextId := s.nextId + 1 } (myTeam s).ctx { c' with grids := c'.grids ++ [child] }
        ∃ t, exec (.launch d a q) s = .next t ∧ passes u t pc none none (landAt (now s) [.g d.toNat 0#64]))

/-! ### The issue of memory accesses (chapters 6, 7, 11) -/

/-- R71, R229, R231 to R241, R191: a memory instruction whose lanes are in no region and pass the checks of stage 4, with room for a
further access, issues: it leaves one access with those lanes and their operands as they stood, its flag counts one more, and the
run goes on past it, held by WAITADD and WAITW until their lanes have registered; no register and no byte of memory changes yet. One
of no active lane leaves no access. -/
def Obligations.MemoryIssues : Prop :=
  ∀ (i : Instr) (s : State) (x : MemInstr) (as : List LaneAcc), memForm s i = some x →
    clear s x.ban x.causes = true → pendOk (me s) → crowded (settleMe s) x.acc.flag = false →
    (s.cur.inHandler = true ∨ ∀ t, (me s).tx = some t → ∀ l ∈ x.lanes (settleMe s), afind t.depth l = none) →
    reaches (settleMe s) x false as →
    let ls := as.map (x.fill (settleMe s))
    (as ≠ [] →
      ∃ t, exec i s = .next t ∧ quiet s t
        ∧ passes (opens s (issued s (me s) x) x.acc ls) t (nextPc s.cur 2) none (if x.holds then some s.nextId else none) [])
    ∧ (as = [] →
      ∃ t, exec i s = .next t ∧ quiet s t ∧ passes (setMe s (issued s (me s) x)) t (nextPc s.cur 2) none none [])

/-- R244, R435, R151: in a region a plain ST whose pages are there writes no memory: its lanes' bytes enter the store buffer where it
has room; a plain LD leaves an access whose lanes carry the bytes that the buffer holds for them, its units taken into the read set of a
TRY.G. R245, R362: a plain ST with a lane whose page is missing does not issue. -/
def Obligations.RegionBuffers : Prop :=
  ∀ (s : State) (tx : Tx), pendOk (me s) → (me s).tx = some tx → s.cur.inHandler = false →
    (∀ (sz : StSize) (o : LmOp) (as : List LaneAcc) (tx' : Tx),
      let x := stInstr s sz o
      clear s x.ban x.causes = true → crowded (settleMe s) x.acc.flag = false →
      (∀ l ∈ x.lanes (settleMe s), l < 64 ∧ (afind tx.depth l).isSome) → reaches (settleMe s) x true as →
      ((∃ a ∈ as, a.wait = true) → exec (.st sz o) s = .next { settleMe s with cur := { s.cur with held := true } })
      ∧ ((∀ a ∈ as, a.wait = false) → bufferStores tx x.form.ts (as.map (x.fill (settleMe s))) = (tx', 0#64) →
        ∃ t, exec (.st sz o) s = .next t ∧ quiet s t
          ∧ passes (setMe s { issued s (me s) x with tx := some tx' }) t (nextPc s.cur 2) none none []))
    ∧ (∀ (sz : LdSize) (o : LmOp) (as : List LaneAcc) (tx' : Tx),
      let x := ldInstr s sz o
      clear s x.ban x.causes = true → crowded (settleMe s) x.acc.flag = false → as ≠ [] →
      (∀ l ∈ x.lanes (settleMe s), l < 64 ∧ (afind tx.depth l).isSome) → reaches (settleMe s) x true as →
      (if tx.global && !x.form.ts then reserveReads tx as else (tx, 0#64)) = (tx', 0#64) →
      let ls := as.map fun a =>
        let b := buffered tx a.lane x.form.ts a.va.toNat x.form.unit
        { a with data := b.map (fun o => o.getD 0#8), data2 := b.map fun o => if o.isSome then 1#8 else 0#8 }
      ∃ t, exec (.ld sz o) s = .next t ∧ quiet s t
        ∧ passes (opens s { issued s (me s) x with tx := some tx' } x.acc ls) t (nextPc s.cur 2) none none [])

/-- R253, R254, R251: SEQ.RES and SEQ.CMT leave one access and send one request for each lane that has its translation, in lane
order; the sequence unit serves them later. R255 to R258: SEQ.BIND, SEQ.LEN, SEQ.FORK and SEQ.DROP send one request to the sequence
unit and the run waits past the instruction until it is answered; BIND of address 0 unbinds its register at once; one whose
predicate does not hold only goes on. -/
def Obligations.SequencesIssue : Prop :=
  (∀ (i : Instr) (s : State) (x : MemInstr) (as : List LaneAcc), seqForm s i = some x →
     clear s x.ban x.causes = true → pendOk (me s) → regionLanes s = 0#64 → crowded (settleMe s) x.acc.flag = false →
     (∀ a ∈ s.accs, a.1 < s.nextId) → reaches (settleMe s) x false as → as ≠ [] →
     let ls := as.map (x.fill (settleMe s))
     let ready := ls.filter fun l => l.live && !l.wait && !l.sent
     let sent := ls.map fun l => if l.wait then l else { l with sent := true }
     let a := opened s x.acc ls
     let u := opens s (issued s (me s) x) x.acc sent
     let reqs := ready.zipIdx.map fun p => squOfLane a (s.nextId + 1 + p.2) s.time p.1
     ∃ t, exec i s = .next t ∧ quiet s t
       ∧ passes { u with squ := s.squ ++ reqs, nextId := s.nextId + 1 + ready.length } t (nextPc s.cur 2) none none [])
  ∧ (∀ (i : Instr) (s : State) (op : SquOp) (dst : Nat) (a : BitVec 6) (child : Word) (x : UmExt),
       seqUniForm s i = some (op, dst, a, child, x) → clear s {} [] = true → pendOk (me s) →
       let va := greg (issuing s) a.toNat
       (qgovHolds (issuing s) x.gov = false →
         ∃ t, exec i s = .next t ∧ quiet s t ∧ passes s t (nextPc s.cur 2) none none [])
       ∧ (qgovHolds (issuing s) x.gov = true → op = .bind → va = 0#64 →
         ∃ t, exec i s = .next t ∧ quiet s t ∧ passes (setMe s (setQl (me s) dst {})) t (nextPc s.cur 2) none none [])
       ∧ (qgovHolds (issuing s) x.gov = true → (op = .bind → va ≠ 0#64) → va.toNat % 128 = 0 →
         ∀ pa e, translate (settleMe s) s.cur.warp .read va = .ok pa e →
         let r : SquReq := { id := s.nextId, op := op, desc := pa, va := va, child := child, scope := x.scope.toNat, warp := s.cur.warp
                             dst := dst, since := s.time, pc := curPc s, run := s.cur.mask }
         ∃ t, exec i s = .next t ∧ quiet s t
           ∧ passes { s with squ := s.squ ++ [r], nextId := s.nextId + 1 } t (nextPc s.cur 2) none (some s.nextId) []))

/-- R132, R234: LDS whose descriptor is attached, with every lane resolved to an element or to a status, leaves one access: a lane
with a status is complete with zeros, the others will read their element. R86: its length checks refresh the bound ql registers; R125,
R126: the lines that the resolution read count a use. With no active lane it leaves none. -/
def Obligations.LdsIssues : Prop :=
  ∀ (sz : StSize) (o : LmOp) (s s1 : State) (d : Nat),
    let n := stBytes sz
    let k := s.cur.warp
    let desc := seqVa o (settleMe s) 0
    let lanes := lmLanes o (settleMe s)
    clear s {} (regCauses s [vdst o.d (groupRegs n), vgroup (ldsStat o n) 1, vsrc o.a 2, vsrc o.b 1]) = true →
    pendOk (me s) → crowded (settleMe s) (flagOf o.flag) = false →
    (lanes = [] →
      ∃ t, exec (.lds sz o) s = .next t ∧ quiet s t
        ∧ passes (setMe s { me s with walkBad := [] }) t (nextPc s.cur 2) none none [])
    ∧ (lanes ≠ [] → regionLanes s1 = 0#64 → acqPending s k (lanes.foldl (fun m l => m ||| laneBit l) 0#64) = false →
      (∃ p e, translate (settleMe s) k .read desc = .ok p e) → attached (settleMe s) (warpCtx (settleMe s) k) desc = .ok (d, s1) →
      (∀ l ∈ lanes, ldsWhole (ldsOf s1 o n desc l).2 = true) →
      let ls := lanes.map fun l => ldsPart n (ldsOf s1 o n desc l).1 (ldsOf s1 o n desc l).2
      let s2 := (lanes.flatMap fun l =>
        ldsVas s1 k desc (leVal (((ldsOf s1 o n desc l).1.data.drop 8).take 8)) (ldsOf s1 o n desc l).2).foldl
          (fun s va => ldsUses s k va) s1
      let u := refreshQl { s2 with freeCtr := s2.freeCtr + 192 } k
      ∃ t, exec (.lds sz o) s = .next t ∧ quiet s t
        ∧ passes (keepAcc (setMe { u with nextId := u.nextId + 1 } (flagUp { me u with walkBad := [] } (flagOf o.flag)))
            { lmAcc o .lds n o.d.toNat with
              id := u.nextId, warp := k, pc := curPc s, issued := now s, lanes := ls, run := s.cur.mask })
            t (nextPc s.cur 2) none none [])

/-- R146, R242: a fence whose earlier accesses have taken effect, and, for a release, with no invalidation outstanding that its scope can
still see, lets its run go on; with an acquire of scope .reticle or wider the bound ql registers take the committed lengths.
While they have not, it does not issue. R241, R150: MBAR.WAIT with no earlier acquire nor write of the tile store of its lanes
outstanding: when every lane's ROUND differs from its value the run goes on as after an acquire; otherwise it parks past the instruction with the lanes that still wait.
-/
def Obligations.OrderWaits : Prop :=
  (∀ (i : Instr) (s : State) (scope : BitVec 3) (sel : AccKind → Bool) (rel acq : Bool),
     fenceForm i = some (scope, sel, rel, acq) → clear s ⟨true, false⟩ [] = true → pendOk (me s) →
     let done := accsDone s s.cur.warp s.cur.mask sel && !(rel && unseen s (warpRet s s.cur.warp) scope.toNat)
     (done = false → exec i s = .next { settleMe s with cur := { s.cur with held := true } })
     ∧ (done = true →
       ∃ t, exec i s = .next t ∧ quiet s t
         ∧ passes (if acq && 3 ≤ scope.toNat then refreshQl s s.cur.warp else s) t (nextPc s.cur 1) none none []))
  ∧ (∀ (o : LmOp) (s : State), clear s ⟨true, false⟩ (regCauses s [vsrc o.b 1]) = true → pendOk (me s) →
       acqPending s s.cur.warp s.cur.mask = false →
       (accsOf s s.cur.warp).any (fun a => a.ts && drains a && pendingMask a &&& s.cur.mask ≠ 0#64) = false →
       let s0 := settleMe s
       let va := lmAddr o (off6 o 16) s0
       (∀ l ∈ lmLanes o s0, (va l).toNat % 16 = 0 ∧ (va l).toNat < (myTeam s).tileb) →
       let wait := (lmLanes o s0).filterMap fun l =>
         let v := leVal (groupBytes (issuing s) o.b 4 l)
         if mbarRound (myTeam s) (va l).toNat = v then some (l, (va l).toNat, v) else none
       (wait = [] → ∃ t, exec (.mbarWait o) s = .next t ∧ quiet s t
         ∧ passes (refreshQl s s.cur.warp) t (nextPc s.cur 2) none none [])
       ∧ (wait ≠ [] → ∃ t, exec (.mbarWait o) s = .next t ∧ quiet s t
         ∧ passes s t (nextPc s.cur 2) (some (.mbar wait)) none []))

/-! ### Rendezvous and TRY regions (chapter 11) -/

/-- R240, R45, R46: an arrival whose run's earlier accesses have taken effect: BAR and BAR.cnt fix the count of the phase where none
is fixed and park the run past the instruction at the point; BAR.arv marks the run's lanes there and the run goes on. Of several that
fix a count in one aclk the lowest warp's stands. The point is then looked at, and nothing else changes. -/
def Obligations.BarsArrive : Prop :=
  ∀ (k : BitVec 5) (s : State), pendOk (me s) → accsDone s s.cur.warp s.cur.mask (fun _ => true) = true →
    (clear s ⟨true, true⟩ (barCauses s k) = true →
      let u := fixCount s k.toNat (myTeam s).nwarps true
      (∃ v, exec (.bar k) s = .next (checkPoint v (me s).team k.toNat) ∧ quiet s v
        ∧ passes u v (nextPc s.cur 1) (some (.bar k.toNat (curPc s))) none [])
      ∧ (let b := barPoint (myTeam u) k.toNat
         let b' := { b with marked := aput b.marked (me s).wid (aget 0#64 b.marked (me s).wid ||| s.cur.mask) }
         ∃ v, exec (.barArv k) s = .next (checkPoint v (me s).team k.toNat) ∧ quiet s v
          ∧ passes (setMyTeam u (setPoint (myTeam u) k.toNat b')) v (nextPc s.cur 1) none none []))
    ∧ ∀ b : BitVec 7, clear s ⟨true, true⟩ (barCauses s k ++ regCauses s [vsrc b 1]) = true →
        let n := ((srcRow (issuing s) b false).getD (lowBit s.cur.mask) 0#64).toNat % 2 ^ 32
        let old := fixedCount s k.toNat
        0 < n → n ≤ 16 → (old = 0 ∨ old = n) →
        ∃ v, exec (.barCnt k b) s = .next (checkPoint v (me s).team k.toNat) ∧ quiet s v
          ∧ passes (fixCount s k.toNat n false) v (nextPc s.cur 1) (some (.bar k.toNat (curPc s))) none []

/-- R46, R240: a rendezvous point at which as many warps have arrived as its count says completes: its next phase begins with no
count and no mark, and no run of the team stays parked at it. One at which fewer have arrived, and enough still can, is as it was.
-/
def Obligations.RendezvousCompletes : Prop :=
  ∀ (s : State) (t k n : Nat) (dflt : Bool),
    let x := teamAt s t
    let b := barPoint x k
    k < x.bars.length → x.nwarps ≤ 16 → b.count = some (n, dflt) →
    let ks := teamWarps t x
    let arrived := ks.filter fun i => warpArrived (warpAt s i) b k || (dflt && (warpAt s i).exited)
    (n ≤ arrived.length →
      barPoint (teamAt (checkPoint s t k) t) k = { phase := b.phase + 1, count := none, marked := [] }
      ∧ (∀ j, j ≠ k → barPoint (teamAt (checkPoint s t k) t) j = barPoint x j)
      ∧ (∀ i ∈ ks, ∀ e ∈ (warpAt (checkPoint s t k) i).pcs, ∀ p, e.park = some p → parkedAt k p = false)
      ∧ (checkPoint s t k).mem = s.mem)
    ∧ (arrived.length < n → (dflt = true ∨ n ≤ (ks.filter fun i => !(warpAt s i).exited || warpArrived (warpAt s i) b k).length) →
      checkPoint s t k = s)

/-- R243: TRY with no open instance opens one over the lanes of its run, each at depth 1, with its checkpoint, and the run goes on.
Met by lanes of the open instance it deepens them; by lanes outside it while it is open, they go to the target with TSTAT code 8 and
no latches. R243, R247: an inner COMMIT lowers the depth of its run's lanes and the run goes on; at the ending one the run parks
past the instruction until every lane of the instance has reached it. Nothing is stored yet. -/
def Obligations.RegionsOpen : Prop :=
  (∀ (g tt ww : Bool) (off : BitVec 17) (i : Instr) (s : State), pendOk (me s) → clear s ⟨false, true⟩ [] = true →
     (i = .tryG tt ww off ∧ g = true ∨ i = .tryL ww off ∧ g = false ∧ tt = false) →
     let target := pktTarget s.cur.pkt off
     ((me s).tx = none →
       ∃ t, exec i s = .next t ∧ quiet s t
         ∧ passes (setMe s { me s with tx := some (openTx (settleMe s) g tt ww target) }) t (nextPc s.cur 1) none none [])
     ∧ (∀ x, (me s).tx = some x →
       (s.cur.mask ≠ 0#64 → s.cur.mask &&& ~~~txLanes (me s) = 0#64 → x.global = g → (∀ d ∈ x.depth, bit s.cur.mask d.1 = true → d.2 < 7) →
         let x' := { x with depth := x.depth.map fun d => if bit s.cur.mask d.1 then (d.1, d.2 + 1) else d }
         ∃ t, exec i s = .next t ∧ quiet s t ∧ passes (setMe s { me s with tx := some x' }) t (nextPc s.cur 1) none none [])
       ∧ (s.cur.mask ≠ 0#64 → s.cur.mask &&& txLanes (me s) = 0#64 →
         ∃ t, exec i s = .next t ∧ (me t).latches = [] ∧ (me t).seed = (me s).seed
           ∧ passes (setMe s (setTstat (me s) s.cur.mask fun _ => tstatVal 8 0 0)) t target none none [])))
  ∧ (∀ (g : Bool) (scope : BitVec 3) (i : Instr) (s : State) (x : Tx), pendOk (me s) → (me s).tx = some x →
       clear s ⟨false, true⟩ (commitCauses s scope) = true →
       (i = .commitL scope ∧ g = false ∨ i = .commitG scope ∧ g = true) →
       ((∀ l, bit s.cur.mask l = true → 1 < aget 0 x.depth l) →
         let x' := { x with depth := x.depth.map (fun d => if bit s.cur.mask d.1 && 1 < d.2 then (d.1, d.2 - 1) else d) }
         ∃ t, exec i s = .next t ∧ quiet s t ∧ passes (setMe s { me s with tx := some x' }) t (nextPc s.cur 1) none none [])
       ∧ (s.cur.mask ≠ 0#64 → (∀ l, bit s.cur.mask l = true → aget 0 x.depth l = 1) →
         let x' := { x with depth := x.depth.map (fun d => if bit s.cur.mask d.1 && 1 < d.2 then (d.1, d.2 - 1) else d)
                            reached := x.reached ||| s.cur.mask, scope := scope.toNat, byG := g, leaseAt := some (now s), endPc := curPc s }
         ∃ t, exec i s = .next t ∧ quiet s t
           ∧ passes (setMe s { me s with tx := some x' }) t (nextPc s.cur 1) (some (.commit g scope.toNat)) none []))

/-- R246, R248, R249: ABORT of lanes of an open instance, every one of it where WW = 1: their v and p registers read as the
checkpoint has them from then on, their TSTAT holds code 1, IMM8 and their depth, they stand at the region's target and have left
the instance; the other lanes' registers are as they were, the latches are empty unless iterations of a REP have still to issue, and memory is as it
was. ABORT of a run in no
instance only goes on. R249, R250: TSTAT and TBUF.READ write their registers at once, in the lanes of the run: the lane's TSTAT, and
the four words of the store-buffer entry that the lane's selector names; the run goes on and nothing else changes. -/
def Obligations.RegionsAbort : Prop :=
  (∀ (imm : BitVec 8) (s : State), pendOk (me s) → clear s {} [] = true → (me s).handler = none →
     let m := if ((me s).tx.map (·.ww)).getD false then txLanes (me s) else txLanes (me s) &&& s.cur.mask
     (txLanes (me s) &&& s.cur.mask = 0#64 →
       ∃ t, exec (.abort imm) s = .next t ∧ quiet s t ∧ passes s t (nextPc s.cur 1) none none [])
     ∧ (∀ x, (me s).tx = some x → (∀ d ∈ x.depth, d.1 < 64) → txLanes (me s) &&& s.cur.mask ≠ 0#64 → s.cur.inHandler = false →
       ∃ t, exec (.abort imm) s = .next t ∧ t.mem = s.mem ∧ t.hostMem = s.hostMem
         ∧ ((∀ r, (me s).rep = some r → r.start + r.steps.length ≤ aclkAt s (teamAt s (me s).team).core) → (me t).latches = [])
         ∧ (∀ l, bit m l = true →
             (∀ T r, vAt (me t) T r l = laneAt (aget zeroRow x.ckV r) l)
             ∧ (∀ T r, r ≠ 0 → pAt (me t) T r l = bit (aget 0#64 x.ckP r) l)
             ∧ aget 0#32 (me t).tstat l = tstatVal 1 imm.toNat (aget 0 x.depth l)
             ∧ bit (txLanes (me t)) l = false
             ∧ heldBy (me t) l = none ∧ ∀ e ∈ (me t).pcs, bit e.mask l = true → e.pc = x.target ∧ e.park = none)
         ∧ (∀ l, l < 64 → bit m l = false → ∀ T, now s ≤ T →
             (∀ r, vAt (me t) T r l = vAt (me s) T r l) ∧ ∀ r, pAt (me t) T r l = pAt (me s) T r l)
         ∧ (m = txLanes (me s) → (me t).tx = none ∧ ∀ T r, gAt (me t) T r = aget 0#64 x.ckG r)))
  ∧ (∀ (d a : BitVec 7) (s : State), pendOk (me s) →
       (clear s {} (regCauses s [vdst d 1]) = true →
         ∃ t, exec (.tstat d) s = .next t ∧ quiet s t
           ∧ passes s t (nextPc s.cur 1) none none
               (landAt (now s) [.v d.toNat s.cur.mask (lanes.map fun l => aget 0#32 (me s).tstat l)]))
       ∧ (clear s {} (regCauses s [vdst d 4, vsrc a 1]) = true →
         let stores := ((me s).tx.map (·.stores)).getD []
         let quad := fun l => tbufQuad stores ((srcRow (issuing s) a false).getD l 0#64).toNat
         ∃ t, exec (.tbufRead d a) s = .next t ∧ quiet s t
           ∧ passes s t (nextPc s.cur 1) none none
               (landAt (now s) ((List.range 4).map fun j =>
                 .v (d.toNat + j) s.cur.mask (lanes.map fun l => (quad l).getD j 0#32)))))

/-! ### Tiles, requests, the matrix unit and chains (chapters 6 and 12) -/

/-- R273, R120, R122: each TILE instruction answers in its g registers, 4 aclk after its issue: ALLOC takes the lowest free entry,
or says that the tag is there, that no entry is free, that the range is taken or beyond the team's bytes, the last three with an entry
number that the spec does not state (log 5), whatever it is; FIND names the team's
entry of a tag with its state; INV empties an entry with no reader and REL frees an idle one; STAT reads an entry. Nothing but the
table and those registers changes; with a false predicate nothing does. -/
def Obligations.TilesAnswer : Prop :=
  ∀ (s : State) (d a b : BitVec 6) (q : QPred), pendOk (me s) →
    let c := s.cur.core
    let pc := nextPc s.cur (extWidth q)
    let place := (myTeam s).place
    let tag := tagOf (greg (issuing s) a.toNat) (greg (issuing s) (a.toNat + 1))
    let e := (greg (issuing s) a.toNat).toNat % 256
    let x := tileAt s c e
    let gives := fun (i : Instr) (u : State) (ws : List PWrite) =>
      ∃ t, exec i s = .next t ∧ quiet s t ∧ passes u t pc none none (landAt (now s + 4) ws)
    let reply := fun (n : Nat) => [PWrite.g d.toNat (w64 n)]
    let free := { s with freeCtr := s.freeCtr + 1 }
    let some_ := (Config.freeWord s.freeCtr).toNat % 256
    (clear s {} (gpairCauses a) = true →
      (qpredHolds (issuing s) q = false → gives (.tileAlloc d a b q) s [] ∧ gives (.tileFind d a q) s [])
      ∧ (qpredHolds (issuing s) q = true →
        (∀ n, (teamTiles s c place).find? (fun e => tileTag e.2 = tag) = some n →
          gives (.tileAlloc d a b q) s (reply (n.1 + 0x200)) ∧ gives (.tileFind d a q) s (reply (n.1 + 0x10000 * tileState n.2)))
        ∧ ((teamTiles s c place).find? (fun e => tileTag e.2 = tag) = none →
          gives (.tileFind d a q) s (reply 0x500)
          ∧ (let entry := (List.range 256).find? fun e => !tileAlloc (tileAt s c e)
             let off := (fld (greg (issuing s) b.toNat) 0 10).toNat
             let size := (fld (greg (issuing s) b.toNat) 16 6).toNat
             let lo := 1024 * off
             let hi := lo + 1024 * (size + 1)
             let taken := (teamTiles s c place).any fun y => tileOff y.2 < hi && lo < tileOff y.2 + tileSize y.2
             (entry = none → gives (.tileAlloc d a b q) free (reply (some_ + 0x100)))
             ∧ ∀ n, entry = some n →
               (taken = true → gives (.tileAlloc d a b q) free (reply (some_ + 0x300)))
               ∧ (taken = false → (myTeam s).tileb < hi → gives (.tileAlloc d a b q) free (reply (some_ + 0x400)))
               ∧ (taken = false → hi ≤ (myTeam s).tileb →
                   gives (.tileAlloc d a b q) (putTile s c n (newTile tag place off size)) (reply n))))))
    ∧ (clear s {} [] = true →
      (qpredHolds (issuing s) q = false → gives (.tileInv d a q) s [] ∧ gives (.tileRel d a q) s [])
      ∧ (qpredHolds (issuing s) q = true →
        (tileOwned x place = false → gives (.tileInv d a q) s (reply (e + 0x700)) ∧ gives (.tileRel d a q) s (reply (e + 0x700)))
        ∧ (tileOwned x place = true →
          (tileState x ≠ 1 → tileState x ≠ 3 →
            (tilePendR x ≠ 0 → gives (.tileInv d a q) s (reply (e + 0x600)))
            ∧ (tilePendR x = 0 → gives (.tileInv d a q) (putTile s c e (setState x 0)) (reply e)))
          ∧ (let busy := tilePendW x ≠ 0 ∨ tilePendR x ≠ 0 ∨ tileBusy s c (me s).team e = true
             (busy → gives (.tileRel d a q) s (reply (e + 0x600)))
             ∧ (¬ busy → gives (.tileRel d a q) (putTile s c e 0#128) (reply e))))))
    ∧ (clear s {} (gpairCauses d) = true →
      (qpredHolds (issuing s) q = false → gives (.tileStat d a q) s [])
      ∧ (qpredHolds (issuing s) q = true →
        let y := if tileOwned x place then x else 0#128
        gives (.tileStat d a q) s [.g d.toNat (fld y 0 64), .g (d.toNat + 1) (fld y 64 64)]))

/-- R274, R71: RQ.KICK of 1 to 256 aligned records within the team's tile store, with room in the engine and the run's earlier work
done, puts them in the engine's queue in order with their bytes as they stood, counts each on its flag, and the run goes on. -/
def Obligations.KickQueues : Prop :=
  ∀ (a b : BitVec 6) (q : QPred) (s : State), pendOk (me s) → clear s {} [] = true →
    (qpredHolds (issuing s) q = false →
      ∃ t, exec (.rqKick a b q) s = .next t ∧ quiet s t ∧ passes s t (nextPc s.cur (extWidth q)) none none [])
    ∧ (qpredHolds (issuing s) q = true →
      let off := (greg (issuing s) a.toNat).toNat
      let n := (greg (issuing s) b.toNat).toNat
      let c := coreAt s s.cur.core
      let rs := kickReqs (settleMe s) off n
      0 < n → n ≤ 256 → off % 64 = 0 → off + 64 * n ≤ (myTeam s).tileb →
      c.reqs.length + n ≤ 256 → kickOverflow (me s) rs = false → drainPending s s.cur.warp = false →
      accsDone s s.cur.warp s.cur.mask (fun _ => true) = true →
      ∃ t, exec (.rqKick a b q) s = .next t ∧ quiet s t
        ∧ passes (setMe { putCore s s.cur.core { c with reqs := c.reqs ++ rs } with nextId := s.nextId + n }
            (rs.foldl (fun w r => flagUp w r.flag) (me s))) t (nextPc s.cur (extWidth q)) none none [])

/-- R262, R266, R268, R42: an MMA that finds its tile ready, room in the queue and the run's tile-store stores done, with A captured
as it stands: without a gang it enters the matrix queue and its claim ends; with one it enters its team's latch. The tile counts a
reader more, once for a gang, the flag counts one more and the reuse latch is set or cleared. R261, R270, R271: ACLR binds its
accumulator to the team and enters the queue; DRAIN of an idle ready tile that is large enough enters it with its scale address and
the generator's state, which advances past the elements it will round. -/
def Obligations.MatrixQueues : Prop :=
  (∀ (o : MmaOp) (s : State), pendOk (me s) → clear s ⟨true, true⟩ (mmaHeld s o ++ mxCause (mmaUse s o)) = true →
     let core := s.cur.core
     let e := (greg (issuing s) o.tg.toNat).toNat % 256
     let x := tileAt s core e
     tileOwned x (myTeam s).place = true → tileState x = 2 → mmaBytes o (slotReg (me s) o.sb.toNat) ≤ tileSize x →
     mxRoom (coreAt s core) = true → crowded s (flagOf o.flag) = false → tileStoresDone s s.cur.warp s.cur.mask = true →
     let rows := match (me s).reuse with | some r => r.rows | none => mmaCapture (issuing s) o.a.toNat
     let w := flagUp { usePix (me s) s.cur with reuse := nextReuse (me s) o rows } (flagOf o.flag)
     let h : Held := { wid := w.wid, op := o, tile := e, rows := rows, at_ := now s, pc := curPc s, run := s.cur.mask
                       units := unitsDone (me s) s.cur }
     let read := fun s => readTile s core e true
     (o.gs = 0#3 →
       let item : MxItem := { team := (me s).team, warp := s.cur.warp, pc := curPc s, run := s.cur.mask, work := .mma o [h] e 0
                              flag := flagOf o.flag }
       let u := read (setMe s (spendTokens w))
       ∃ t, exec (.mma o) s = .next t ∧ quiet s t
         ∧ passes (putCore u core { coreAt u core with queue := (coreAt u core).queue ++ [item] }) t (nextPc s.cur 2) none none [])
     ∧ (o.gs ≠ 0#3 → (∀ y ∈ gangHeld s (me s).team (me s).gang, heldDiffer y h = none) →
       let u := putTeam (setMe s w) (me s).team { myTeam s with latch := (myTeam s).latch ++ [h] }
       ∃ t, exec (.mma o) s = .next t ∧ quiet s t
         ∧ passes (if gangHeld s (me s).team (me s).gang = [] then read u else u) t (nextPc s.cur 2) none none []))
  ∧ (∀ (s : State), pendOk (me s) → mxRoom (coreAt s s.cur.core) = true →
       let core := s.cur.core
       let queued := fun (u : State) (item : MxItem) =>
         putCore u core { coreAt u core with queue := (coreAt u core).queue ++ [item] }
       (∀ acc : BitVec 2, clear s ⟨true, true⟩ (mxCause (aclrUse s acc)) = true →
         (∀ u, afind (coreAt s core).accTeam acc.toNat = some u → u = (me s).team) →
         ∃ t, exec (.aclr acc) s = .next t ∧ quiet s t
           ∧ passes (queued (bindAcc s core (me s).team acc.toNat)
               { team := (me s).team, warp := s.cur.warp, pc := curPc s, run := s.cur.mask, work := .aclr acc.toNat })
               t (nextPc s.cur 1) none none [])
       ∧ (∀ o : DrainOp, clear s ⟨true, true⟩ (mxCause (drainUse s o)) = true →
         let e := (greg (issuing s) o.tg.toNat).toNat % 256
         let x := tileAt s core e
         let sl := slotReg (me s) o.slot.toNat
         let sg := (greg (issuing s) o.sg.toNat).toNat
         (drainScales o sl = 0 ∨ sg + drainScales o sl ≤ (myTeam s).tileb) →
         tileOwned x (myTeam s).place = true → tileState x = 2 → tilePendR x = 0 → mxNames s core (me s).team e = false →
         o.units.toNat * 32 * drainRow o sl ≤ tileSize x → crowded s (flagOf o.flag) = false →
         tileStoresDone s s.cur.warp s.cur.mask = true →
         ∃ t, exec (.drain o) s = .next t ∧ (me t).latches = (me s).latches
           ∧ (me t).seed = (srSteps (drainSteps o sl) (me s).seed).2
           ∧ passes (queued (setMe s (spendTokens (flagUp (me s) (flagOf o.flag))))
               { team := (me s).team, warp := s.cur.warp, pc := curPc s, run := s.cur.mask, work := .drain o e sg
                 seed := (me s).seed, flag := flagOf o.flag }) t (nextPc s.cur 2) none none []))

/-- R281, R282, R283, R88: CHAIN of a valid record, its tile ready where it names one, the run's earlier work done and, for an acquire,
no write unseen at its scope, starts on the core at element 0, or at the one that %PIX names for it, with its count, its bytes and the
generator's state as they stood, its first unit charged; its flag counts one more and its claim ends. -/
def Obligations.ChainStarts : Prop :=
  ∀ (o : ChainOp) (s : State), pendOk (me s) → clear s ⟨true, true⟩ [] = true →
    let off := (greg (issuing s) o.rg.toNat).toNat
    let n := (greg (issuing s) o.ng.toNat).toNat
    let bs := memBytes (myTeam s).tile off 64
    let tent := chainField bs 0x1F 1
    let cord := chainField bs 0x1D 1
    let slot := slotReg (me s) (chainField bs 0x1A 1)
    let c := coreAt s s.cur.core
    let first := unitsDone (me s) s.cur
    n < 16777216 → off % 64 = 0 → off + 64 ≤ (myTeam s).tileb → chainBad s bs = none →
    (tent = 0xFF ∨ tileState (tileAt s s.cur.core tent) = 2) →
    (cord % 2 = 1 → unseen s (reticleOf s.cur.core) (cord / 4 % 8) = false) →
    crowded s (flagOf o.flag) = false → drainPending s s.cur.warp = false →
    accsDone s s.cur.warp s.cur.mask (fun _ => true) = true →
    let ch : Chain := { id := s.nextId, team := (me s).team, warp := s.cur.warp, pc := curPc s, run := s.cur.mask, port := s.cur.port
                        bytes := bs, count := n, flag := flagOf o.flag, seed := (me s).seed, since := s.time
                        next := first, paid := (first / 1024 + 1) * 1024 }
    ∃ t, exec (.chain o) s = .next t ∧ (me t).latches = (me s).latches
      ∧ (me t).seed = (srSteps (if slotRnd slot = .stochastic then n - first else 0) (me s).seed).2
      ∧ passes (setMe { putCore s s.cur.core { c with chains := c.chains ++ [ch] } with nextId := s.nextId + 1 }
          (spendTokens (flagUp (usePix (me s) s.cur) (flagOf o.flag)))) t (nextPc s.cur 2) none none []

/-! ### Accesses taking effect (chapters 7 and 11) -/

/-- R139, R141, R229, R231, R239: a plain load of one lane reads the bytes that its location holds, in the tile store or in memory,
and stores nothing; its value returns to the destination register alone, widened as its size says, and its flag counts down. Where
the data is uncorrectable the lane is struck with the cause and the load ends. WAITW reads its word: a true condition registers
nothing, a false one registers a waiter, re-read every microsecond where its home's watch list is full. -/
def Obligations.LoadsTakeEffect : Prop :=
  ∀ (s : State) (n : Nat) (a : Acc) (l : LaneAcc),
    (servesOne s n a l → ∀ pa, l.pas = [pa] →
      let ours := a.ts = false ∧ l.dev = s.devnum ∧ poisonCause s pa false = none
      (∀ sg, a.kind = .load sg → l.data2 = [] →
        (a.ts = true ∨ (ours ∧ (warpAt s a.warp).tx = none ∧ ∀ x, lineAt s (lineOf pa) = some x → x.replicas = [])) →
        let bytes := if a.ts then memBytes (teamAt s (warpAt s a.warp).team).tile pa a.bytes else memBytes s.mem pa a.bytes
        ∃ t, exec (.loadServe n) s = .next t ∧ t.mem = s.mem ∧ t.teams = s.teams
          ∧ accAt t n = some { a with lanes := [{ l with res := bytes, done := true }] })
      ∧ (∀ sg c, a.kind = .load sg → a.ts = false → l.dev = s.devnum → l.lane < 64 → poisonCause s pa false = some c →
        ∃ t, exec (.loadServe n) s = .next t ∧ t.mem = s.mem ∧ accAt t n = none ∧ struck s t a.warp c (laneBit l.lane))
      ∧ ∀ c ty, a.kind = .waitw c ty → ours →
        let met := waitHolds c (ival (atySigned ty) (8 * a.bytes) (leVal (memBytes s.mem pa a.bytes)))
          (ival (atySigned ty) (8 * a.bytes) (leVal l.data))
        ∃ t, exec (.loadServe n) s = .next t ∧ t.mem = s.mem ∧ accAt t n = none
          ∧ (met = true → t.watches = s.watches)
          ∧ (met = false →
              let full := s.watchCap ≤ (s.watches.filter fun x => x.poll.isNone && x.tag.isNone
                && watchSlice t x.pa = watchSlice t pa).length
              t.watches = s.watches ++ [{ id := s.nextId, warp := a.warp, lane := l.lane, pa := pa, bytes := a.bytes, cond := c
                                          ty := ty, value := leVal l.data, poll := if full then some (s.time + 1000) else none }]))
    ∧ ∀ sg, accAt s n = some a → a.id = n → a.lanes = [l] → a.kind = .load sg → l.live = true → l.done = true → l.mute = false →
        a.bytes ≤ 4 → l.res.length = a.bytes → l.lane < 64 → a.dst < a.cap →
        ∃ t, exec (.loadDataReturn n) s = .next t ∧ t.mem = s.mem ∧ accAt t n = none ∧ (warpAt t a.warp).flags = flagsAfter s a
          ∧ vreg (warpAt t a.warp) a.dst l.lane = w32 (if sg then wrapN 32 (sval (8 * a.bytes) (leVal l.res)) else leVal l.res)
          ∧ ∀ r m, m < 64 → (r ≠ a.dst ∨ m ≠ l.lane) → vreg (warpAt t a.warp) r m = vreg (warpNow s a.warp) r m

/-- R139, R236, R237, R149: a store of one lane writes its bytes at its location and nowhere else, and its flag counts down; ATOM
and RED replace the old value by the one that Table 11-2 gives, ATOM keeping the old one for its lane. Two REDs of one operation on
one location merge into one with both operands. -/
def Obligations.StoresPerform : Prop :=
  ∀ (s : State) (n : Nat) (a : Acc) (l : LaneAcc),
    (servesOne s n a l → ∀ pa, l.pas = [pa] →
      let w := warpAt s a.warp
      (a.kind = .store → a.ts = true →
        ∃ t, exec (.storePerform n) s = .next t ∧ t.mem = s.mem ∧ accAt t n = none ∧ (warpAt t a.warp).flags = flagsAfter s a
          ∧ (teamAt t w.team).tile = memWrite (teamAt s w.team).tile pa l.data)
      ∧ (a.ts = false → l.dev = s.devnum → storeRejected s pa = none → stackDead s pa = false →
        writable s (lineOf pa) l.prop = true →
        let old := memBytes s.mem pa a.bytes
        (a.kind = .store → tierFails s pa = none → l.data.length = a.bytes →
          ∃ t, exec (.storePerform n) s = .next t ∧ t.mem = memWrite s.mem pa l.data ∧ accAt t n = none
            ∧ (warpAt t a.warp).flags = flagsAfter s a)
        ∧ (∀ op ty, a.kind = .atom op ty → poisonCause s pa true = none →
          ∃ t, exec (.storePerform n) s = .next t
            ∧ t.mem = memWrite s.mem pa (bytesOf a.bytes (atomNew op ty (leVal old) (leVal l.data) (leVal l.data2)))
            ∧ accAt t n = some { a with lanes := [{ l with res := old, done := true }] })
        ∧ (∀ op ty, a.kind = .red op ty → poisonCause s pa true = none →
          ∃ t, exec (.storePerform n) s = .next t ∧ accAt t n = none
            ∧ t.mem = memWrite s.mem pa (bytesOf a.bytes (atomNew (redAtom op) ty (leVal old) (leVal l.data) 0)))))
    ∧ ∀ k b m op ty, accAt s n = some a → accAt s k = some b → a.id = n → b.id = k → a.lanes = [l] → b.lanes = [m] →
        mayMerge s a b = true → a.kind = .red op ty →
        let data := bytesOf a.bytes (atomNew (redAtom op) ty (leVal m.data) (leVal l.data) 0)
        exec (.redMerge n k) s
          = .next (putAcc (putAcc s { b with lanes := [{ m with data := data }] }) { a with merged := true, tag := some k })

/-- R202, R203, R67, R68, R69, R72, R83, R239, R429: the ends of waits. A sleep and a time slot wake the runs whose time has come
and no other; a bind or packet hold that lapses frees its port and empties the last warp's latches; freed blocks go to the oldest
request, and to none while it does not fit; a deadlock takes the emergency set; a re-read wakes its lane or comes again after 1 us;
and a breakpoint stops its context before the instruction issues. -/
def Obligations.WaitsEnd : Prop :=
  ∀ (s : State),
    (∀ k, let T := timeAt s (teamAt s (warpAt s k).team).core
      (∃ t, exec (.sleepWake k) s = .next t ∧ onlyRuns s t k
        ∧ woken (fun p => match p with | .sleep x => decide (x ≤ T) | _ => false) (warpAt s k).pcs (warpAt t k).pcs)
      ∧ ∃ t, exec (.tsyncWake k) s = .next t ∧ onlyRuns s t k
        ∧ woken (fun p => match p with | .tsync x => decide (x ≤ T) | _ => false) (warpAt s k).pcs (warpAt t k).pcs)
    ∧ (∀ c j, j < 2 → let p := portAt s c j
      let freed := fun t => (portAt t c j).bound = none ∧ (portAt t c j).nbound = 0 ∧ t.mem = s.mem
        ∧ ∀ k, p.last = some k → (warpAt s k).native = true → (warpAt s k).exited = false → (warpAt t k).latches = []
      (p.bound.isSome = true → p.boundAt + 16 < aclkAt s c → ∃ t, exec (.bindLapse c j) s = .next t ∧ freed t)
      ∧ (p.hold.isSome = true → p.holdAt + 16 ≤ aclkAt s c →
        ∃ t, exec (.packetHoldEnd c j) s = .next t ∧ freed t ∧ (portAt t c j).hold = none))
    ∧ (∀ c a rest, let x := coreAt s c
      let given := fun t => (warpAt t a.warp).blocks = (warpAt s a.warp).blocks + a.n
        ∧ ∀ e ∈ (warpAt t a.warp).pcs, e.mask &&& a.run ≠ 0#64 → e.park ≠ some .ralloc
      x.allocs = a :: rest → (warpAt s a.warp).exited = false →
      (x.free < a.n → exec (.rallocGrant c) s = .next s)
      ∧ (a.n ≤ x.free → (∀ b ∈ rest, (warpAt s b.warp).exited = false ∧ x.free - a.n < b.n) →
        ∃ t, exec (.rallocGrant c) s = .next t ∧ given t ∧ coreAt t c = { x with free := x.free - a.n, allocs := rest })
      ∧ (deadlocked s c = true → a.n ≤ x.free + x.emerg →
        ∃ t, exec (.emergencyGrant c) s = .next t ∧ given t
          ∧ coreAt t c = { x with free := 0, emerg := x.emerg - (a.n - x.free), granting := true, allocs := rest }))
    ∧ (∀ n x T, (s.watches.find? fun y => y.id = n) = some x → x.poll = some T → T ≤ s.time →
      (watchMet x (memBytes s.mem x.pa x.bytes) = true →
        ∃ t, exec (.watchReread n) s = .next t ∧ t.mem = s.mem ∧ t.watches = s.watches.filter (fun y => y.id ≠ n)
          ∧ ∀ e ∈ (warpAt t x.warp).pcs, ∀ m, e.park = some (.watch m) → bit e.mask x.lane = true → bit m x.lane = false)
      ∧ (watchMet x (memBytes s.mem x.pa x.bytes) = false →
        exec (.watchReread n) s = .next { s with
          watches := s.watches.map fun y => if y.id = n then { y with poll := some (s.time + 1000) } else y }))
    ∧ ∀ k b pc, let cn := warpCtx s k
      let c := ctxAt s cn
      warpsAtBp s cn = [(k, pc, b)] → bit (w64 (dbgReg c 0x60)) 0 = true → c.dbgBusy = false → c.halted = false →
      c.stepping = none →
      ∃ t, exec (.breakpointHit k b) s = .next t ∧ t.warps = s.warps ∧ t.mem = s.mem
        ∧ t.agenda = (residentTeams s cn).map (fun u => Todo.event (.preemptRequest u)) ++ s.agenda
        ∧ (let d := ctxAt t cn
           d.dbgBusy = true ∧ d.stopped = true ∧ d.dbgWhy = 2 ∧ d.dbgIndex = b ∧ dbgReg d 0x70 = (teamAt s (warpAt s k).team).index
           ∧ dbgReg d 0x78 = (teamAt s (warpAt s k).team).grid ∧ dbgReg d 0x7A = (warpAt s k).wid)

/-- R252, R253, R256, R247, R151, R152: a sequence request is one step. SEQ.RES of a dropped, full or over-long sequence gives its
RLEN with status 4, 1 or 2 and changes nothing; one whose chunks are all resident reserves its slots. SEQ.LEN gives CLEN. At the end
of a TRY region, with its leases held and nothing conflicting, the buffered bytes are stored, TSTAT is 0 and the region is over;
leases not held within 2,048 aclk abort it with code 10. -/
def Obligations.SequencesAndRegionsEnd : Prop :=
  ∀ (s : State),
    (∀ n r d, (s.squ.find? fun x => x.id = n) = some r → squTurn s r = true → attached s (warpCtx s r.warp) r.va = .ok (d, s) →
      let q := seqAt s d
      (∀ m a l, r.op = .res → r.acc = some m → accAt s m = some a → a.kind = .seqRes → a.id = m → a.lanes = [l] → r.lane = some l.lane → l.live = true →
        let gives := fun (st : Nat) (q' : Seq) => ∃ t, exec (.squServeRequest n) s = .next t ∧ seqAt t d = q'
          ∧ accAt t m = some { a with lanes := [{ l with res := bytesOf 8 q.rlen, stat := st, done := true }] }
        let N := descField s d 0x10 8 * slotsPerChunk s d
        (q.dropped = true → gives 4 q)
        ∧ (q.dropped = false → q.clen + 4096 < q.rlen + r.count → gives 1 q)
        ∧ (q.dropped = false → q.rlen + r.count ≤ q.clen + 4096 → N < q.rlen + r.count → gives 2 q)
        ∧ ∀ cs, q.dropped = false → q.rlen + r.count ≤ q.clen + 4096 → q.rlen + r.count ≤ N →
            squChunks s (warpCtx s r.warp) d (chunkSpan (slotsPerChunk s d) q.rlen r.count) = .ok cs →
            (∀ c ∈ cs, ∃ x, c.2 = some x ∧ x.res = true) → gives 0 { q with rlen := q.rlen + r.count })
      ∧ (r.op = .len → squHeld s r = true →
        ∃ t, exec (.squServeRequest n) s = .next t ∧ t.mem = s.mem ∧ greg (warpAt t r.warp) r.dst = w64 q.clen
          ∧ t.squ = s.squ.filter fun x => x.id ≠ r.id))
    ∧ ∀ k x, (warpAt s k).tx = some x → commitReady s k = true →
      (∀ e, x.stores = [e] → x.reads = [] → e.ts = false → e.dev = s.devnum → e.lane < 64 → leasesFree s k x = true →
        storeRejected s e.pa = none → stackDead s e.pa = false → unseen s (warpRet s k) x.scope = false →
        (ctxAt s (warpCtx s k)).dbg = [] →
        let old := memBytes s.mem e.pa 16
        ∃ t, exec (.commitLeasesHeld k) s = .next t ∧ (warpAt t k).tx = none
          ∧ t.mem = memWrite s.mem e.pa ((List.range 16).map fun j =>
              if e.mask / 2 ^ j % 2 = 1 then e.data.getD j 0#8 else old.getD j 0#8)
          ∧ ∀ l, bit (txLanes (warpAt s k)) l = true → aget 0#32 (warpAt t k).tstat l = 0#32)
      ∧ (∀ a, x.byG = true → x.leaseAt = some a → leasesFree s k x = false →
        a + 2048 < aclkAt s (teamAt s (warpAt s k).team).core → (∀ d ∈ x.depth, d.1 < 64) → (warpAt s k).txAborts < 255 →
        ∃ t, exec (.leaseTimeout k) s = .next t ∧ t.mem = s.mem ∧ (warpAt t k).tx = none ∧ (warpAt t k).latches = []
          ∧ ∀ l, bit (txLanes (warpAt s k)) l = true → aget 0#32 (warpAt t k).tstat l = tstatVal 10 0 (aget 0 x.depth l))

/-! ### The matrix unit and the engines at work (chapter 12) -/

/-- R42, R267, R270, R271: a complete latch whose claim is granted gives its joint MMA to the queue. The unit completes the MMA at
the head of its queue row group by row group, each element the rounded exact sum of its old value and of its products; with the last
group the tile counts a reader less, the flags count down and the MMA leaves. ACLR makes every element +0. DRAIN in mode 0 writes
its rows' elements as they stand into the tile store, 512 bytes a row, and nothing else. -/
def Obligations.MatrixWorks : Prop :=
  ∀ (s : State),
    (∀ team h ms, latchReady s team = some (h :: ms) →
      let k := gangClaimant team (h :: ms)
      let x := teamAt s team
      let c := coreAt s x.core
      (warpAt s k).standing = true → c.queue.length < 8 → c.waiting = [] →
      ∃ t, exec (.gangLatchOpen team) s = .next t ∧ t.mem = s.mem ∧ warpAt t k = spendTokens (warpAt s k)
        ∧ (teamAt t team).latch = x.latch.filter (fun y => !((h :: ms).any fun m => m.wid = y.wid))
        ∧ coreAt t x.core = { c with queue := c.queue ++
            [{ team := team, warp := k, pc := h.pc, run := h.run, work := .mma h.op (h :: ms) h.tile h.units }] })
    ∧ ∀ core x rest, let c := coreAt s core
      c.queue = x :: rest → c.waiting = [] →
      (∀ o ms tile u, x.work = .mma o ms tile u →
        let rows := match ms.drop u with | m :: _ => m.rows | [] => []
        let off := tileOff (tileAt s core tile)
        let product := fun i n k => mulNum (mmaA o (mxSlot s x.warp o.sa) rows i k)
          (mmaB o (mxSlot s x.warp o.sb) (teamAt s x.team).tile off k n)
        let old := accOf c o.acc.toNat
        ∃ t, exec (.matrixMmaGroup core) s = .next t ∧ t.mem = s.mem
          ∧ (∀ i n, i < 32 → n < 128 → accElem (accOf (coreAt t core) o.acc.toNat) (32 * u + i) n
              = toFp32 (sumNum false (ofFp32 (accElem old (32 * u + i) n) :: (List.range (mmaK o)).map (product i n))))
          ∧ (∀ i n, n < 128 → (i < 32 * u ∨ 32 * u + 32 ≤ i) →
              accElem (accOf (coreAt t core) o.acc.toNat) i n = accElem old i n)
          ∧ (u + 1 < mmaUnits o → (coreAt t core).queue = { x with work := .mma o ms tile (u + 1) } :: rest)
          ∧ (∀ m, ms = [m] → mmaUnits o ≤ u + 1 → (coreAt t core).queue = rest
              ∧ tileAt t core tile = setPendR (tileAt s core tile) (tilePendR (tileAt s core tile) - 1)
              ∧ warpAt t (warpKey x.team m.wid) = flagDown (warpAt s (warpKey x.team m.wid)) (flagOf m.op.flag)))
      ∧ (∀ acc, x.work = .aclr acc →
        ∃ t, exec (.matrixAclrExecute core) s = .next t ∧ t.mem = s.mem ∧ (coreAt t core).queue = rest
          ∧ (∀ i n, accElem (accOf (coreAt t core) acc) i n = 0#32)
          ∧ ∀ b, b ≠ acc → accOf (coreAt t core) b = accOf c b)
      ∧ ∀ o e sg, x.work = .drain o e sg →
        let off := tileOff (tileAt s core e)
        let tile := (teamAt s x.team).tile
        ∃ t, exec (.matrixDrainExecute core) s = .next t ∧ t.mem = s.mem ∧ (coreAt t core).queue = rest
          ∧ warpAt t x.warp = flagDown (warpAt s x.warp) x.flag
          ∧ (o.mode = 0#2 →
              (∀ i n, i < 32 * o.units.toNat → n < 128 → memVal (teamAt t x.team).tile (off + 512 * i + 4 * n) 4
                = (accElem (accOf c o.acc.toNat) (32 * o.row0.toNat + i) n).toNat)
              ∧ ∀ b, (b < off ∨ off + 512 * (32 * o.units.toNat) ≤ b) →
                  memByte (teamAt t x.team).tile b = memByte tile b)

/-- R274, R275, R277, R121, R280, R278, R279, Table 12-5: the request engine. A record that passes its checks starts, and one with a
reserved value fails with RQ_RECORD; a started request raises the counts of its tiles and their states; a copy within the tile store
moves its bytes; one that has moved all it has to leaves and its flag counts down. -/
def Obligations.EngineWorks : Prop :=
  ∀ (s : State) (core n : Nat) (r : Req), reqAt s core n = some r →
    let noMbar := reqField r 4 4 = 0xFFFFFFFF
    let noTile := reqStile r = false ∧ reqDtile r = false
    (r.state = 0 → startTurn s core r = true →
      (reqReserved r = true →
        ∃ t, exec (.rqRequestStart core n) s = .next t ∧ t.mem = s.mem ∧ reqAt t core n = none
          ∧ struck s t r.warp 0x60 r.run)
      ∧ (reqReserved r = false → reqMisuse s core r = false → reqLimit r = none → badName r = none → reqKind r ≠ 2 →
        tileLimit s core r = none → (reqAcq r = false ∨ unseen s (reticleOf core) (reqScope r) = false) →
        ∃ t, exec (.rqRequestStart core n) s = .next t ∧ t.mem = s.mem ∧ t.warps = s.warps
          ∧ reqAt t core n = some { r with state := startedState r, since := s.time }))
    ∧ (r.state = 1 → behind s core r = false →
      let d := reqField r 8 1
      let e := reqField r 9 1
      (reqDtile r = true → reqStile r = false → mayWrite (tileAt s core d) = true → mxNames s core r.team d = false →
        ∃ t, exec (.tileRequestAccept core n) s = .next t ∧ reqAt t core n = some { r with state := 2, since := s.time }
          ∧ tileAt t core d = setState (setPendW (tileAt s core d) (tilePendW (tileAt s core d) + 1)) 1
          ∧ ∀ j, j ≠ d → tileAt t core j = tileAt s core j)
      ∧ (reqStile r = true → reqDtile r = false → mayRead (tileAt s core e) = true → mxNames s core r.team e = false →
        ∃ t, exec (.tileRequestAccept core n) s = .next t ∧ reqAt t core n = some { r with state := 2, since := s.time }
          ∧ tileAt t core e = setState (setPendR (tileAt s core e) (tilePendR (tileAt s core e) + 1)) (if reqEvict r then 3 else 2)
          ∧ ∀ j, j ≠ e → tileAt t core j = tileAt s core j))
    ∧ (r.state = 2 → noMbar → noTile → agentLost s r.id = none →
      (let src := reqField r 0x10 8
       let dst := reqField r 0x18 8
       let len := reqField r 0x20 4
       let x := teamAt s r.team
       reqKind r = 0 → reqSides r = (true, true) → r.next = 0 → 0 < len → len ≤ 61 → src + len ≤ x.tileb → dst + len ≤ x.tileb →
        ∃ t, exec (.rqRequestComplete core n) s = .next t ∧ t.mem = s.mem
          ∧ teamAt t r.team = { x with tile := memWrite x.tile dst (memBytes x.tile src len) }
          ∧ reqAt t core n = some { r with next := 1, since := s.time })
      ∧ (reqKind r < 6 → pieces r ≤ r.next → agentBusy s r.id = false →
        (reqRel r = false ∨ unseen s (reticleOf core) (reqScope r) = false) →
        ∃ t, exec (.rqRequestComplete core n) s = .next t ∧ t.mem = s.mem ∧ reqAt t core n = none
          ∧ warpAt t r.warp = flagDown (warpAt s r.warp) r.flag)
      ∧ (let hva := reqField r 0x10 8
         let cn := (teamAt s r.team).ctx
         ∀ pa e, reqKind r = 7 → pieces r ≤ r.next → moveOk s r = .ok true → hva % 32 = 0 →
          agPa s cn .read (w64 hva) = .ok (pa, e) → agPa s cn .write (w64 hva) = .ok (pa, e) →
          leafDev e = s.devnum → leafUc e = true → leafProp e = false → poisonCause s pa false = none → storeRejected s pa = none →
          stackDead s pa = false → writable s (lineOf pa) false = true → anyCollapsing s = false → agentBusy s r.id = false →
          let h := memBytes s.mem pa 16
          ∃ t, exec (.chunkMove core n) s = .next t ∧ reqAt t core n = none
            ∧ t.mem = memWrite s.mem pa (bytesOf 8 (reqField r 0x18 8) ++ (h.drop 8).take 4 ++ bytesOf 1 (reqField r 0x20 1)
                ++ bytesOf 1 ((h.getD 0x0D 0#8).toNat ||| 1) ++ (h.drop 0x0E).take 2)
            ∧ (warpAt t r.warp).flags = (flagDown (warpAt s r.warp) r.flag).flags))

/-- R278, R282, R283: a delivery is written into the tile that holds its tag and leaves; one that has waited 10 ms is reported once.
A chain that has written its last element leaves and its flag counts down, its release performed; a unit not yet charged waits, and the
elements of one that is are processed one by one. -/
def Obligations.DeliveriesAndChains : Prop :=
  ∀ (s : State) (core n : Nat),
    (∀ d, ((coreAt s core).delivs.find? fun x => x.id = n) = some d →
      (∀ k e r, mcTarget s core d = some (k, e) → mayWrite (tileAt s core e) = true → mxNames s core k e = false →
        tileBehind s core k e d.id = false → reqAt s d.home d.req = some r → reqField r 4 4 = 0xFFFFFFFF → d.doff + d.data.length ≤ tileSize (tileAt s core e) →
        ∃ t, exec (.multicastDelivery core n) s = .next t ∧ t.mem = s.mem
          ∧ (teamAt t k).tile = memWrite (teamAt s k).tile (tileOff (tileAt s core e) + d.doff) d.data
          ∧ tileAt t core e = (if tilePendW (tileAt s core e) = 0 then setState (tileAt s core e) 2 else tileAt s core e)
          ∧ ((coreAt t core).delivs.find? fun x => x.id = n) = none)
      ∧ (d.told = false → d.since + 10000000 ≤ s.time →
        ∃ t, exec (.mcWaiting core n) s = .next t ∧ logged s t 0x67 1
          ∧ ((coreAt t core).delivs.find? fun x => x.id = n) = some { d with told := true }))
    ∧ ∀ c, ((coreAt s core).chains.find? fun x => x.id = n) = some c →
      agentLost s c.id = none →
      let cord := chainField c.bytes 0x1D 1
      (c.count ≤ c.next → agentBusy s c.id = false → (cord / 2 % 2 = 0 ∨ unseen s (reticleOf core) (cord / 4 % 8) = false) →
        ∃ t, exec (.chainUnit core n) s = .next t ∧ t.mem = s.mem ∧ warpAt t c.warp = flagDown (warpAt s c.warp) c.flag
          ∧ ((coreAt t core).chains.find? fun x => x.id = n) = none)
      ∧ (c.next < c.count → c.paid ≤ c.next → exec (.chainUnit core n) s = .next s)
      ∧ (c.next < c.paid → c.count = c.next + 1 →
        let st := slotRnd (mxSlot s c.warp (BitVec.ofNat 3 (chainField c.bytes 0x1A 1))) = .stochastic
        ∀ v, chainElem s c c.next (if st then (srStep c.seed).1 else 0) = .ok v →
          exec (.chainUnit core n) s
            = .next (putChain v core { c with next := c.next + 1, seed := if st then (srStep c.seed).2 else c.seed }))

/-! ### The dispatcher (chapters 3 and 15) -/

/-- R320, R311, R52, R56, R58, Table 15-3: a doorbell within the ring moves WRITE, one below WRITE or beyond the ring is ignored and
reported, and one to a context that is not resident is held. CTL enables a queue, SKIP passes over the record at which it stopped. A
record is copied and, when its checks pass, waits; a bad one stops the queue. A waiting record whose dependences are satisfied, and
whose AFTER is met, becomes a grid; a dependence is satisfied once its word has reached its value. -/
def Obligations.QueuesServe : Prop :=
  ∀ (s : State) (n q v : Nat),
    let c := ctxAt s n
    let x := queueAt c q
    let after := fun (t : State) => queueAt (ctxAt t n) q
    (q < 32 → n < 64 → s.devstat ≠ 2 →
      (c.enabled = true → c.resident = false →
        exec (.doorbell n q v) s = .next (putCtx s n { c with held := c.held ++ [(q, v)] }))
      ∧ ((c.enabled = false ∨ c.resident = true) →
        (x.write ≤ v → v ≤ x.read + 2 ^ x.log2n →
          ∃ t, exec (.doorbell n q v) s = .next t ∧ after t = { x with write := v } ∧ t.mem = s.mem)
        ∧ ((v < x.write ∨ x.read + 2 ^ x.log2n < v) →
          ∃ t, exec (.doorbell n q v) s = .next t ∧ after t = x ∧ logged s t 0xAD 1)))
    ∧ (c.enabled = true → q < 32 →
      ∃ t, exec (.queueEnable n q v) s = .next t
        ∧ after t = { x with enable := decide (v % 2 = 1), stopped := x.stopped && decide (v % 2 = 1) })
    ∧ (c.enabled = true → x.stopped = true →
      ∃ t, exec (.queueSkip n q 1) s = .next t ∧ after t = { x with stopped := false, read := x.read + 1 })
    ∧ (dispatchable s c = true →
      (∀ bs u, x.enable = true → x.stopped = false → x.read < x.write →
        dispRead s n (x.ring + w64 (256 * (x.read % 2 ^ x.log2n))) 256 = .ok (bs, u) →
        (recordBad u (ctxAt u n) bs = none →
          ∃ t, exec (.queueRecordCopy n q) s = .next t
            ∧ after t = { x with read := x.read + 1, pending := x.pending ++ [(bs, depBits bs)] })
        ∧ ((recordBad u (ctxAt u n) bs).isSome = true →
          ∃ t, exec (.queueRecordCopy n q) s = .next t ∧ after t = { x with stopped := true } ∧ logged u t 0xA0 1))
      ∧ (∀ r deps rest e, q < 32 → x.pending = (r, deps) :: rest → freeEntry c = some e →
        (deps ≠ 3 → exec (.gridDispatchStart n q) s = .next s)
        ∧ (deps = 3 → (recAfter r = false ∨ lastRetired c x = true) →
          ∃ t, exec (.gridDispatchStart n q) s = .next t ∧ after t = { x with pending := rest, lastGrid := some s.nextId }
            ∧ (ctxAt t n).grids = c.grids ++ [{ newGrid e s.nextId q 1 x.prio none r with started := true }]))
      ∧ (∀ g, gridOf c v = some g → g.started = false → g.deps.all (· = true) = true → launchSeen s g = true →
        ∃ t, exec (.gridDispatchStart n (32 + v)) s = .next t ∧ gridOf (ctxAt t n) v = some { g with started := true })
      ∧ ∀ r deps dep bs u, q < 32 → dep < 2 → x.pending = [(r, deps)] → deps / 2 ^ dep % 2 = 0 →
          dispRead s n (w64 (recField r (0x40 + 16 * dep) 8)) 8 = .ok (bs, u) →
          ∃ t, exec (.dependenceReread n q dep) s = .next t
            ∧ after t = (if recField r (0x48 + 16 * dep) 8 ≤ leVal bs then { x with pending := [(r, deps + 2 ^ dep)] } else x))

/-- R28, R55, R59, R30, R62, R64, R33, R65, R35: the next team of a grid is made resident on a core with room: its warps start at
ENTRY with their lanes, their blocks and g0 to g7 from INIT, and nothing but the seed open. With no place for a child's team the
youngest parked team is pre-empted, where such teams hold what it lacks. An exited team gives back what it held once its engine work is
done, and is gone once its stores have performed; a drained report counts unless a later team was sent;
and a grid that is over adds SIGADD to its signal word, frees its entry and leaves its parent a child fewer. -/
def Obligations.GridsRun : Prop :=
  ∀ (s : State) (n e : Nat) (g : Grid),
    let c := ctxAt s n
    gridOf c e = some g → 
    (∀ core p, hasTeams g = true → dispatchable s c = true → inShare s c core = true → fitsTeam s core g.record = true →
      outranked s core g = false → recCor g.record = false → corHolds c g = false → freePlace s core = some p →
      let r := g.record
      let id := s.nextId
      let x := coreAt s core
      ∃ t, exec (.teamPlace n e core) s = .next t ∧ t.mem = s.mem
        ∧ teamAt t id = { ctx := n, grid := g.entry, index := g.next, core := core, place := p, nwarps := recWarps r
                          tileb := recTileb r, bars := List.replicate (recBars r) {}, age := id }
        ∧ (∀ k, k < recWarps r → let w := warpAt t (warpKey id k)
            let m := lowMask (Nat.min 64 (recThreads r - 64 * k))
            w = { firstWarp id k r w.seed with since := aclkAt s core } ∧ w.lanes = m
              ∧ w.pcs = [{ pc := slotPc (w64 (recField r 0x20 8)) 0, mask := m }] ∧ w.blocks = recRegb r
              ∧ ∀ j, greg w j = if j < 8 then w64 (recField r (0xC0 + 8 * j) 8) else 0#64)
        ∧ (coreAt t core).free = x.free - recWarps r * recRegb r ∧ (coreAt t core).bars = x.bars - recBars r
        ∧ (coreAt t core).tileFree = x.tileFree - recTileb r
        ∧ gridOf (ctxAt t n) e = some { g with next := g.next + 1, seqNo := g.seqNo + 1, cores := aput g.cores core (g.seqNo + 1) })
    ∧ (∀ u, g.parent.isSome = true → hasTeams g = true → dispatchable s c = true → savesForChild s n = false →
      hasPlace s n g = false → parkedHold s n g = true → youngestParked s n = some u → recCor (recordOf s (teamAt s u)) = false →
      exec (.childResidencyPreempt n e) s
        = .next { putTeam s u { teamAt s u with reason := 1 } with agenda := Todo.event (.preemptRequest u) :: s.agenda })
    ∧ (∀ u, let x := teamAt s u
      x.status = .exited → engineWork s u = false →
      ∃ t, exec (.teamRelease u) s = .next t ∧ t.mem = s.mem
        ∧ (coreAt t x.core).bars = (coreAt s x.core).bars + x.bars.length
        ∧ (coreAt t x.core).tileFree = (coreAt s x.core).tileFree + x.tileb
        ∧ (∀ y ∈ (coreAt t x.core).table, tileOwned y.2 x.place = false)
        ∧ (teamOpen s u = false → afind t.teams u = none ∧ ∀ w ∈ t.warps, w.2.team ≠ u))
    ∧ (∀ core seq,
      (afind g.cores core = some seq →
        ∃ t, exec (.drainedReport core n e seq) s = .next t
          ∧ gridOf (ctxAt t n) e = some { g with cores := aerase g.cores core })
      ∧ (afind g.cores core ≠ some seq → exec (.drainedReport core n e seq) s = .next s))
    ∧ (gridOver g = true → dispatchable s c = true → anyCollapsing s = false →
      let sig := recField g.record 0x30 8
      let freed := fun t => gridOf (ctxAt t n) e = none
        ∧ ∀ p x, g.parent = some p → p ≠ e → gridOf c p = some x →
            gridOf (ctxAt t n) p = some { x with children := x.children - 1 }
      (sig = 0 → ∃ t, exec (.gridRetire n e) s = .next t ∧ t.mem = s.mem ∧ freed t)
      ∧ ∀ pa l, sig ≠ 0 → agPa s n .write (w64 sig) = .ok (pa, l) → leafDev l = s.devnum → leafUc l = true →
          poisonCause s pa true = none → storeRejected s pa = none → writable s (lineOf pa) (leafProp l) = true →
          ∃ t, exec (.gridRetire n e) s = .next t ∧ freed t
            ∧ t.mem = memWrite s.mem pa (bytesOf 8 (memVal s.mem pa 8 + recField g.record 0x38 8)))

/-! ### Tokens, power and clocks (chapter 13) -/

/-- R285 to R289: a claim that the free tokens of the pocket can pay is granted and charged to the oldest tokens; one that they
cannot is passed over, and the eighth pass makes a reservation that holds tokens up to its price; a chain's claim pays for its next
unit. At a lap the ring takes INJ
tokens, or none where the lap is corrupt; each station's share goes into its pocket while there is room and the rest travels on; the
ten shares are INJ; and tokens two laps old that are not held evaporate. R291 to R296, Table 23-2, R419: at its boundary the
controller sets INJ to the thermal rate where that is below 40, else to the least of the three rates and 2,550, at least 40. A boost
is granted unless a power limit stands; 24 kW exceeded for 1 ms ends every boost for 1 s; a long trip and a rail gap reset the
reticle. A frequency step stops the cluster until it has relocked, or falls back after 1.5 us; a droop stretches the aclk until the
rail recovers. The energy of 100 us falls to the contexts, by whole millijoules. -/
def Obligations.TokensAndPower : Prop :=
  ((∀ inj lap, ((List.range 10).map (shareOf inj lap)).foldl (· + ·) 0 = inj)
   ∧ ∀ (s : State) (cl r : Nat),
     (∀ c, claims s cl = [c] → c.kind = .wide → (clusterAt s cl).resv = [] →
       let x := clusterAt s cl
       let w := warpAt s c.warp
       let cn := (teamAt s c.team).ctx
       (c.price ≤ freeTokens x →
         ∃ t, exec (.tokenGrant cl) s = .next t ∧ (clusterAt t cl).pocket = takeOldest c.price x.pocket
           ∧ warpAt t c.warp = { w with standing := true, queued := false, wpass := 0, claimAt := some c.at_ }
           ∧ aget 0 (reticleAt t (cl / 10)).spent cn = aget 0 (reticleAt s (cl / 10)).spent cn + c.price)
       ∧ (freeTokens x < c.price →
         ∃ t, exec (.tokenGrant cl) s = .next t ∧ (clusterAt t cl).pocket = x.pocket
           ∧ (warpAt t c.warp).standing = w.standing ∧ (warpAt t c.warp).wpass = w.wpass + 1
           ∧ (w.wpass = 7 → w.queued = false → (clusterAt t cl).resv = [c.warp]
               ∧ (clusterAt t cl).held = Nat.min c.price (pocketCount x))))
     ∧ (∀ c core id y, claims s cl = [c] → c.kind = .chain core id → (clusterAt s cl).resv = [] →
       ((coreAt s core).chains.find? fun z => z.id = id) = some y → c.price ≤ freeTokens (clusterAt s cl) →
       ∃ t, exec (.tokenGrant cl) s = .next t ∧ (clusterAt t cl).pocket = takeOldest c.price (clusterAt s cl).pocket
         ∧ ((coreAt t core).chains.find? fun z => z.id = id) = some { y with paid := unitEnd y, claim := none, wpass := 0 })
     ∧ (s.time % lapNs = 0 →
       (∃ t, exec (.ringLap r false) s = .next t ∧ (reticleAt t r).lapInj = (reticleAt s r).inj)
       ∧ ∃ t, exec (.ringLap r true) s = .next t ∧ (reticleAt t r).lapInj = 0)
     ∧ (∀ k, k < 10 → s.time % lapNs = 2 * (k + 1) → (reticleAt s r).spares = [] →
       let x := clusterAt s (10 * r + k)
       let lap := s.time / lapNs
       let n := shareOf (reticleAt s r).lapInj lap k
       let m := Nat.min n (255 - pocketCount x)
       ∃ t, exec (.ringStationVisit r k) s = .next t
         ∧ aget 0 (clusterAt t (10 * r + k)).pocket lap = aget 0 x.pocket lap + m
         ∧ (∀ j, j ≠ lap → aget 0 (clusterAt t (10 * r + k)).pocket j = aget 0 x.pocket j)
         ∧ (reticleAt t r).spares = if n - m = 0 then [] else [(lap, n - m)])
     ∧ (let x := clusterAt s cl
        let old := (x.pocket.filter fun y => y.1 + 2 ≤ s.time / lapNs).foldl (fun n y => n + y.2) 0
        ∃ t, exec (.tokenEvaporation cl) s = .next t ∧ clusterAt t cl = { x with pocket := takeOldest (old - x.held) x.pocket }))
  ∧ (∀ (s : State) (r cl a b d : Nat),
       let x := reticleAt s r
       let y := clusterAt s cl
       (s.time % 10000 = 0 → r < 48 →
         let th := Nat.min a 2550
         let cu := Nat.min b 2550
         ∃ t, exec (.pwcControlInterval r a b d) s = .next t
           ∧ (reticleAt t r).inj = (if th < 40 then th else Nat.max 40 (Nat.min th (Nat.min cu (Nat.min (Nat.max x.base x.boost) 2550))))
           ∧ (reticleAt t r).tripAt = if th < 40 then some (x.tripAt.getD s.time) else none)
       ∧ (∀ T, x.belowAt = some T → T + 1000000 ≤ s.time →
         ∃ t, exec (.throttled r) s = .next t ∧ (reticleAt t r).belowAt = some s.time)
       ∧ ((s.boostStop ≤ s.time ∨ a = 0) → exec (.boostGrant r a) s = .next (putReticle s r { x with boost := a }))
       ∧ (s.time < s.boostStop → a ≠ 0 → exec (.boostGrant r a) s = .next s)
       ∧ (a ≤ 24000 → exec (.powerLimit a) s = .next { s with powerAt := none })
       ∧ (24000 < a → s.powerAt = none → exec (.powerLimit a) s = .next { s with powerAt := some s.time })
       ∧ (∀ T, 24000 < a → s.powerAt = some T → T + 1000000 ≤ s.time →
         ∃ t, exec (.powerLimit a) s = .next t ∧ t.boostStop = s.time + 1000000000 ∧ ∀ k ∈ t.retics, k.2.boost = 0)
       ∧ (∀ T, x.tripAt = some T → T + 10000000 ≤ s.time →
         ∃ t, exec (.thermalShutdown r a) s = .next t ∧ t.agenda = Todo.event (.reticleReset r 0xB4) :: s.agenda)
       ∧ (150 < a → ∃ t, exec (.railGap r a) s = .next t ∧ t.agenda = Todo.event (.reticleReset r 0xB6) :: s.agenda)
       ∧ (a ≤ 150 → exec (.railGap r a) s = .next s)
       ∧ (a < 16 → a ≤ y.permit → y.stopEnd = none →
         exec (.frequencyStepChange cl a) s
           = .next (putCluster s cl { y with prev := y.freq, freq := a, stopEnd := some (s.time + 1500) }))
       ∧ (y.freq < 16 → y.freq ≤ y.permit → y.stopEnd.isSome = true →
         exec (.frequencyStepChange cl y.freq) s = .next (putCluster s cl { y with stopEnd := none }))
       ∧ (y.permit < a → exec (.frequencyStepChange cl a) s = .next s)
       ∧ (∀ T, y.stopEnd = some T → T ≤ s.time →
         ∃ t, exec (.stepRelockTimeout cl) s = .next t ∧ clusterAt t cl = { y with freq := y.prev, stopEnd := none }
           ∧ logged s t 0xB5 1)
       ∧ exec (.droopStretch cl) s = .next (putCluster s cl { y with stretch := true, droops := y.droops + 1 })
       ∧ exec (.droopRecovery cl) s = .next (putCluster s cl { y with stretch := false })
       ∧ ∀ dyn rest c, s.time % 100000 = 0 → afind s.ctxs a = some c →
           let part := fun (z : Reticle) (k : Nat) =>
             proportion (aget 0 dyn k) (aget 0 z.spent a) (sumVals z.spent) + proportion (aget 0 rest k) (aget 0 z.resided a) (sumVals z.resided)
           let e := s.retics.foldl (fun n z => n + part z.2 z.1) c.remainder
           ∃ t, exec (.energyUpdate dyn rest true) s = .next t
             ∧ ctxAt t a = { c with energy := (c.energy + e / 1000000) % 2 ^ 64, remainder := e % 1000000 }
             ∧ ∀ z ∈ t.retics, z.2.spent = [] ∧ z.2.resided = [])

/-! ### Saves and moves of teams (chapter 14) -/

/-- R298, R299, R305, R308, R309, Table 14-1: a team that is pre-empted stops: its fixed-latency results are written, its registers
are otherwise as they were, and its chains leave the core for its image. When its drain is over the image is taken, marked saved
with the time, and the core has its tile store back. A saved team returns to a core with room, with its tiles under its new place,
and issues once %TIME exceeds SAVEDAT by 8 ns. R297, R311, R313: firmware moves a team off a reticle that has been hot for two
intervals, where its shed can hold it, at most once in 1 ms, by pre-empting it. A context that is switched out stops its dispatch and pre-empts its teams, and with none on a core it is no
longer resident; one that returns takes the doorbells held for it. A time exchange makes every region but region 0 slew what was
measured away, within half the agreement bound. -/
def Obligations.TeamsMove : Prop :=
  (∀ (s : State) (u : Nat),
     let x := teamAt s u
     let c := coreAt s x.core
     let mine := teamWarps u x
     ((afind s.teams u).isSome = true → (x.status = .resident ∨ x.status = .restoring) → recCor (recordOf s x) = false →
       (∀ k ∈ mine, (warpAt s k).tx = none ∧ (warpAt s k).rep = none) →
       ∃ t, exec (.preemptRequest u) s = .next t ∧ t.mem = s.mem ∧ (teamAt t u).status = .saving
         ∧ (teamAt t u).chImage = x.chImage ++ c.chains.filter (fun y => y.team = u)
         ∧ (coreAt t x.core).chains = c.chains.filter (fun y => y.team ≠ u)
         ∧ ∀ k ∈ mine, (warpAt t k).pend = [] ∧ (warpAt t k).pcs = (warpAt s k).pcs
             ∧ (∀ r l, vreg (warpAt t k) r l = vreg (settleAll (warpAt s k)) r l)
             ∧ ∀ r, greg (warpAt t k) r = greg (settleAll (warpAt s k)) r)
     ∧ (x.status = .saving → drained s u = true → shedOk (ctxAt s x.ctx) = true →
       shedNeed (takeImage s u) x.ctx u ≤ (ctxAt s x.ctx).shedsz → stacksDead s (ctxAt s x.ctx).shed (ctxAt s x.ctx).shedsz = false →
       ∃ t, exec (.teamSaveWrite u) s = .next t ∧ (teamAt t u).status = .saved ∧ (teamAt t u).savedAt = timeAt s x.core
         ∧ (teamAt t u).tabImage = teamTiles s x.core x.place
         ∧ (teamAt t u).accImage = x.accs.map (fun a => (a, aget [] c.accs a))
         ∧ (coreAt t x.core).tileFree = c.tileFree + x.tileb)
     ∧ (∀ core p, x.status = .saved → restorable s u = true → x.reason ≠ 1 → fitsImage s core u = true →
       recCor (recordOf s x) = false → freePlace s core = some p → x.waImage = [] → (∀ a ∈ s.accs, a.2.warp / 16 ≠ u) →
       ∃ t, exec (.teamRestore u core) s = .next t ∧ (teamAt t u).status = .restoring ∧ (teamAt t u).core = core
         ∧ (teamAt t u).place = p ∧ (coreAt t core).tileFree = (coreAt s core).tileFree - x.tileb
         ∧ (coreAt t core).bars = (coreAt s core).bars - x.bars.length
         ∧ ∀ e y, x.tabImage = [(e, y)] → tileAt t core e = setOwner y p)
     ∧ (x.status = .restoring → x.mxImage = [] → stoppedAccs s u = [] →
       (x.savedAt + 8 < timeAt s x.core →
         exec (.restoreFirstIssue u) s = .next (putTeam s u { x with status := .resident, issueAt := s.time }))
       ∧ (timeAt s x.core ≤ x.savedAt + 8 → exec (.restoreFirstIssue u) s = .next s)))
  ∧ (∀ (s : State) (n u core : Nat),
       let x := teamAt s u
       let c := ctxAt s n
       (x.status = .resident → 2 ≤ (reticleAt s (reticleOf x.core)).hot → inShare s (ctxAt s x.ctx) core = true →
         (∀ a ∈ x.accs, ∀ y ∈ (coreAt s core).accTeam, y.1 ≠ a) → shedOk (ctxAt s x.ctx) = true →
         shedNeed s x.ctx u ≤ (ctxAt s x.ctx).shedsz → stacksDead s (ctxAt s x.ctx).shed (ctxAt s x.ctx).shedsz = false →
         (∀ T, x.movedAt = some T → T + 1000000 ≤ s.time) →
         exec (.hotspotMigration u core) s
           = .next { putTeam s u { x with reason := core + 2, movedAt := some s.time } with agenda := Todo.event (.preemptRequest u) :: s.agenda })
       ∧ (c.enabled = true → c.resident = true → c.faulted = none → c.inSwitch = false → c.halted = false → c.stepping = none →
         (residentTeams s n ≠ [] →
           exec (.contextSwitch n) s = .next { putCtx s n { c with stopped := true, inSwitch := true } with
             agenda := (residentTeams s n).map (fun t => Todo.event (.preemptRequest t)) ++ s.agenda })
         ∧ (residentTeams s n = [] →
           ∃ t, exec (.contextSwitch n) s = .next t ∧ (ctxAt t n).resident = false ∧ (ctxAt t n).stopped = true
             ∧ (ctxAt t n).savedAt = s.time ∧ t.agenda = s.agenda))
       ∧ (∀ q v, c.enabled = true → c.resident = false → c.faulted = none → c.inSwitch = false → c.halted = false →
         (s.ctxs.filter fun y => y.2.resident).length < 64 →
         let y := queueAt c q
         c.held = [(q, v)] → y.write ≤ v → v ≤ y.read + 2 ^ y.log2n →
         ∃ t, exec (.contextRestore n) s = .next t ∧ (ctxAt t n).resident = true ∧ (ctxAt t n).stopped = false
           ∧ (ctxAt t n).held = [] ∧ queueAt (ctxAt t n) q = { y with write := v })
       ∧ ∀ ms : List Int, ∃ t, exec (.timeExchange ms) s = .next t ∧ t.time = s.time ∧ t.regionOff = s.regionOff
           ∧ t.regionAim.getD 0 0 = 0
           ∧ ∀ r, 0 < r → r < 12 → t.regionAim.getD r 0 = max (-4) (min 4 (s.regionOff.getD r 0 - ms.getD r 0)))

/-! ### The wafer cache (chapter 6) -/

/-- R124 to R129: a line that no slice holds is filled at its anchor; a move ends at its new home with its counters clear; a
deferred replica is placed once the line is at rest; an acknowledged invalidation ends a replica, and the last one the collapse;
replacement takes a line at rest that is not pinned, its replicas first; and a window clears the use counters. -/
def Obligations.LinesMove : Prop :=
  ∀ (s : State) (l r : Nat),
    (tierOf (128 * l) ≠ .reserved → uncached s false (128 * l) = false →
      (lineAt s l = none → s.closing = [] → wayFree s (anchorOf s l) l = true →
        exec (.lineFill l) s = .next (putLine s l { home := anchorOf s l, since := s.time }))
      ∧ ((lineAt s l).isSome = true → exec (.lineFill l) s = .next s))
    ∧ (∀ x, lineAt s l = some x →
      (x.state = .moving → x.held = [] →
        ∃ t, exec (.migrationAck l) s = .next t ∧ t.mem = s.mem
          ∧ lineAt t l = some { x with state := .home, home := x.moveTo, replicas := [], acks := [], uses := [], own := [] })
      ∧ (∀ k, (x.state = .home ∨ x.state = .shared) → x.defer.contains r = true → x.pin = false → mobile l = true →
        reticleOfSlice x.home ≠ r → afind x.replicas r = none → sliceIn s r l = some k →
        wayFree s k l = true →
        ∃ t, exec (.replicaPlace l r) s = .next t ∧ t.mem = s.mem
          ∧ lineAt t l = some { x with state := .shared, dirty := false, defer := x.defer.filter (fun y => y ≠ r)
                                       replicas := aput x.replicas r (k, memBytes s.mem (128 * l) 128) })
      ∧ (x.state = .collapsing → x.acks.contains r = true →
        let reps := aerase x.replicas r
        let left := x.acks.filter fun y => y ≠ r
        (left ≠ [] → ∃ t, exec (.invalidationAck l r) s = .next t ∧ lineAt t l = some { x with replicas := reps, acks := left })
        ∧ (left = [] → x.held = [] → ∃ t, exec (.invalidationAck l r) s = .next t ∧ t.mem = s.mem
            ∧ lineAt t l = some { x with replicas := reps, acks := [], own := []
                                         state := if reps = [] then .home else .shared }))
      ∧ (x.pin = true → exec (.lineEvict l) s = .next s)
      ∧ (x.pin = false → (x.state = .home ∨ x.state = .shared) →
        (x.replicas = [] → x.held = [] →
          ∃ t, exec (.lineEvict l) s = .next t ∧ t.mem = s.mem ∧ lineAt t l = none)
        ∧ (x.replicas ≠ [] → ∃ t y, exec (.lineEvict l) s = .next t ∧ lineAt t l = some y ∧ y.state = .collapsing
            ∧ y.replicas = x.replicas ∧ ∀ z ∈ x.replicas, z.1 ∈ y.acks))
      ∧ (∀ T, x.acks.contains r = true → x.since = T → T + 100000 ≤ s.time →
        ∃ t, exec (.collapseTimeout l r) s = .next t ∧ t.agenda = Todo.event (.reticleReset r 0x78) :: s.agenda))
    ∧ (s.time % s.yardWin = 0 →
      ∃ t, exec .yardmasterWindow s = .next t ∧ t.mem = s.mem ∧ ∀ x ∈ t.lines, x.2.uses = [])

/-- R124, R373, R390, R391, R396, R405, Table 6-3: an empty slice leaves the map and a healthy one joins it; uncorrectable data
found by the scrubbers is poisoned with its report, or dropped where it is a replica; a lost directory entry is rebuilt at the one
slice that answers; and a line of the pool or of a coherent host is given back when its owner asks. -/
def Obligations.LinesFail : Prop :=
  ∀ (s : State) (l k : Nat),
    (k < sliceCount →
      (s.slicesOut.contains k = true → outOfUse (partStatus s 6 k) = false →
        ∃ t, exec (.placementMapChange k false) s = .next t ∧ t.slicesOut = s.slicesOut.filter fun y => y ≠ k)
      ∧ (s.slicesOut.contains k = false → (∀ y ∈ s.lines, heldIn k y.2 = false) →
        ∃ t, exec (.placementMapChange k true) s = .next t ∧ t.slicesOut = k :: s.slicesOut))
    ∧ (∀ x, lineAt s l = some x →
      exec (.l2Scrub k l false) s = .next s
      ∧ (x.home = k → ∃ t, exec (.l2Scrub k l true) s = .next t ∧ l ∈ t.poison ∧ logged s t 0x72 1)
      ∧ (∀ r bs, x.home ≠ k → x.replicas = [(r, k, bs)] → x.state = .shared →
        ∃ t, exec (.l2Scrub k l true) s = .next t ∧ lineAt t l = some { x with replicas := [], acks := x.acks.filter (fun y => y ≠ r), state := .home }))
    ∧ (tierOf (128 * l) = .hbm → ∃ t, exec (.hbmPatrolScrub l) s = .next t ∧ l ∈ t.poison ∧ logged s t 0x97 1)
    ∧ (∀ h, lineAt s l = none → s.slicesOut.contains h = false →
      ∃ t, exec (.dirRebuild l [h]) s = .next t ∧ t.lines = aput s.lines l { home := h, since := s.time })
    ∧ (∀ a b hs, ∃ t, exec (.dirRebuild l (a :: b :: hs)) s = .next t ∧ logged s t 0x7F 4)
    ∧ (∀ x, lineAt s l = some x → x.held = [] →
      (tierOf (128 * l) = .pool → ∃ t, exec (.cxlBackInvalidate l) s = .next t ∧ t.mem = s.mem ∧ lineAt t l = none)
      ∧ (tierOf (128 * l) = .host → hostPcie s (128 * l) = false →
        (∃ t, exec (.cxlSnoop l none) s = .next t ∧ t.mem = s.mem ∧ lineAt t l = none)
        ∧ ∀ bs, bs.length = 128 →
            ∃ t, exec (.cxlSnoop l (some bs)) s = .next t ∧ t.mem = memWrite s.mem (128 * l) bs ∧ lineAt t l = none))

/-! ### Pages, records and limits (chapters 6, 15, 19, 22, 23) -/

/-- R117, R398, R399, R400, R425: a miss that the reticle's TLB holds is served from it; else a walker, once one is free for it, reads the
table, and the leaf that it finds fills both TLBs; a missing page enters the fault queue with a
record SEQ, unless the instruction only asks; a full queue admits when room comes. A replay request with status 0 makes the accesses
of its page walk again, another status ends them with SERVICE_FAILED, and one that names no pending record is stray. A page pending
too long faults its context. -/
def Obligations.PagesAreServed : Prop :=
  ∀ (s : State) (k n : Nat),
    let w := warpAt s k
    let cn := warpCtx s k
    let c := ctxAt s n
    (∀ r, w.walks = [r] → r.waits = false → r.page = pageOf r.va →
      let core := (teamAt s w.team).core
      let held := s.tlb.find? (tlbHit (reticleTlb (reticleOf core)) cn r.page)
      let seen := fun (t : State) => t.mem = s.mem ∧ (warpAt t k).walks = []
      (∀ e, held = some e → ∃ t, exec (.pageWalk k) s = .next t ∧ seen t
        ∧ afind (warpAt t k).walked r.page = some (smallLeaf e.leaf r.va.toNat e.bits))
      ∧ (held = none → walkTurn s (reticleOf core) r = false → exec (.pageWalk k) s = .next s)
      ∧ (held = none → walkTurn s (reticleOf core) r = true →
      (∀ e b, walk s.mem s.poison (ctxAt s cn).root r.va.toNat = .leaf e b →
        ∃ t, exec (.pageWalk k) s = .next t ∧ seen t ∧ afind (warpAt t k).walked r.page = some (smallLeaf e r.va.toNat b)
          ∧ leafOf t (coreTlb core) cn r.va = some (smallLeaf e r.va.toNat b)
          ∧ ∃ x ∈ t.tlb, x = { unit := reticleTlb (reticleOf core), ctx := cn, page := r.page, bits := b, leaf := e })
      ∧ (∀ b y, walk s.mem s.poison (ctxAt s cn).root r.va.toNat = .bad b y → r.guarded = false → w.walkBad = [] →
        ∃ t, exec (.pageWalk k) s = .next t ∧ seen t ∧ (warpAt t k).walkBad = [(r.page, b, y)])
      ∧ ∀ m, walk s.mem s.poison (ctxAt s cn).root r.va.toNat = .absent m → w.walkBad = [] →
        (r.guarded = true →
          ∃ t, exec (.pageWalk k) s = .next t ∧ seen t ∧ (warpAt t k).walkBad = [(r.page, 0x30, w64 m ||| 256#64)])
        ∧ (r.guarded = false → pagePending s cn r.page = false → s.fqueue.length < 4096 → s.fqWait = [] →
          ∃ t, exec (.pageWalk k) s = .next t ∧ logged s t 0x30 1
            ∧ t.fqueue = s.fqueue ++ [{ ctx := cn, page := r.page, seq := s.seqNext, since := s.time }]
            ∧ (warpAt t k).walks = [] ∧ (warpAt t k).walkBad = [(r.page, 0x30, w64 m)])))
    ∧ (∀ page r rest, s.fqWait = (n, page, r) :: rest →
      (4096 ≤ s.fqueue.length → exec .faultQueueAdmit s = .next s)
      ∧ (s.fqueue.length < 4096 → pagePending s n page = false →
        ∃ t, exec .faultQueueAdmit s = .next t ∧ t.fqWait = rest
          ∧ t.fqueue = s.fqueue ++ [{ ctx := n, page := page, seq := s.seqNext, since := s.time }]))
    ∧ ((∀ p ∈ s.fqueue, p.ctx = n → p.seq ≠ c.repseq) →
      ∃ t, exec (.repgo n 1) s = .next t ∧ t.fqueue = s.fqueue ∧ logged s t 0x3E 1)
    ∧ (∀ p a l sg, s.fqueue = [p] → p.ctx = n → p.seq = c.repseq → waitingAccs s n = [a] → accAt s a.id = some a → a.lanes = [l] →
      a.kind = .load sg → l.live = true → l.wait = true → l.lane < 64 → pageOf l.va = p.page →
      (teamAt s (warpAt s a.warp).team).status = .resident → (warpAt s a.warp).tx = none →
      (c.repstat = 0 → ∀ pa e, xlate s n .read l.va = .ok pa e →
        ∃ t, exec (.repgo n 1) s = .next t ∧ t.mem = s.mem ∧ t.fqueue = []
          ∧ accAt t a.id = some { a with lanes := [{ l with
              wait := false, pas := [pa], dev := leafDev e, uc := leafUc e, prop := leafProp e
              hint := if leafUc e then 0 else leafHint e }] })
      ∧ (c.repstat ≠ 0 → s.squ = [] → (∀ x ∈ s.cores, x.2.reqs = [] ∧ x.2.chains = []) → c.queues = [] → c.grids = [] →
        ∃ t, exec (.repgo n 1) s = .next t ∧ t.mem = s.mem ∧ t.fqueue = [] ∧ accAt t a.id = none
          ∧ struck s t a.warp 0x36 (laneBit l.lane)))
    ∧ ∀ p, s.fqueue = [p] → p.ctx = n →
        (c.faulted = none → c.fslimit * 1000 < s.time - p.since →
          ∃ t, exec (.faultServiceLimit n) s = .next t ∧ (ctxAt t n).faulted = some 0x37 ∧ (ctxAt t n).stopped = true)
        ∧ (s.time - p.since ≤ c.fslimit * 1000 → exec (.faultServiceLimit n) s = .next s)

/-- R118, R319, R325, R353, R365, R377, R413: an invalidation drops the TLB entries of its range, is BUSY until what began before it
has performed, and then counts; one that is not over in 1 ms resets the reticle. Folded events are written as one record with their
count, and overwritten records are reported once in 1 ms. A grid whose count reaches the limit faults its context. Cold text is
copied from its source, and a warp that waits for a trap frame takes its fault when one is free. -/
def Obligations.LimitsAndRecordsAct : Prop :=
  ∀ (s : State) (n k : Nat),
    let c := ctxAt s n
    ((c.enabled = true → c.invBusy = false → c.invva + c.invlen ≤ 2 ^ 57 → (∀ j, (warpAt s j).tx = none) →
        ∃ t, exec (.invgo n 1) s = .next t ∧ t.mem = s.mem ∧ (ctxAt t n).invBusy = true ∧ (ctxAt t n).invCount = c.invCount
          ∧ t.tlb = s.tlb.filter fun e => !(e.ctx = n && e.meets c.invva c.invlen))
      ∧ (c.invBusy = true → ∀ v, exec (.invgo n v) s = .next s))
    ∧ (c.invBusy = true →
      (oldAccsDone s n c.invMark = true →
        exec (.invalidationComplete n) s = .next (putCtx s n { c with invBusy := false, invCount := (c.invCount + 1) % 2 ^ 31 }))
      ∧ (oldAccsDone s n c.invMark = false → exec (.invalidationComplete n) s = .next s)
      ∧ (c.invAt + 1000000 ≤ s.time →
        ∃ t, exec (.invTimeout n k) s = .next t ∧ t.agenda = Todo.event (.reticleReset k 0x3A) :: s.agenda))
    ∧ (∀ f, s.folds = [f] →
      (s.time < f.last + 1000000 → exec (.recordFoldExpiry f.engine f.cause) s = .next s)
      ∧ (f.last + 1000000 ≤ s.time →
        (f.first = none → exec (.recordFoldExpiry f.engine f.cause) s = .next { s with folds := [] })
        ∧ ∀ r, f.first = some r →
            ∃ t, exec (.recordFoldExpiry f.engine f.cause) s = .next t
              ∧ t.folds = [{ f with first := none, count := 0, last := s.time }]
              ∧ ∃ x ∈ t.log, x = { r with seq := s.seqNext, syn := foldSyn f.count r.syn }))
    ∧ (s.logLost ≠ 0 → (∀ t, s.logTold = some t → t + 1000000 ≤ s.time) →
      ∃ t, exec .logWrap s = .next t ∧ logged s t 0xBE 1 ∧ t.logTold = some s.time ∧ (s.log.length < 65536 → t.logLost = 0))
    ∧ (s.logLost = 0 → exec .logWrap s = .next s)
    ∧ (∀ e g, gridOf c e = some g → c.wdlimit ≠ 0 → c.faulted = none →
      (g.dog < c.wdlimit → exec (.watchdogExpiry n e) s = .next s)
      ∧ (c.wdlimit ≤ g.dog → s.time % 1000 = 0 → ∃ t, exec (.watchdogExpiry n e) s = .next t ∧ (ctxAt t n).stopped = true
          ∧ (ctxAt t n).faulted
            = some (if s.teams.any (fun x => decide (x.2.ctx = n) && decide (x.2.status = .saving)) then 0xB9 else 0xB8)))
    ∧ (∀ piece lo src bs pa e, c.cold.contains piece = false → coldObject s n piece = some (lo, src) →
      readVa s n (w64 (src + (4096 * piece - lo))) 4096 = .ok bs → xlate s n .exec (w64 (4096 * piece)) = .ok pa e →
      ∃ t, exec (.coldTextLoad n piece none) s = .next t ∧ t.mem = memWrite s.mem pa bs
        ∧ ctxAt t n = { c with cold := piece :: c.cold })
    ∧ ((warpAt s k).detected ≠ [] → (warpAt s k).handler = none → (teamAt s (warpAt s k).team).status = .resident →
      let c := ctxAt s (teamAt s (warpAt s k).team).ctx
      (freeFrame c = none → exec (.trapFrameFree k) s = .next s)
      ∧ ((freeFrame c).isSome = true → exec (.trapFrameFree k) s = .next (takeFault s k)))

/-! ### Parts that fail (chapters 19 to 22) -/

/-- R372, R390, R392 to R395, R400, R404 to R406, Table 22-1: a corrected error changes no value; an uncorrectable one of a
register, of a warp's state or of HBM takes its cause. A bank's failure closes its slice, and a second one in its group loses the
group; a slice that evacuates empties, leaves the map and reads as evacuated. A stalled engine or sequence unit is reset; an HBM row
moves to a spare; a hot or failed stack, a failed router and a withdrawn link are reported and shown in the tree, and a router's core
gives its position to another where the moves leave an embedding within R15's bound, else the device runs no more. -/
def Obligations.PartsFail : Prop :=
  ∀ (s : State) (k u m : Nat),
    ((∀ i l, k ≤ 10 → ∃ t, exec (.softErrorDetect k true m u i l) s = .next t ∧ t.mem = s.mem ∧ t.warps = s.warps)
      ∧ (∀ i l, l < 64 → bit (liveLanes (warpAt s m).pcs) l = true → (warpAt s m).exited = false →
          ∃ t, exec (.softErrorDetect 0 false m u i l) s = .next t ∧ t.mem = s.mem ∧ struck s t m 0x1A (laneBit l))
      ∧ (∀ i l, (ctxAt s (teamAt s (warpAt s m).team).ctx).faulted = none →
          ∃ t, exec (.softErrorDetect 1 false m u i l) s = .next t ∧ (ctxAt t (teamAt s (warpAt s m).team).ctx).faulted = some 0x1B)
      ∧ ∀ i l, ∃ t, exec (.softErrorDetect 9 false m u i l) s = .next t ∧ i ∈ t.poison ∧ logged s t 0x91 1)
    ∧ (k < sliceCount → s.slicesOut.contains k = false →
      ((∀ c ∈ s.closing, groupOf c.1 ≠ groupOf k) →
        ∃ t, exec (.sliceFailure k) s = .next t ∧ t.closing = s.closing ++ [(k, s.time, 0x73)]
          ∧ t.agenda = Todo.event (.sliceEvacuation k) :: s.agenda)
      ∧ (∀ c ∈ s.closing, c.1 ≠ k → groupOf c.1 = groupOf k → (c.2.2 = 0x73 ∨ c.2.2 = 0x7D) →
        ∃ t, exec (.sliceFailure k) s = .next t ∧ t.agenda = Todo.event (.reticleReset (reticleOfSlice k) 0x75) :: s.agenda
          ∧ ∀ x ∈ s.lines, groupOf x.2.home = groupOf k → x.1 ∈ t.poison)
      ∧ (s.lines = [] → s.promised = [] → (∀ c ∈ s.closing, c.1 ≠ k) →
        (∃ t, exec (.sliceSilent k) s = .next t ∧ t.slicesOut = k :: s.slicesOut ∧ partStatus t 6 k = 4 ∧ toldByTree s t 0x7D 3)
        ∧ ∃ t, exec (.sliceEvacuation k) s = .next t ∧ t.slicesOut = k :: s.slicesOut ∧ partStatus t 6 k = 4
          ∧ toldByTree s t 0x74 3)
      ∧ (∀ l x, s.lines = [(l, x)] → x.home = k → x.replicas = [] → (∀ c ∈ s.closing, c.1 = k → c.2.2 ≠ resetMark) →
        (∀ j, (x.state = .home ∨ x.state = .shared) → nearFree (closeSlice s k 0x74) (reticleOfSlice k) l = some j →
          exec (.sliceEvacuation k) s
            = .next (putLine (closeSlice s k 0x74) l { x with state := .moving, moveTo := j, since := s.time }))
        ∧ (immutable s (128 * l) = false → x.dirty = true → x.held = [] → s.promised = [] →
          ∃ t, exec (.sliceSilent k) s = .next t ∧ lineAt t l = none ∧ logged s t 0x72 1)))
    ∧ (∀ t0 b, s.closing = [(k, t0, b)] → b ≠ resetMark → t0 + 50000000 ≤ s.time →
      ∃ t, exec (.evacuationTimeout k) s = .next t ∧ t.agenda = Todo.event (.reticleReset (reticleOfSlice k) b) :: s.agenda)
    ∧ (let left := (afind s.spares (k * 2 ^ 20 + u)).getD (Config.spareRows k u)
      (left = 0 → exec (.hbmRowRemap k u m) s = .next s)
      ∧ (left ≠ 0 → ∃ t, exec (.hbmRowRemap k u m) s = .next t ∧ t.mem = s.mem
          ∧ afind t.spares (k * 2 ^ 20 + u) = some (left - 1) ∧ (left = 1 → logged s t 0x96 4)))
    ∧ (∃ t, exec (.hbmThermal k u true) s = .next t ∧ k ∈ t.hbmHot ∧ logged s t 0x99 4)
    ∧ (∃ t, exec (.hbmThermal k u false) s = .next t ∧ t.hbmHot = s.hbmHot ∧ logged s t 0x98 1)
    ∧ (k < 48 →
      (s.hbmOut.contains k = false →
        ∃ t, exec (.hbmStackFailure k none) s = .next t ∧ t.hbmOut = k :: s.hbmOut ∧ partStatus t 10 k = 3 ∧ logged s t 0x9B 4)
      ∧ (s.hbmOut.contains (k + 64 * (u + 1)) = false → partStatus s 10 k = 0 →
        ∃ t, exec (.hbmStackFailure k (some u)) s = .next t ∧ t.hbmOut = (k + 64 * (u + 1)) :: s.hbmOut ∧ partStatus t 10 k = 5
          ∧ logged s t 0x9C 4))
    ∧ ((∀ r ∈ (coreAt s k).reqs, r.state = 2 → r.waits = none → r.since + 1000000 ≤ s.time →
        ∃ t, exec (.engineNoProgress k false) s = .next t ∧ t.mem = s.mem ∧ t.agenda = Todo.event (.coreReset k 0x6E) :: s.agenda)
      ∧ ∀ x ∈ (coreAt s k).chains, x.since + 1000000 ≤ s.time →
        ∃ t, exec (.engineNoProgress k true) s = .next t ∧ t.mem = s.mem ∧ t.agenda = Todo.event (.coreReset k 0x6E) :: s.agenda)
    ∧ (∀ r, s.squ = [r] → r.told = false → squWaits s r = false →
      (s.time < r.since + 10000000 → exec (.squTimeout r.id) s = .next s)
      ∧ (r.since + 10000000 ≤ s.time →
        ∃ t, exec (.squTimeout r.id) s = .next t ∧ t.agenda = Todo.event (.sliceEvacuation (anchorOf s (lineOf r.desc))) :: s.agenda))
    ∧ ((coreAt s k).failed = false →
      ∀ ms ds, let ok := embedOk (moved (putCore s k { coreAt s k with failed := true }) ms ds)
      let fails := fun (t : State) => (coreAt t k).failed = true ∧ partStatus t 4 k = 3
      (logOfCore s k = none → ∀ e, ∃ t, exec (.routerFailure k ms ds e) s = .next t ∧ fails t ∧ toldByTree s t 0x84 3)
      ∧ ((logOfCore s k).isSome = true → ok = true →
        ∃ t, exec (.routerFailure k ms ds true) s = .next t ∧ fails t ∧ t.agenda = Todo.event (.reembed ⟨ms, ds⟩) :: s.agenda)
      ∧ ((logOfCore s k).isSome = true → ok = false →
        ∃ t, exec (.routerFailure k ms ds true) s = .next t ∧ fails t ∧ t.devstat = 4 ∧ logged s t 0x86 4))
    ∧ ((farReticle k u).isSome = true →
      (∃ t, exec (.stitchedLinkFailure k u) s = .next t ∧ partStatus t 9 (4 * k + u) = 3 ∧ toldByTree s t 0x82 3)
      ∧ ∃ t, exec (.linkDegraded k u m) s = .next t ∧ partStatus t 9 (4 * k + u) = 5 ∧ afind t.linkLanes (4 * k + u) = some m
          ∧ logged s t 0x81 1)
    ∧ ∃ t, exec (.fabricStall k u) s = .next t ∧ logged s t 0x8C 4

/-! ### Fabric, tree and routes (chapters 1, 2, 22) -/

/-- R15, R21, R22, R25, R406, R410, R411: positions move, where the result is an embedding within R15's bound, once no team stands on the
reticles concerned and nothing resolved to the cores is still to be delivered; until then the move waits. The image of the defect tree
is replaced part by part: its generation odd, its records and signature, its generation even and 2 higher, its release; the host's copy
follows in the same order, after each replacement and after a write of its address. An image of routes of the next generation, once accepted, comes into force at the slot boundary, and the old one goes 100
µs later; a bad or silent one is dropped with its report. -/
def Obligations.FabricChanges : Prop :=
  ∀ (s : State) (k n : Nat) (ms ds : List (Nat × Nat)) (rs : List Nat),
    (let old := ms.map fun m => coreOfLog s m.1
      let on := ((old ++ ms.map (·.2)).map reticleOf).eraseDups
      (embedOk (moved s ms ds) = false → exec (.reembed ⟨ms, ds⟩) s = .next s)
      ∧ (embedOk (moved s ms ds) = true →
        (ctxsOn s on = [] → (∀ x ∈ s.teams, x.2.rqImage = []) → towards s old = false →
          ∃ t, exec (.reembed ⟨ms, ds⟩) s = .next t ∧ t.embed = ms.foldl (fun e m => aput e m.1 m.2) s.embed
            ∧ t.detours = ds.foldl (fun e d => aput e d.1 d.2) [] ∧ toldByTree s t 0x85 3)
        ∧ (ctxsOn s on ≠ [] →
          ∃ t, exec (.reembed ⟨ms, ds⟩) s = .next t ∧ t.embed = s.embed ∧ t.inbox = inboxPut (s.time + 1, .reembed ⟨ms, ds⟩) s.inbox)))
    ∧ ((s.dtbytes = 0 ∨ (s.treePhase = 0 ∧ s.treeDirty = false)) → exec .defectTreeUpdate s = .next s)
    ∧ (s.dtbytes ≠ 0 →
      let wrote := fun (a : Nat) (bs : List Byte) (phase : Nat) =>
        ∃ t, exec .defectTreeUpdate s = .next t ∧ t.mem = memBlock s.mem a bs ∧ t.hostMem = s.hostMem ∧ t.treePhase = phase
      let copied := fun (a : Nat) (bs : List Byte) (phase : Nat) =>
        ∃ t, exec .defectTreeUpdate s = .next t ∧ t.mem = s.mem ∧ t.hostMem = memBlock s.hostMem a bs ∧ t.treePhase = phase
      let img := treeImage { s with treeDirty := false, treeAt := s.time } (s.treeGen + 1)
      (s.treePhase = 0 → s.treeDirty = true → wrote (s.dtaddr + 0x0C) (bytesOf 4 (s.treeGen + 1)) 1)
      ∧ (s.treePhase = 1 → wrote s.dtaddr img.1 2 ∧ ∃ t, exec .defectTreeUpdate s = .next t ∧ t.treeDirty = false ∧ t.treeAt = s.time)
      ∧ (s.treePhase = 2 → wrote (s.dtaddr + 0x0C) (bytesOf 4 (s.treeGen + 2)) 3
          ∧ ∃ t, exec .defectTreeUpdate s = .next t ∧ t.treeGen = s.treeGen + 2)
      ∧ (s.treePhase = 3 → anyCollapsing s = true → exec .defectTreeUpdate s = .next s)
      ∧ (s.treePhase = 3 → anyCollapsing s = false →
        (s.dthost = 0 → s.treeDirty = false → ∃ t, exec .defectTreeUpdate s = .next t ∧ t.treePhase = 0
          ∧ (∀ p ∈ t.promised, p.1 ≠ treeKey) ∧ ∀ p ∈ s.promised, p.1 = treeKey → s.promised.length < 65536 → p.2 ∈ t.log)
        ∧ (hostReady s = true → copied (s.dthost + 0x0C) (bytesOf 4 (s.treeGen - 1)) 4))
      ∧ (s.treePhase = 4 → copied s.dthost (withGen (s.treeGen - 1) (treeBytes s)) 5)
      ∧ (s.treePhase = 5 → ∃ t, exec .defectTreeUpdate s = .next t ∧ t.treePhase = 0 ∧ t.dtDue = none
          ∧ (s.promised = [] → t.mem = s.mem ∧ t.hostMem = memBlock s.hostMem (s.dthost + 0x0C) (bytesOf 4 s.treeGen))))
    ∧ ((s.dtDue = none ∨ s.treePhase ≠ 0 ∨ hostReady s = false) → exec .defectTreeHostCopy s = .next s)
    ∧ (s.dtDue ≠ none → s.dtbytes ≠ 0 → s.treePhase = 0 → hostReady s = true → anyCollapsing s = false →
      ∃ t, exec .defectTreeHostCopy s = .next t ∧ t.mem = s.mem ∧ t.treePhase = 4
        ∧ t.hostMem = memBlock s.hostMem (s.dthost + 0x0C) (bytesOf 4 (s.treeGen - 1)))
    ∧ ((k % 4096 ≠ 0 → exec (.dthostWrite k) s = .next s)
      ∧ exec (.dthostWrite 0) s = .next { s with dthost := 0, dtDue := none }
      ∧ (k % 4096 = 0 → k ≠ 0 → exec (.dthostWrite k) s = .next { s with dthost := k, dtDue := some (s.time + 1000000) }))
    ∧ (s.stage = 4 → s.routing.staged = none → s.routing.oldGen = none → n = s.routing.gen + 1 →
      (∃ t, exec (.routingUpdateStage n true true rs) s = .next t ∧ t.routing.staged = some (n, rs) ∧ t.routing.gen = s.routing.gen
        ∧ t.routing.routes = s.routing.routes ∧ (t.routing.accepted = none ∨ t.routing.accepted = some s.time))
      ∧ (∀ b, ∃ t, exec (.routingUpdateStage n false b rs) s = .next t ∧ t.routing.staged = none ∧ logged s t 0x88 1)
      ∧ ∃ t, exec (.routingUpdateStage n true false rs) s = .next t ∧ t.routing.staged = none ∧ logged s t 0x87 1)
    ∧ (n ≠ s.routing.gen + 1 → ∀ a b, exec (.routingUpdateStage n a b rs) s = .next s)
    ∧ (s.routing.staged = some (n, rs) →
      (s.routing.accepted = none → s.routing.since + 1000000 ≤ s.time →
        ∃ t, exec .routingVerdictTimeout s = .next t ∧ t.routing.staged = none ∧ t.routing.gen = s.routing.gen ∧ logged s t 0x89 1)
      ∧ ∀ a, s.routing.accepted = some a →
        (s.time < commitAt s a → exec .routingCommit s = .next s)
        ∧ (commitAt s a ≤ s.time →
          exec .routingCommit s
            = .next { s with routing := { gen := n, routes := rs, oldGen := some s.routing.gen, since := s.time } }))
    ∧ (s.routing.since + 100000 ≤ s.time →
      exec .routingOldDrain s = .next { s with routing := { s.routing with oldGen := none } })

/-! ### Agents outside the device (chapters 8, 15, 22) -/

/-- R316, R317, R322, R323, R376, R407 to R409, Table 15-4: a flit in sequence is acknowledged, and the eighth failure of one number
kills the port. A request of another device performs at the home of its line, a write whose tag is known only once; a completion
gives its lane the data, or the cause of an error; a dead port's requests that may be repeated take another, and a request without a
route ends in doubt after 1 ms. R154, R316, R317, R376, Tables 15-1, 20-13: a host store and a host AtomicOp perform at the home of
a line of HBM and nowhere else; a host link that comes up shows its kind, and one that goes down, a lost pool path and a port error
are reported. -/
def Obligations.OutsideAgentsAct : Prop :=
  (∀ (s : State) (p q n : Nat),
     let y := ylAt s p
     (y.trained = true →
       (q ≠ y.rxSeq → ∀ b, exec (.ylFlitReceive p q b) s = .next s)
       ∧ exec (.ylFlitReceive p y.rxSeq true) s
           = .next { s with ylPorts := aput s.ylPorts p { y with rxSeq := (y.rxSeq + 1) % 4096, fails := 0, ackSeq := y.rxSeq } }
       ∧ (∃ t, exec (.ylFlitReceive p y.rxSeq false) s = .next t ∧ (ylAt t p).rxSeq = y.rxSeq
           ∧ (y.fails < 7 → ylAt t p = { y with fails := y.fails + 1 }) ∧ (7 ≤ y.fails → (ylAt t p).trained = false))
       ∧ (∃ t, exec (.ylLinkDeath p) s = .next t ∧ (ylAt t p).trained = false ∧ toldByTree s t 0xA8 3
           ∧ ((∀ r ∈ s.remotes, r.idemp = true) → ∀ r ∈ s.remotes, r.port ≠ p → r ∈ t.remotes))
       ∧ (∃ t, exec (.ylDegraded p n) s = .next t ∧ (ylAt t p) = { y with lanes := n } ∧ partStatus t 11 p = 5 ∧ logged s t 0xAB 1)
       ∧ (∀ a bs, plainPlace s a → bs ≠ [] → a % 128 + bs.length ≤ 128 →
         ((s.tags.any fun t => t.1 = q && t.2.1 = n) = true → ∀ op ty, exec (.ylRequestArrival p q n 1 a bs op ty) s = .next s)
         ∧ ((s.tags.any fun t => t.1 = q && t.2.1 = n) = false → ∀ op ty,
           ∃ t, exec (.ylRequestArrival p q n 1 a bs op ty) s = .next t ∧ t.mem = memWrite s.mem a bs
             ∧ (t.tags.any fun t => t.1 = q && t.2.1 = n) = true))
       ∧ (∀ a bs op ty, op < 8 → ty < 6 → atyAllowed (opOfFn op) (tyOfAty ty) = true → plainPlace s a → poisonCause s a true = none →
         let w := atyBytes (tyOfAty ty)
         a % w = 0 →
         ∃ t, exec (.ylRequestArrival p q n 2 a bs op ty) s = .next t
           ∧ t.mem = memWrite s.mem a (bytesOf w (atomNew (opOfFn op) (tyOfAty ty) (memVal s.mem a w) (leVal (bs.take w))
               (leVal ((bs.drop w).take w)))))
       ∧ (∀ a bs op ty, plainPlace s a → uncached s false a = false → s.closing = [] → wayFree s (anchorOf s (lineOf a)) (lineOf a) = true →
         exec (.ylRequestArrival p q n 0 a bs op ty) s = .next (putLine s (lineOf a) { home := anchorOf s (lineOf a), since := s.time }))
       ∧ ∀ j a bs op ty, 7 ≤ j → ∃ t, exec (.ylRequestArrival p q n j a bs op ty) s = .next t ∧ t.mem = s.mem ∧ logged s t 0xAC 1)
     ∧ (y.trained = false → exec (.ylLinkDeath p) s = .next s ∧ ∀ b, exec (.ylFlitReceive p q b) s = .next s)
     ∧ (s.remotes.find? (fun r => r.tag = n) = none →
       exec (.ylRequestTimeout n) s = .next s ∧ ∀ d e bs, exec (.ylCompletionArrival n d e bs) s = .next s)
     ∧ ∀ r a l sg, s.remotes.find? (fun r => r.tag = n) = some r → s.watches.find? (fun w => w.tag = some n) = none →
         accAt s r.acc = some a → a.id = r.acc → a.lanes = [l] → l.lane = r.lane → a.kind = .load sg → a.scope < 3 → l.live = true →
         l.mute = false → l.lane < 64 → (s.accs.all fun x => !x.2.merged) = true →
         let gone := fun t => s.remotes.filter (fun x => x.tag ≠ n) = t.remotes
         (∀ bs, bs.length = a.bytes → ∃ t, exec (.ylCompletionArrival n false 0 bs) s = .next t ∧ t.mem = s.mem ∧ gone t
             ∧ accAt t a.id = some { a with lanes := [{ l with res := bs, done := true, sent := false }] })
         ∧ (∀ e bs, e ≠ 0 → ∃ t, exec (.ylCompletionArrival n false e bs) s = .next t ∧ t.mem = s.mem ∧ gone t ∧ accAt t a.id = none
             ∧ struck s t a.warp 0x28 (laneBit l.lane))
         ∧ (∀ e bs, ∃ t, exec (.ylCompletionArrival n true e bs) s = .next t ∧ t.mem = s.mem ∧ gone t ∧ accAt t a.id = none
             ∧ struck s t a.warp 0xA9 (laneBit l.lane))
         ∧ ((routed s r.dev = true ∧ (s.ylPorts.any fun p => p.2.trained) = true) ∨ s.time < r.since + 1000000 →
             exec (.ylRequestTimeout n) s = .next s)
         ∧ (routed s r.dev = false → r.since + 1000000 ≤ s.time →
             ∃ t, exec (.ylRequestTimeout n) s = .next t ∧ t.mem = s.mem ∧ gone t ∧ struck s t a.warp 0xAA (laneBit l.lane)))
  ∧ (∀ (s : State) (p a : Nat) (bs : List Byte),
       ((tierOf a ≠ .hbm → exec (.hostWrite a bs) s = .next s ∧ ∀ op size x y, exec (.hostAtomicop a op size x y) s = .next s)
         ∧ (tierOf a = .hbm → plainPlace s a → bs ≠ [] → a % 128 + bs.length ≤ 128 →
           ∃ t, exec (.hostWrite a bs) s = .next t ∧ t.mem = memWrite s.mem a bs)
         ∧ ∀ x y, tierOf a = .hbm → plainPlace s a → poisonCause s a true = none →
           (∀ op size ty f, (size = 4 ∧ ty = Aty.n32 ∨ size = 8 ∧ ty = Aty.n64 ∨ size = 16 ∧ op = 2 ∧ ty = Aty.n128) →
             (op = 0 ∧ f = AtomOp.add ∨ op = 1 ∧ f = AtomOp.exch ∨ op = 2 ∧ f = AtomOp.cas) → a % size = 0 →
             ∃ t, exec (.hostAtomicop a op size x y) s = .next t
               ∧ t.mem = memWrite s.mem a (bytesOf size (atomNew f ty (memVal s.mem a size) x y))))
       ∧ (p < 2 →
         (∀ c w, exec (.hostLinkUp p c w) s
           = .next { s with hostPorts := aput s.hostPorts p { up := true, cxl := c, width := w, pool := true }, treeDirty := true })
         ∧ ((portOfHost s p).up = true →
           ∃ t, exec (.hostLinkDown p) s = .next t ∧ portOfHost t p = { portOfHost s p with up := false } ∧ logged s t 0xA4 3)
         ∧ ∃ t, exec (.poolPathDown p) s = .next t ∧ portOfHost t p = { portOfHost s p with pool := false } ∧ logged s t 0xA6 3)
       ∧ ((portOfHost s p).up = false → exec (.hostLinkDown p) s = .next s)
       ∧ (∃ t, exec (.hostPortError p 0 a) s = .next t ∧ t.mem = s.mem ∧ t.warps = s.warps)
       ∧ (∃ t, exec (.hostPortError p 1 a) s = .next t ∧ t.mem = s.mem ∧ t.warps = s.warps ∧ logged s t 0xA3 1)
       ∧ ∃ t, exec (.hostPortError p 2 a) s = .next t ∧ t.mem = s.mem ∧ t.warps = s.warps ∧ logged s t 0xA5 4)

/-! ### Host registers, bring-up, resets and debugging (chapters 15, 22 to 24) -/

/-- R321, R328, R420: bring-up takes its steps in order, and a boot image that fails holds the device, which then serves none; at step 2
the parts that failed their test are out of use, and the torus is embedded where the result keeps R15's bound. The fabric manager
assigns the number at step 4, with the ports that train. R126: firmware sets the Yardmaster's threshold and window within their
ranges, with any such event, as the model has it (log 35). A verified firmware image is installed, any other is discarded with its
report, and an attestation is served to a verified identity. -/
def Obligations.BringUpCompletes : Prop :=
  ∀ (s : State),
    (∀ b i ds ms dt,
      let up := fun n => exec (.bringUp ⟨n, ds, ⟨ms, dt⟩, none⟩ b i) s
      (s.devstat = 2 → ∀ n, up n = .next s)
      ∧ (s.devstat ≠ 2 →
        (s.stage = 0 → (b = true → up 1 = .next { s with stage := 1, devstat := 0, identity := i })
          ∧ (b = false → ∃ t, up 1 = .next t ∧ t.devstat = 2 ∧ t.stage = 0 ∧ logged s t 0xBB 4))
        ∧ (s.stage = 1 →
          let e := moved (ds.foldl markDefective s) ms dt
          (embedOk e = true → ∃ t, up 2 = .next t ∧ t.stage = 2 ∧ t.placed = true ∧ t.dtbytes ≠ 0 ∧ t.dtbytes % 4096 = 0
            ∧ t.treeDirty = true ∧ t.embed = e.embed ∧ t.detours = e.detours ∧ ∀ d ∈ ds, partStatus t d.1 d.2 = 2)
          ∧ (embedOk e = false → up 2 = .next s))
        ∧ (s.stage = 2 → up 3 = .next { s with stage := 3 })
        ∧ (s.stage = 3 → up 4 = .next { s with stage := 4, devstat := 1 })
        ∧ (s.stage = 4 → s.devstat = 1 → ∀ n, n < 64 → (ctxAt s n).enabled = false →
          up (5 + n) = .next (putCtx s n { ctxAt s n with enabled := true, resident := true }))
        ∧ (∀ n, n < 5 → n ≠ s.stage + 1 → up n = .next s)))
    ∧ (s.stage = 1 → s.devstat ≠ 2 → s.embed = [] → s.detours = [] → s.tree = [] → (∀ c ∈ s.cores, c.2.failed = false) → ∀ b i,
      ∃ t, exec (.bringUp { step := 2 } b i) s = .next t ∧ t.stage = 2 ∧ t.placed = true ∧ t.embed = [] ∧ t.detours = [])
    ∧ (∀ b i n ds e thr win,
      (s.devstat ≠ 2 → exec (.bringUp ⟨n, ds, e, some (thr, win)⟩ b i) s = exec (.bringUp ⟨n, ds, e, none⟩ b i) (setYardmaster s thr win))
      ∧ (s.devstat ≠ 2 → 2 ≤ thr → thr ≤ 255 → ∀ k, k < 7 → ∃ t, exec (.bringUp { step := 0, yard := some (thr, 1024 * 2 ^ k) } b i) s = .next t
          ∧ t.yardThr = thr ∧ t.yardWin = 1024 * 2 ^ k ∧ t.mem = s.mem)
      ∧ (s.devstat = 2 → exec (.bringUp ⟨n, ds, e, some (thr, win)⟩ b i) s = .next s))
    ∧ (∀ n rs,
      (s.stage = 3 → ∃ t, exec (.deviceNumberAssign n rs) s = .next t ∧ t.devnum = n % 2 ^ 13 ∧ t.routing = { gen := 1, routes := rs }
        ∧ t.mem = s.mem ∧ ∀ p, p < 72 → outOfUse (partStatus s 11 p) = false → ylAt t p = { trained := true, lanes := 8 })
      ∧ (s.stage ≠ 3 → exec (.deviceNumberAssign n rs) s = .next s))
    ∧ (∀ v,
      (s.stage = 0 → ∀ ok, exec (.firmwareUpdate v ok) s = .next s)
      ∧ (s.stage ≠ 0 → exec (.firmwareUpdate v true) s = .next { s with fwVersion := v }
        ∧ ∃ t, exec (.firmwareUpdate v false) s = .next t ∧ t.fwVersion = s.fwVersion ∧ t.mem = s.mem ∧ logged s t 0xBA 1))
    ∧ (s.identity = true → s.stage ≠ 0 → exec .attestationRequest s = .next { s with attests := s.attests + 1 })
    ∧ ((s.identity = false ∨ s.stage = 0) → exec .attestationRequest s = .next s)

/-- R5, R6, R318, R423, Tables 15-2, 15-3, 23-4, 24-1: a write of a host register is one step, whatever its window, offset and value. A register takes
its value under the conditions of its row, and through its own window only: an offset that is read-only or holds no register, and a
value outside its row's, change nothing. What the host reads of a register: the status registers as their fields give them, a stored
register as it was written, and 0 of a write-only register, of an offset without a register and of a window that is not enabled. -/
def Obligations.RegistersTake : Prop :=
  ∀ (s : State) (n v : Nat),
    let c := ctxAt s n
    (∀ page off, ∃ t, exec (.registerWrite page off v) s = .next t)
    ∧ (∀ page off, 65 ≤ page → exec (.registerWrite page off v) s = .next s)
    ∧ (∀ off, off ∈ [0x000, 0x004, 0x008, 0x00C, 0x014, 0x016, 0x018, 0x030, 0x040, 0x048, 0x050, 0x060] →
      exec (.registerWrite 0 off v) s = .next s)
    ∧ exec (.registerWrite 0 0x058 v) s = exec (.dthostWrite (v % 2 ^ 64)) s
    ∧ exec (.registerWrite 0 0x010 v) s = exec (.deviceReset 1 v) s
    ∧ exec (.registerWrite 0 0x038 v) s = .next { s with drci := v % 2 ^ 64 }
    ∧ exec (.registerWrite 0 0x02A v) s = .next { s with drvec := v % 2 ^ 16 }
    ∧ exec (.registerWrite 0 0x020 (4096 * v)) s = .next { s with drbase := 4096 * v % 2 ^ 64 }
    ∧ (6 ≤ v → v ≤ 16 → exec (.registerWrite 0 0x028 v) s = .next { s with drlog2 := v })
    ∧ (250 ≤ v → v ≤ 16000 →
      ((∀ x ∈ s.ctxs, x.2.grids = []) → exec (.registerWrite 0 0x064 v) s = .next { s with tslot := v })
      ∧ ((∃ x ∈ s.ctxs, x.2.grids ≠ []) → exec (.registerWrite 0 0x064 v) s = .next s))
    ∧ (n < 64 →
      (∀ off, off ∈ [0x40, 0x58, 0x68] → exec (.registerWrite 0 (0x1000 + 0x100 * n + off) v) s = .next s)
      ∧ exec (.registerWrite 0 (0x1000 + 0x100 * n + 0x48) v) s = .next (putCtx s n { c with repseq := v % 2 ^ 64 })
      ∧ exec (.registerWrite 0 (0x1000 + 0x100 * n + 0x50) v) s = .next (putCtx s n { c with repstat := v % 2 ^ 32 })
      ∧ exec (.registerWrite 0 (0x1000 + 0x100 * n + 0x54) v) s = exec (.repgo n v) s
      ∧ exec (.registerWrite 0 (0x1000 + 0x100 * n + 0x20) v) s = .next (putCtx s n { c with wdlimit := v % 2 ^ 64 })
      ∧ exec (.registerWrite 0 (0x1000 + 0x100 * n + 0x28) v) s = .next (putCtx s n { c with fslimit := v % 2 ^ 64 })
      ∧ (ctxIdle s n = true →
        exec (.registerWrite 0 (0x1000 + 0x100 * n) v) s = .next (putCtx s n { c with hentry := v % 2 ^ 64 })
        ∧ exec (.registerWrite 0 (0x1000 + 0x100 * n + 0x18) v) s = .next (putCtx s n { c with hmask := v % 2 ^ 12 }))
      ∧ (ctxIdle s n = false → exec (.registerWrite 0 (0x1000 + 0x100 * n) v) s = .next s)
      ∧ (c.enabled = false → ∀ off, exec (.registerWrite (1 + n) off v) s = .next s)
      ∧ (c.enabled = true →
        exec (.registerWrite (1 + n) 0x018 v) s = .next (putCtx s n { c with invva := v % 2 ^ 64 })
        ∧ exec (.registerWrite (1 + n) 0x028 v) s = exec (.invgo n v) s
        ∧ (ctxIdle s n = true → exec (.registerWrite (1 + n) 0x000 v) s = .next (putCtx s n { c with root := v % 2 ^ 64 }))
        ∧ (ctxIdle s n = false → exec (.registerWrite (1 + n) 0x000 v) s = .next s)
        ∧ ∀ q, q < 32 →
            let x := queueAt c q
            exec (.registerWrite (1 + n) (0x1000 * (q + 1) + 0x10) v) s = exec (.doorbell n q (v % 2 ^ 64)) s
            ∧ exec (.registerWrite (1 + n) (0x1000 * (q + 1) + 0x0A) v) s = exec (.queueEnable n q v) s
            ∧ exec (.registerWrite (1 + n) (0x1000 * (q + 1) + 0x20) v) s = exec (.queueSkip n q v) s
            ∧ (x.enable = false → x.read = x.write →
              exec (.registerWrite (1 + n) (0x1000 * (q + 1)) (4096 * v)) s
                = .next (setQueue s n q { x with ring := w64 (4096 * v), lastGrid := none })
              ∧ (4 ≤ v → v ≤ 16 → exec (.registerWrite (1 + n) (0x1000 * (q + 1) + 8) v) s = .next (setQueue s n q { x with log2n := v }))
              ∧ (v ≤ 7 → exec (.registerWrite (1 + n) (0x1000 * (q + 1) + 9) v) s = .next (setQueue s n q { x with prio := v })))
            ∧ ((x.enable = true ∨ x.read ≠ x.write) → ∀ off, off ∈ [0, 8, 9] →
              exec (.registerWrite (1 + n) (0x1000 * (q + 1) + off) v) s = .next s)))
    ∧ (∀ (q : Nat),
      let dev := registerRead s 0
      let blk := fun off => registerRead s 0 (0x1000 + 0x100 * n + off)
      let own := registerRead s (1 + n)
      dev 0 = 0x5A48 ∧ dev 0x008 = s.devstat ∧ dev 0x00C = s.rstcause.toNat ∧ dev 0x018 = s.seqNext ∧ dev 0x020 = s.drbase
      ∧ dev 0x030 = s.drpi ∧ dev 0x038 = s.drci ∧ dev 0x058 = s.dthost ∧ dev 0x064 = s.tslot ∧ dev 0x010 = 0
      ∧ (n < 64 →
        blk 0 = c.hentry ∧ blk 0x18 = c.hmask ∧ blk 0x20 = c.wdlimit ∧ blk 0x54 = 0
        ∧ blk 0x58 = b2n c.resident + (match c.faulted with | some f => 2 + 4 * (f % 256) | none => 0)
        ∧ blk 0x64 = 0 ∧ blk 0x68 % 16 = b2n c.halted + 2 * b2n c.dbgBusy ∧ blk 0x68 / 16 % 16 = c.dbgWhy % 16
        ∧ (c.enabled = false → ∀ off, own off = 0)
        ∧ (c.enabled = true →
          own 0 = c.root ∧ own 0x028 = 0 ∧ own 0x02C = b2n c.invBusy + 2 * (c.invCount % 2 ^ 31)
          ∧ (q < 32 → own (0x1000 * (q + 1) + 0x10) = (queueAt c q).write ∧ own (0x1000 * (q + 1) + 0x18) = (queueAt c q).read
              ∧ own (0x1000 * (q + 1) + 0x20) = 0))))

/-- R360, R419, R421, R422, R425, Table 23-5: a reset of the device loses HBM, the contexts and the time, keeps the log, and counts
itself; a write of RSTCTL needs its key. A function-level reset destroys its context. A reticle that holds nothing loses its tokens
and reservations, and a core with no team its units; a unit that still holds teams waits for them. -/
def Obligations.ResetsAct : Prop :=
  ∀ (s : State) (k n : Nat),
    (∀ kind key, (kind = 0 ∨ (kind = 1 ∧ key = 0x52534554 ∧ s.devstat ≠ 3) ∨ kind = 2) →
      ∃ t, exec (.deviceReset kind key) s = .next t ∧ t.time = 0 ∧ t.seqNext = 1
        ∧ t.devstat = (if s.devstat = 2 ∧ kind ≠ 0 then 2 else 3) ∧ t.stage = 0 ∧ t.ctxs = [] ∧ t.teams = []
        ∧ t.warps = [] ∧ t.tlb = [] ∧ t.lines = [] ∧ t.accs = [] ∧ t.agenda = [] ∧ t.log = s.log ∧ t.hostMem = s.hostMem
        ∧ t.mem = s.mem.filter (fun c => tierOf c.1 ≠ .hbm) ∧ t.rstcause.toNat % 256 = kind
        ∧ t.rstcause.toNat / 2 ^ 16 = (if kind = 0 then 0 else satInc (s.rstcause.toNat / 2 ^ 16)))
    ∧ (∀ key, key ≠ 0x52534554 ∨ s.devstat = 3 → exec (.deviceReset 1 key) s = .next s)
    ∧ (∃ t, exec (.fwException n) s = .next t ∧ t.time = 0 ∧ t.devstat = (if s.devstat = 2 then 2 else 3) ∧ t.ctxs = []
        ∧ logged s t 0xBC 4
        ∧ t.rstcause.toNat % 2 ^ 16 = 0xBC03)
    ∧ ((ctxAt s n).enabled = false → exec (.functionLevelReset n) s = .next s)
    ∧ ((ctxAt s n).enabled = true →
      ∃ t, exec (.functionLevelReset n) s = .next t ∧ t.mem = s.mem ∧ ctxAt t n = {} ∧ logged s t 0xAE 2
        ∧ (∀ x ∈ t.teams, x.2.ctx ≠ n) ∧ (∀ p ∈ t.fqueue, p.ctx ≠ n) ∧ ∀ e ∈ t.tlb, e.ctx ≠ n)
    ∧ ((∀ x ∈ s.teams, holdsCore x.2 = false ∨ reticleOf x.2.core ≠ k) → s.lines = [] →
      ∃ t, exec (.reticleReset k n) s = .next t ∧ t.retResets = satInc s.retResets ∧ (∀ x ∈ t.resetting, x.1 ≠ reticleKey k)
        ∧ ∀ j, j < 10 → (clusterAt t (10 * k + j)).pocket = [] ∧ (clusterAt t (10 * k + j)).resv = []
            ∧ (clusterAt t (10 * k + j)).held = 0)
    ∧ ((∃ x ∈ s.teams, holdsCore x.2 = true ∧ reticleOf x.2.core = k) →
      ∃ t, exec (.reticleReset k n) s = .next t ∧ t.retResets = s.retResets ∧ ∃ x ∈ t.resetting, x.1 = reticleKey k)
    ∧ (let ts := s.teams.filter fun t => onCore t.2 k
      (ts = [] → (recentResets s k).length < 15 →
        ∃ t, exec (.coreReset k n) s = .next t ∧ t.coreResets = satInc s.coreResets
          ∧ coreAt t k = { keepCore (coreAt s k) with resets := recentResets s k ++ [s.time] })
      ∧ (ts ≠ [] → (∀ x ∈ ts, x.2.status = .resident) →
        exec (.coreReset k n) s
          = .next { beginReset s (coreKey k) n with agenda := ts.map (fun t => Todo.event (.preemptRequest t.1)) ++ s.agenda }))

/-- R427, R428, R431, R434: debug commands need ENABLE and no command under way. HALT switches the context out, and one already
faulted is halted at once; RESUME returns a halted context; STEP lets the target warp issue one instruction, and BACK undoes the
newest entry of its log; each without a target answers 7. A step ends by saving its team again. -/
def Obligations.DebugCommandsAct : Prop :=
  ∀ (s : State) (n : Nat),
    let c := ctxAt s n
    (dbgReady c = false → exec (.dbgHalt n) s = .next s ∧ exec (.dbgResume n) s = .next s ∧ exec (.dbgStep n) s = .next s
      ∧ exec (.dbgBack n) s = .next s)
    ∧ (dbgReady c = true → c.halted = false →
      exec (.dbgResume n) s = .next s ∧ exec (.dbgStep n) s = .next s ∧ exec (.dbgBack n) s = .next s
      ∧ (c.faulted.isSome = true → exec (.dbgHalt n) s = .next (putCtx s n { c with halted := true, dbgWhy := 1 }))
      ∧ (c.faulted = none →
        (residentTeams s n ≠ [] →
          exec (.dbgHalt n) s
            = .next { putCtx s n { c with dbgBusy := true, dbgHalt := true, dbgWhy := 1, dbgIndex := 0, stopped := true, inSwitch := true } with
                agenda := (residentTeams s n).map (fun t => Todo.event (.preemptRequest t)) ++ s.agenda })
        ∧ (residentTeams s n = [] →
          ∃ t, exec (.dbgHalt n) s = .next t ∧ t.agenda = s.agenda ∧ (ctxAt t n).halted = true ∧ (ctxAt t n).resident = false
            ∧ (ctxAt t n).dbgBusy = false ∧ (ctxAt t n).dbgWhy = 1)))
    ∧ (dbgReady c = true → c.halted = true →
      exec (.dbgHalt n) s = .next s
      ∧ (c.faulted = none → c.held = [] →
        ∃ t, exec (.dbgResume n) s = .next t ∧ (ctxAt t n).halted = false ∧ (ctxAt t n).resident = true ∧ (ctxAt t n).stopped = false)
      ∧ (dbgTarget s n = none →
        exec (.dbgStep n) s = .next (putCtx s n { c with dbgWhy := 7 }) ∧ exec (.dbgBack n) s = .next (putCtx s n { c with dbgWhy := 7 }))
      ∧ ∀ k, dbgTarget s n = some k →
          exec (.dbgStep n) s = .next (putCtx s n { c with dbgBusy := true, stepping := some (k, 0) })
          ∧ ((warpAt s k).undo = [] → exec (.dbgBack n) s = .next (putCtx s n { c with dbgWhy := 6 }))
          ∧ ∀ u us, (warpAt s k).undo = u :: us →
              exec (.dbgBack n) s = .next (putWarp (putCtx s n { c with dbgWhy := 5 }) k (undoOne (warpAt s k) u us)))
    ∧ (c.stepping = none → exec (.dbgStepEnd n) s = .next s)
    ∧ ∀ k t, c.stepping = some (k, t) →
        (afind s.teams (k / 16) = none →
          exec (.dbgStepEnd n) s = .next (putCtx s n { c with stepping := none, dbgBusy := false, dbgWhy := 4 }))
        ∧ ∀ x, afind s.teams (k / 16) = some x → x.status = .resident → t ≠ 0 →
            (stepSettled s k = true →
              exec (.dbgStepEnd n) s = .next { s with agenda := Todo.event (.preemptRequest (k / 16)) :: s.agenda })
            ∧ (stepSettled s k = false → s.time + 1 < t + 1000000 → exec (.dbgStepEnd n) s = .next s)

/-! ### Encodings (chapters 8 and 21) -/

/-- The encoder and the decoder agree: every well-formed instruction that has words decodes from them with every field as it was,
and what a word decodes to is well-formed and encodes to it. -/
def Obligations.EncodingsAgree : Prop :=
  (∀ i : Instr, WellFormed i → encode i ≠ [] → decodeWords (encode i) = some i)
    ∧ ∀ (w : W32) (nxt : Option W32) (i : Instr), decode w nxt = .ok i →
        WellFormed i ∧ encode i = w :: (if bit w 30 then nxt.toList else [])

/-- R382, Table 21-3: the opcodes and FN values that are not instructions, and their causes: a word of one of them meets that cause,
no other word meets RES_OPCODE, and a reserved TY of an instruction's opcode meets RES_VALUE. -/
def Obligations.ReservedOpcodes : Prop :=
  ∀ (w : W32) (nxt : Option W32),
    let op := (fld w 24 6).toNat
    let r := reservedFn (bit w 31) op (fld w (if bit w 31 then 3 else 0) 3).toNat
    (∀ c, w ≠ 0#32 → r = some c → ∃ f, decode w nxt = .error f ∧ f.cause = c)
    ∧ (∀ f, w ≠ 0#32 → decode w nxt = .error f → f.cause = 1 → r = some 1)
    ∧ (r = none → bit w 31 = true → op ∈ tyOpcodes → bit w 2 = true → ∃ f, decode w nxt = .error f ∧ f.cause = 2)

/-- Words that the spec writes out, of every layout, decode to the instructions that it gives for them. -/
def Obligations.WordsDecode : Prop :=
  decode 0x41061448#32 (some 0x080048C0#32) = .ok (.vadd .i32 ⟨3, 5, 9, some (.op ⟨false, 4⟩ false 0 true .rot 3 0 false)⟩)
  ∧ decode 0x4107E000#32 (some 0x887FFFF0#32) = .ok (.vadd .i32 ⟨3, 120, 0, some (.imm ⟨true, 4⟩ false 0x3FFFF0)⟩)
  ∧ decode 0x61101028#32 (some 0x04030000#32) = .ok (.smxStep ⟨8, 4, 5, some (.op ⟨false, 2⟩ false 6 false .none 0 0 false)⟩)
  ∧ decode 0x60061403#32 (some 0x08001940#32) = .ok (.vexp2 ⟨3, 5, 0, some (.op ⟨false, 4⟩ false 0 false .xor8 5 0 false)⟩)
  ∧ decode 0x2C0C9200#32 none = .ok (.rep 3 1 1 1 0)
  ∧ decode 0x2D840008#32 none = .ok (.br true 2 8)
  ∧ decode 0x700C2882#32 (some 0x00138040#32) = .ok (.ld .n32 ⟨6, 10, 16, ⟨false, 0⟩, false, 4, true, .rep, 0, .plain, 1, 0⟩)
  ∧ decode 0x710E1802#32 (some 0x000203C0#32) = .ok (.st .n32 ⟨7, 6, 0, ⟨false, 0⟩, false, 0, true, .none, 0, .plain, 15, 0⟩)
  ∧ decode 0x76001828#32 (some 0x000243C8#32) = .ok (.red .add .n32 ⟨0, 6, 5, ⟨false, 0⟩, false, 0, true, .none, 4, .plain, 15, 8⟩)
  ∧ decode 0x7E2800F0#32 (some 0x002000C0#32) = .ok (.seqRes ⟨20, 0, 30, ⟨false, 0⟩, false, 8, false, .none, 0, .plain, 3, 0⟩)
  ∧ decode 0x7E0050F9#32 (some 0x00204900#32) = .ok (.seqCmt ⟨0, 20, 31, ⟨false, 0⟩, false, 8, false, .none, 4, .release, 4, 0⟩)
  ∧ decode 0x3C080003#32 none = .ok (.fenceFull 4)
  ∧ decode 0x3D000021#32 none = .ok (.tryG false false 4)
  ∧ decode 0x3D080003#32 none = .ok (.commitG 4)
  ∧ decode 0x3D550004#32 none = .ok (.abort 0x55)
  ∧ decode 0x3D140005#32 none = .ok (.tstat 10)
  ∧ decode 0x3D281006#32 none = .ok (.tbufRead 20 4)
  ∧ decode 0x7F004000#32 (some 0x18188E00#32) = .ok (.mma ⟨16, 6, 0, 1, 2, false, 2, 3, 2, 0⟩)
  ∧ decode 0x3F040001#32 none = .ok (.aclr 2)
  ∧ decode 0x7F000802#32 (some 0x1C030800#32) = .ok (.drain ⟨0, 2, 7, 0, 1, 2, 0, 4⟩)
  ∧ decode 0xC30C0008#32 (some 0x02000000#32) = .ok (.umovi .n64 ⟨3, 0, 0, some ⟨none, true, 0⟩⟩)
  ∧ decode 0x800C3100#32 none = .ok (.uadd .n64 ⟨3, 3, 4, none⟩)
  ∧ decode 0x8C100000#32 none = .ok (.loop 4 0 none)
  ∧ decode 0xCB003000#32 (some 0x00000004#32) = .ok (.brx 3 ⟨none, 4⟩)
  ∧ decode 0x8D0000C3#32 none = .ok (.pad 0xC3)
  ∧ decode 0x8E000000#32 none = .ok (.exit none)
  ∧ decode 0x9B000000#32 none = .ok .eret

/-! ### Lanes, frames and the machine as a whole -/

/-- R207, R79: a lane instruction of this chapter, REP and its target among them, writes its destination in the lanes of `active`
only: every other lane keeps its registers and predicates, and with no active lane no register changes at all. -/
def Obligations.LanesOutsideKeep : Prop :=
  ∀ (s t : State) (i : Instr) (n : Nat) (x : LaneOp), pendOk (me s) → exec i s = .next t →
    (laneForm s i = some (n, x) ∨ sfuForm i = some (n, x) ∨ (∃ b o, i = .dot b o ∧ x = dotOp b o)
      ∨ ∃ cnt ds sa sb sc j o, i = .rep cnt ds sa sb sc
          ∧ decode (slotWord s.cur (s.cur.slot + 1)) (if s.cur.slot = 0 then some (slotWord s.cur 2) else none) = .ok j
          ∧ repTarget (fun o => o) s j = some (o, x)) →
    (∀ T, now s ≤ T → ∀ r l, l < 64 → bit (activeLanes s x) l = false →
      vAt (me t) T r l = vAt (me s) T r l ∧ pAt (me t) T r l = pAt (me s) T r l)
    ∧ (activeLanes s x = 0#64 → ∀ T, now s ≤ T → sameAt (me s) (me t) T)

/-- R350: the record in a trap frame has ENGINE bits 27:0 set to ones and every other byte as in the record; the Vilvor log, the
device ring and the context's ring carry the full value. -/
def Obligations.FramesHidePlace : Prop :=
  ∀ (r : Record) (s : State),
    (∀ (d : Detected) (w : Warp) (held : Bool) (depth : Nat), r.engine < 2 ^ 32 →
      let b := frameBytes r d w held depth
      recField b 0x14 4 = r.engine / 2 ^ 28 * 2 ^ 28 + (2 ^ 28 - 1)
      ∧ (∀ k, k < 64 → (k < 0x14 ∨ 0x18 ≤ k) → b.getD k 0#8 = (recordBytes r).getD k 0#8))
    ∧ (r.engine < 2 ^ 32 → recField (recordBytes r) 0x14 4 = r.engine)
    ∧ (publish s r).log.head? = some r
    ∧ (∀ p, outPort s = some p → r.sev ≠ 0 → s.drpi - s.drci < 2 ^ s.drlog2 →
        memBytes (toDeviceRing s r).hostMem (s.drbase + 64 * (s.drpi % 2 ^ s.drlog2)) 64 = recordBytes (withLost s.drLostFlag r))
    ∧ (let c := ctxAt s r.ctx
      ∀ ci t u, r.ctx < 64 → readVa s r.ctx (w64 (c.crbase + 64 * 2 ^ c.crlog2 + 8)) 8 = .ok ci → c.crpi - leVal ci < 2 ^ c.crlog2 →
        storeVa s r.ctx (w64 (c.crbase + 64 * (c.crpi % 2 ^ c.crlog2))) (recordBytes (withLost c.crLostFlag r)) = .ok t →
        storeVa t r.ctx (w64 (c.crbase + 64 * 2 ^ c.crlog2)) (bytesOf 8 (c.crpi + 1)) = .ok u →
        (toCtxRing s r).mem = u.mem ∧ (ctxAt (toCtxRing s r) r.ctx).crpi = c.crpi + 1)

/-- The values at reset that chapters 6, 15, 19 and 23 give, and memory in its canonical form there. -/
def Obligations.ResetValues : Prop :=
  let r := State.reset
  r.time = 0 ∧ r.seqNext = 1 ∧ r.devstat = 0 ∧ r.stage = 0 ∧ r.tslot = 0x3E8 ∧ r.drlog2 = 6 ∧ r.drbase = 0 ∧ r.drvec = 0 ∧ r.drpi = 0
  ∧ r.drci = 0 ∧ r.drlost = 0 ∧ r.dthost = 0 ∧ r.devnum = 0 ∧ r.yardThr = 8 ∧ r.yardWin = 4096 ∧ r.retResets = 0 ∧ r.coreResets = 0
  ∧ (∀ l, lineAt r l = none) ∧ r.fqueue = [] ∧ r.squ = [] ∧ r.watches = [] ∧ r.log = []
  ∧ (∀ n, (ctxAt r n).enabled = false ∧ (ctxAt r n).wdlimit = 0x03938700 ∧ (ctxAt r n).fslimit = 0x00989680 ∧ (ctxAt r n).crlog2 = 6
      ∧ (ctxAt r n).root = 0 ∧ (ctxAt r n).shed = 0 ∧ (ctxAt r n).shedsz = 0 ∧ (ctxAt r n).invBusy = false
      ∧ ∀ q, (queueAt (ctxAt r n) q).log2n = 4 ∧ (queueAt (ctxAt r n) q).enable = false ∧ (queueAt (ctxAt r n) q).write = 0
          ∧ (queueAt (ctxAt r n) q).read = 0)
  ∧ (∀ c, (coreAt r c).free = 252 ∧ (coreAt r c).emerg = 4 ∧ (coreAt r c).bars = 64 ∧ (coreAt r c).tileFree = 1048576)
  ∧ MemoryOk r

/-- Every step keeps memory, the host's memory and every tile store in canonical form. -/
def Obligations.StepKeepsMemory : Prop :=
  ∀ s t : State, MemoryOk s → step s = .next t → MemoryOk t

/-- Whose turn it is: a step carries out the first thing of the instant's agenda, an event as exec gives it; with none left, an
input that is due; and else a nanosecond passes. A port whose core has one warp, which may run and whose packet is fetched, issues
the instruction that its slot decodes to: the step is exec of that instruction, in the state of its issue, with the marks of the
issue put to the port and the warp. -/
def Obligations.StepRunsTheDecoded : Prop :=
  ∀ (s : State),
    (∀ i rest, s.agenda = Todo.event i :: rest → step s = exec i { s with agenda := rest })
    ∧ (s.agenda = [] →
      (∀ T i rest, s.inbox = (T, i) :: rest → T ≤ s.time → step s = exec i { s with inbox := rest })
      ∧ ((∀ x ∈ s.inbox.head?, s.time < x.1) → ∃ t, step s = .next t ∧ t.time = s.time + 1))
    ∧ ∀ (core port k : Nat) (rest : List Todo) (e : PcEntry) (bs : List Byte) (i : Instr) (u : State),
        s.agenda = Todo.port core port :: rest → portAt s core port = {} → coreWarps s core = [k] → mayRun s k = true →
        (warpAt s k).detected = [] → inLatch s k = false → heldElsewhere s core port k = false →
        chosenRun (runsOf (warpAt s k)) = some e → isHeld (warpAt s k) e.mask = false → stoppedRep (warpAt s k) = none →
        fetchPacket s k e = .bytes bs →
        let c := curOf s core port k e bs
        let v := { s with agenda := rest, cur := c }
        startsAt c.slots c.slot = true →
        decode (slotWord c c.slot) (if c.slot < 2 then some (slotWord c (c.slot + 1)) else none) = .ok i →
        timeReady v k (.instr i) = true → portAllows (warpAt s k) c = true → bpStops v k = none → slotPrice v c k i = none →
        exec i (putWarp v k (mapRuns (countIssue (curPc v)) (warpAt v k))) = .next u → u.cur.held = false →
        step s = .next (afterIssue u c (now v) (.instr i))
end

