-- ==== Sys2Proof/Laws/Assoc.lean ====
section
/-!
SUPPORT. Laws of sparse maps and of memory: a read after a write, and the canonical form that every write keeps.
-/
namespace Sys2Proof.Machine

variable {α : Type}

/-! ### Maps -/

/-- A read after a write of the same key gives the value written. -/
theorem aget_aput_self (d x : α) (m : List (Nat × α)) (i : Nat) : aget d (aput m i x) i = x := by
  induction m with
  | nil => simp [aput, aget]
  | cons p m ih =>
    obtain ⟨k, v⟩ := p
    simp only [aput]
    split
    · simp [aget]
    · split
      · simp [aget]
      · simp [aget, *]

/-- A write leaves every other key alone. -/
theorem aget_aput_of_ne (d x : α) (m : List (Nat × α)) {i j : Nat} (h : j ≠ i) : aget d (aput m i x) j = aget d m j := by
  induction m with
  | nil => simp [aput, aget, h]
  | cons p m ih =>
    obtain ⟨k, v⟩ := p
    simp only [aput]
    split
    · simp [aget, h]
    · split
      · subst i; simp [aget, h]
      · simp only [aget, ih]

/-- A read after a write. -/
theorem aget_aput (d x : α) (m : List (Nat × α)) (i j : Nat) :
    aget d (aput m i x) j = if j = i then x else aget d m j := by
  by_cases h : j = i
  · subst h; simp [aget_aput_self]
  · simp [h, aget_aput_of_ne]

/-- A read after an erasure. -/
theorem aget_aerase (d : α) (m : List (Nat × α)) (i j : Nat) :
    aget d (aerase m i) j = if j = i then d else aget d m j := by
  induction m with
  | nil => simp [aerase, aget]
  | cons p m ih =>
    obtain ⟨k, v⟩ := p
    simp only [aerase, List.filter_cons] at ih ⊢
    by_cases hk : k = i
    · subst hk
      simp only [ne_eq, not_true_eq_false, decide_false, Bool.false_eq_true, ↓reduceIte, ih, aget]
      by_cases hj : j = k <;> simp [hj]
    · simp only [ne_eq, hk, not_false_eq_true, decide_true, ↓reduceIte, aget, ih]
      by_cases hj : j = k <;> by_cases hi : j = i <;> simp_all

/-- A read after a write that keeps defaults unlisted. -/
theorem aget_aset [DecidableEq α] (d x : α) (m : List (Nat × α)) (i j : Nat) :
    aget d (aset d m i x) j = if j = i then x else aget d m j := by
  unfold aset
  split
  · next h => rw [aget_aerase]; simp [h]
  · rw [aget_aput]

/-- A lookup after a write. -/
theorem afind_aput (x : α) (m : List (Nat × α)) (i j : Nat) :
    afind (aput m i x) j = if j = i then some x else afind m j := by
  induction m with
  | nil => simp [aput, afind]
  | cons p m ih =>
    obtain ⟨k, v⟩ := p
    simp only [aput]
    split
    · simp [afind]
    · split
      · subst i; simp only [afind]; split <;> simp_all
      · next h1 h2 => simp only [afind, ih]; by_cases hj : j = k <;> by_cases hi : j = i <;> simp_all

/-- A lookup after an erasure. -/
theorem afind_aerase (m : List (Nat × α)) (i j : Nat) :
    afind (aerase m i) j = if j = i then none else afind m j := by
  induction m with
  | nil => simp [aerase, afind]
  | cons p m ih =>
    obtain ⟨k, v⟩ := p
    simp only [aerase, List.filter_cons] at ih ⊢
    by_cases hk : k = i
    · subst hk
      simp only [ne_eq, not_true_eq_false, decide_false, Bool.false_eq_true, ↓reduceIte, ih, afind]
      by_cases hj : j = k <;> simp [hj]
    · simp only [ne_eq, hk, not_false_eq_true, decide_true, ↓reduceIte, afind, ih]
      by_cases hj : j = k <;> by_cases hi : j = i <;> simp_all

/-- A listed value is among the entries. -/
theorem afind_mem (m : List (Nat × α)) (i : Nat) (x : α) (h : afind m i = some x) : (i, x) ∈ m := by
  induction m with
  | nil => simp [afind] at h
  | cons p m ih =>
    obtain ⟨k, v⟩ := p
    simp only [afind] at h
    split at h
    · simp_all
    · exact List.mem_cons_of_mem _ (ih h)

/-- A value read is the default or among the entries. -/
theorem aget_mem (d : α) (m : List (Nat × α)) (i : Nat) : aget d m i = d ∨ (i, aget d m i) ∈ m := by
  induction m with
  | nil => simp [aget]
  | cons p m ih =>
    obtain ⟨k, v⟩ := p
    simp only [aget]
    split
    · simp_all
    · exact ih.imp id (List.mem_cons_of_mem _)

/-- An entry after a write is the one written or an old one. -/
theorem mem_aput (m : List (Nat × α)) (i : Nat) (x : α) (p : Nat × α) (h : p ∈ aput m i x) : p = (i, x) ∨ p ∈ m := by
  induction m with
  | nil => simp_all [aput]
  | cons q m ih =>
    obtain ⟨k, v⟩ := q
    simp only [aput] at h
    split at h
    · simpa using h
    · split at h
      · simp only [List.mem_cons] at h ⊢; exact h.imp id .inr
      · simp only [List.mem_cons] at h ⊢
        rcases h with h | h
        · exact .inr (.inl h)
        · exact (ih h).imp id .inr

/-! ### The canonical form -/

/-- Keys above a bound stay above it after a write above it. -/
theorem keysAbove_aput (m : List (Nat × α)) (b i : Nat) (x : α) (h : keysAbove b m = true) (hi : b < i) :
    keysAbove b (aput m i x) = true := by
  induction m with
  | nil => simp [aput, keysAbove, hi]
  | cons p m ih =>
    obtain ⟨k, v⟩ := p
    simp only [keysAbove, Bool.and_eq_true, decide_eq_true_eq] at h
    simp only [aput]
    split
    · simp [keysAbove, hi, h]
    · split <;> simp_all [keysAbove]

/-- Keys above a bound stay above it after an erasure. -/
theorem keysAbove_aerase (m : List (Nat × α)) (b i : Nat) (h : keysAbove b m = true) : keysAbove b (aerase m i) = true := by
  induction m with
  | nil => simp [aerase, keysAbove]
  | cons p m ih =>
    obtain ⟨k, v⟩ := p
    simp only [keysAbove, Bool.and_eq_true, decide_eq_true_eq] at h
    simp only [aerase, List.filter_cons] at ih ⊢
    split <;> simp_all [keysAbove]

/-- A lower bound of the keys is a bound. -/
theorem keysAbove_mono (m : List (Nat × α)) (a b : Nat) (h : keysAbove b m = true) (hab : a ≤ b) : keysAbove a m = true := by
  induction m with
  | nil => rfl
  | cons p m ih =>
    obtain ⟨k, v⟩ := p
    simp only [keysAbove, Bool.and_eq_true, decide_eq_true_eq] at h ⊢
    exact ⟨by omega, ih h.2⟩

/-- A write of another value than the default keeps the canonical form. -/
theorem mapWf_aput [DecidableEq α] (d : α) (m : List (Nat × α)) (i : Nat) (x : α) (hx : x ≠ d) (h : mapWf d m = true) :
    mapWf d (aput m i x) = true := by
  induction m with
  | nil => simp [aput, mapWf, keysAbove, hx]
  | cons p m ih =>
    obtain ⟨k, v⟩ := p
    have h' := h
    simp only [mapWf, Bool.and_eq_true, decide_eq_true_eq] at h
    simp only [aput]
    split
    · next hik =>
      simp only [mapWf, keysAbove, Bool.and_eq_true, decide_eq_true_eq]
      exact ⟨⟨hx, hik, keysAbove_mono m i k h.1.2 (Nat.le_of_lt hik)⟩, h⟩
    · split
      · next hik => subst hik; simp [mapWf, hx, h]
      · simp only [mapWf, Bool.and_eq_true, decide_eq_true_eq]
        exact ⟨⟨h.1.1, keysAbove_aput m k i x h.1.2 (by omega)⟩, ih h.2⟩

/-- An erasure keeps the canonical form. -/
theorem mapWf_aerase [DecidableEq α] (d : α) (m : List (Nat × α)) (i : Nat) (h : mapWf d m = true) :
    mapWf d (aerase m i) = true := by
  induction m with
  | nil => rfl
  | cons p m ih =>
    obtain ⟨k, v⟩ := p
    simp only [mapWf, Bool.and_eq_true, decide_eq_true_eq] at h
    have hk := keysAbove_aerase m k i h.1.2
    have hm := ih h.2
    simp only [aerase, List.filter_cons] at hk hm ⊢
    split
    · simp only [mapWf, Bool.and_eq_true, decide_eq_true_eq]; exact ⟨⟨h.1.1, hk⟩, hm⟩
    · exact hm

/-- A write that keeps defaults unlisted keeps the canonical form. -/
theorem mapWf_aset [DecidableEq α] (d : α) (m : List (Nat × α)) (i : Nat) (x : α) (h : mapWf d m = true) :
    mapWf d (aset d m i x) = true := by
  unfold aset
  split
  · exact mapWf_aerase d m i h
  · exact mapWf_aput d m i x ‹_› h

/-! ### Memory -/

/-- A byte read after a byte was written. -/
@[simp] theorem memByte_memPut (m : Mem) (a i : Nat) (b : Byte) :
    memByte (memPut m a b) i = if i = a then b else memByte m i := aget_aset _ _ _ _ _

/-- A byte read after a byte string was written. -/
theorem memByte_memWrite (m : Mem) (a i : Nat) (bs : List Byte) :
    memByte (memWrite m a bs) i = if a ≤ i ∧ i < a + bs.length then bs.getD (i - a) 0#8 else memByte m i := by
  induction bs generalizing m a with
  | nil => simp only [memWrite, List.length_nil]; rw [if_neg (by omega)]
  | cons b bs ih =>
    simp only [memWrite, ih, memByte_memPut, List.length_cons]
    by_cases h : i = a
    · subst h; rw [if_neg (by omega), if_pos (by omega)]; simp
    · by_cases h2 : a + 1 ≤ i ∧ i < a + 1 + bs.length
      · rw [if_pos h2, if_pos (by omega)]
        have : i - a = (i - (a + 1)) + 1 := by omega
        rw [this]; simp
      · rw [if_neg h2, if_neg h, if_neg (by omega)]

/-- A byte outside a byte string written reads as before. -/
theorem memByte_memWrite_outside (m : Mem) (a i : Nat) (bs : List Byte) (h : i < a ∨ a + bs.length ≤ i) :
    memByte (memWrite m a bs) i = memByte m i := by
  rw [memByte_memWrite, if_neg (by omega)]

/-- A byte string read where it was written. -/
theorem memBytes_memWrite (m : Mem) (a : Nat) (bs : List Byte) : memBytes (memWrite m a bs) a bs.length = bs := by
  apply List.ext_getElem
  · simp [memBytes]
  · intro k h1 h2
    simp only [memBytes, List.getElem_map, List.getElem_range, memByte_memWrite]
    rw [if_pos (by omega)]
    simp [List.getD, h2]

/-- Writing a byte keeps the canonical form. -/
theorem memPut_wf (m : Mem) (a : Nat) (b : Byte) (h : Memory.wf m = true) : Memory.wf (memPut m a b) = true :=
  mapWf_aset _ _ _ _ h

/-- Writing a byte string keeps the canonical form. -/
theorem memWrite_wf (m : Mem) (a : Nat) (bs : List Byte) (h : Memory.wf m = true) : Memory.wf (memWrite m a bs) = true := by
  induction bs generalizing m a with
  | nil => exact h
  | cons b bs ih => exact ih _ _ (memPut_wf m a b h)

/-- Writing a value keeps the canonical form. -/
theorem memWriteVal_wf (m : Mem) (a n v : Nat) (h : Memory.wf m = true) : Memory.wf (memWriteVal m a n v) = true :=
  memWrite_wf _ _ _ h

end Sys2Proof.Machine
end

