-- ==== Sys2Proof/Laws/State.lean ====
section
/-!
SUPPORT. What each replacement of a part of the state leaves in each field, and what each part then reads as. One lemma per
field and replacement, so that no proof unfolds a record update.
-/
namespace Sys2Proof.Machine
open Sys2Proof

variable (s : State)

/-! ### putWarp -/

@[simp] theorem putWarp_time (k : Nat) (w : Warp) : (putWarp s k w).time = s.time := rfl
@[simp] theorem putWarp_regionOff (k : Nat) (w : Warp) : (putWarp s k w).regionOff = s.regionOff := rfl
@[simp] theorem putWarp_regionAim (k : Nat) (w : Warp) : (putWarp s k w).regionAim = s.regionAim := rfl
@[simp] theorem putWarp_mem (k : Nat) (w : Warp) : (putWarp s k w).mem = s.mem := rfl
@[simp] theorem putWarp_hostMem (k : Nat) (w : Warp) : (putWarp s k w).hostMem = s.hostMem := rfl
@[simp] theorem putWarp_poison (k : Nat) (w : Warp) : (putWarp s k w).poison = s.poison := rfl
@[simp] theorem putWarp_lines (k : Nat) (w : Warp) : (putWarp s k w).lines = s.lines := rfl
@[simp] theorem putWarp_immuts (k : Nat) (w : Warp) : (putWarp s k w).immuts = s.immuts := rfl
@[simp] theorem putWarp_tlb (k : Nat) (w : Warp) : (putWarp s k w).tlb = s.tlb := rfl
@[simp] theorem putWarp_yardThr (k : Nat) (w : Warp) : (putWarp s k w).yardThr = s.yardThr := rfl
@[simp] theorem putWarp_yardWin (k : Nat) (w : Warp) : (putWarp s k w).yardWin = s.yardWin := rfl
@[simp] theorem putWarp_slicesOut (k : Nat) (w : Warp) : (putWarp s k w).slicesOut = s.slicesOut := rfl
@[simp] theorem putWarp_closing (k : Nat) (w : Warp) : (putWarp s k w).closing = s.closing := rfl
@[simp] theorem putWarp_watches (k : Nat) (w : Warp) : (putWarp s k w).watches = s.watches := rfl
@[simp] theorem putWarp_watchCap (k : Nat) (w : Warp) : (putWarp s k w).watchCap = s.watchCap := rfl
@[simp] theorem putWarp_seqs (k : Nat) (w : Warp) : (putWarp s k w).seqs = s.seqs := rfl
@[simp] theorem putWarp_squ (k : Nat) (w : Warp) : (putWarp s k w).squ = s.squ := rfl
@[simp] theorem putWarp_ctxs (k : Nat) (w : Warp) : (putWarp s k w).ctxs = s.ctxs := rfl
@[simp] theorem putWarp_teams (k : Nat) (w : Warp) : (putWarp s k w).teams = s.teams := rfl
@[simp] theorem putWarp_accs (k : Nat) (w : Warp) : (putWarp s k w).accs = s.accs := rfl
@[simp] theorem putWarp_cores (k : Nat) (w : Warp) : (putWarp s k w).cores = s.cores := rfl
@[simp] theorem putWarp_clusters (k : Nat) (w : Warp) : (putWarp s k w).clusters = s.clusters := rfl
@[simp] theorem putWarp_retics (k : Nat) (w : Warp) : (putWarp s k w).retics = s.retics := rfl
@[simp] theorem putWarp_fqueue (k : Nat) (w : Warp) : (putWarp s k w).fqueue = s.fqueue := rfl
@[simp] theorem putWarp_fqWait (k : Nat) (w : Warp) : (putWarp s k w).fqWait = s.fqWait := rfl
@[simp] theorem putWarp_fqFull (k : Nat) (w : Warp) : (putWarp s k w).fqFull = s.fqFull := rfl
@[simp] theorem putWarp_seqNext (k : Nat) (w : Warp) : (putWarp s k w).seqNext = s.seqNext := rfl
@[simp] theorem putWarp_folds (k : Nat) (w : Warp) : (putWarp s k w).folds = s.folds := rfl
@[simp] theorem putWarp_log (k : Nat) (w : Warp) : (putWarp s k w).log = s.log := rfl
@[simp] theorem putWarp_msix (k : Nat) (w : Warp) : (putWarp s k w).msix = s.msix := rfl
@[simp] theorem putWarp_logLost (k : Nat) (w : Warp) : (putWarp s k w).logLost = s.logLost := rfl
@[simp] theorem putWarp_logTold (k : Nat) (w : Warp) : (putWarp s k w).logTold = s.logTold := rfl
@[simp] theorem putWarp_devstat (k : Nat) (w : Warp) : (putWarp s k w).devstat = s.devstat := rfl
@[simp] theorem putWarp_stage (k : Nat) (w : Warp) : (putWarp s k w).stage = s.stage := rfl
@[simp] theorem putWarp_rstcause (k : Nat) (w : Warp) : (putWarp s k w).rstcause = s.rstcause := rfl
@[simp] theorem putWarp_retResets (k : Nat) (w : Warp) : (putWarp s k w).retResets = s.retResets := rfl
@[simp] theorem putWarp_coreResets (k : Nat) (w : Warp) : (putWarp s k w).coreResets = s.coreResets := rfl
@[simp] theorem putWarp_drbase (k : Nat) (w : Warp) : (putWarp s k w).drbase = s.drbase := rfl
@[simp] theorem putWarp_drlog2 (k : Nat) (w : Warp) : (putWarp s k w).drlog2 = s.drlog2 := rfl
@[simp] theorem putWarp_drvec (k : Nat) (w : Warp) : (putWarp s k w).drvec = s.drvec := rfl
@[simp] theorem putWarp_drpi (k : Nat) (w : Warp) : (putWarp s k w).drpi = s.drpi := rfl
@[simp] theorem putWarp_drci (k : Nat) (w : Warp) : (putWarp s k w).drci = s.drci := rfl
@[simp] theorem putWarp_drlost (k : Nat) (w : Warp) : (putWarp s k w).drlost = s.drlost := rfl
@[simp] theorem putWarp_drLostFlag (k : Nat) (w : Warp) : (putWarp s k w).drLostFlag = s.drLostFlag := rfl
@[simp] theorem putWarp_dtaddr (k : Nat) (w : Warp) : (putWarp s k w).dtaddr = s.dtaddr := rfl
@[simp] theorem putWarp_dtbytes (k : Nat) (w : Warp) : (putWarp s k w).dtbytes = s.dtbytes := rfl
@[simp] theorem putWarp_dthost (k : Nat) (w : Warp) : (putWarp s k w).dthost = s.dthost := rfl
@[simp] theorem putWarp_dtDue (k : Nat) (w : Warp) : (putWarp s k w).dtDue = s.dtDue := rfl
@[simp] theorem putWarp_devnum (k : Nat) (w : Warp) : (putWarp s k w).devnum = s.devnum := rfl
@[simp] theorem putWarp_vfport (k : Nat) (w : Warp) : (putWarp s k w).vfport = s.vfport := rfl
@[simp] theorem putWarp_tslot (k : Nat) (w : Warp) : (putWarp s k w).tslot = s.tslot := rfl
@[simp] theorem putWarp_hostPorts (k : Nat) (w : Warp) : (putWarp s k w).hostPorts = s.hostPorts := rfl
@[simp] theorem putWarp_ylPorts (k : Nat) (w : Warp) : (putWarp s k w).ylPorts = s.ylPorts := rfl
@[simp] theorem putWarp_routing (k : Nat) (w : Warp) : (putWarp s k w).routing = s.routing := rfl
@[simp] theorem putWarp_tags (k : Nat) (w : Warp) : (putWarp s k w).tags = s.tags := rfl
@[simp] theorem putWarp_remotes (k : Nat) (w : Warp) : (putWarp s k w).remotes = s.remotes := rfl
@[simp] theorem putWarp_tree (k : Nat) (w : Warp) : (putWarp s k w).tree = s.tree := rfl
@[simp] theorem putWarp_treeGen (k : Nat) (w : Warp) : (putWarp s k w).treeGen = s.treeGen := rfl
@[simp] theorem putWarp_treeAt (k : Nat) (w : Warp) : (putWarp s k w).treeAt = s.treeAt := rfl
@[simp] theorem putWarp_treeDirty (k : Nat) (w : Warp) : (putWarp s k w).treeDirty = s.treeDirty := rfl
@[simp] theorem putWarp_walkersOut (k : Nat) (w : Warp) : (putWarp s k w).walkersOut = s.walkersOut := rfl
@[simp] theorem putWarp_linkLanes (k : Nat) (w : Warp) : (putWarp s k w).linkLanes = s.linkLanes := rfl
@[simp] theorem putWarp_embed (k : Nat) (w : Warp) : (putWarp s k w).embed = s.embed := rfl
@[simp] theorem putWarp_placed (k : Nat) (w : Warp) : (putWarp s k w).placed = s.placed := rfl
@[simp] theorem putWarp_hbmOut (k : Nat) (w : Warp) : (putWarp s k w).hbmOut = s.hbmOut := rfl
@[simp] theorem putWarp_hbmHot (k : Nat) (w : Warp) : (putWarp s k w).hbmHot = s.hbmHot := rfl
@[simp] theorem putWarp_spares (k : Nat) (w : Warp) : (putWarp s k w).spares = s.spares := rfl
@[simp] theorem putWarp_fwVersion (k : Nat) (w : Warp) : (putWarp s k w).fwVersion = s.fwVersion := rfl
@[simp] theorem putWarp_identity (k : Nat) (w : Warp) : (putWarp s k w).identity = s.identity := rfl
@[simp] theorem putWarp_poolOver (k : Nat) (w : Warp) : (putWarp s k w).poolOver = s.poolOver := rfl
@[simp] theorem putWarp_powerAt (k : Nat) (w : Warp) : (putWarp s k w).powerAt = s.powerAt := rfl
@[simp] theorem putWarp_boostStop (k : Nat) (w : Warp) : (putWarp s k w).boostStop = s.boostStop := rfl
@[simp] theorem putWarp_attests (k : Nat) (w : Warp) : (putWarp s k w).attests = s.attests := rfl
@[simp] theorem putWarp_nextId (k : Nat) (w : Warp) : (putWarp s k w).nextId = s.nextId := rfl
@[simp] theorem putWarp_freeCtr (k : Nat) (w : Warp) : (putWarp s k w).freeCtr = s.freeCtr := rfl
@[simp] theorem putWarp_cur (k : Nat) (w : Warp) : (putWarp s k w).cur = s.cur := rfl
@[simp] theorem putWarp_agenda (k : Nat) (w : Warp) : (putWarp s k w).agenda = s.agenda := rfl
@[simp] theorem putWarp_promised (k : Nat) (w : Warp) : (putWarp s k w).promised = s.promised := rfl
@[simp] theorem putWarp_resetting (k : Nat) (w : Warp) : (putWarp s k w).resetting = s.resetting := rfl
@[simp] theorem putWarp_calledBy (k : Nat) (w : Warp) : (putWarp s k w).calledBy = s.calledBy := rfl
@[simp] theorem putWarp_replies (k : Nat) (w : Warp) : (putWarp s k w).replies = s.replies := rfl
@[simp] theorem putWarp_treePhase (k : Nat) (w : Warp) : (putWarp s k w).treePhase = s.treePhase := rfl
@[simp] theorem putWarp_detours (k : Nat) (w : Warp) : (putWarp s k w).detours = s.detours := rfl
@[simp] theorem putWarp_inbox (k : Nat) (w : Warp) : (putWarp s k w).inbox = s.inbox := rfl

@[simp] theorem warpAt_putWarp (k : Nat) (w : Warp) (j : Nat) : warpAt (putWarp s k w) j = if j = k then w else warpAt s j := aget_aput _ _ _ _ _
@[simp] theorem teamAt_putWarp (k : Nat) (w : Warp) (j : Nat) : teamAt (putWarp s k w) j = teamAt s j := rfl
@[simp] theorem coreAt_putWarp (k : Nat) (w : Warp) (j : Nat) : coreAt (putWarp s k w) j = coreAt s j := rfl
@[simp] theorem clusterAt_putWarp (k : Nat) (w : Warp) (j : Nat) : clusterAt (putWarp s k w) j = clusterAt s j := rfl
@[simp] theorem reticleAt_putWarp (k : Nat) (w : Warp) (j : Nat) : reticleAt (putWarp s k w) j = reticleAt s j := rfl
@[simp] theorem ctxAt_putWarp (k : Nat) (w : Warp) (j : Nat) : ctxAt (putWarp s k w) j = ctxAt s j := rfl
@[simp] theorem accAt_putWarp (k : Nat) (w : Warp) (j : Nat) : accAt (putWarp s k w) j = accAt s j := rfl
@[simp] theorem lineAt_putWarp (k : Nat) (w : Warp) (j : Nat) : lineAt (putWarp s k w) j = lineAt s j := rfl

/-! ### putTeam -/

@[simp] theorem putTeam_time (k : Nat) (x : Team) : (putTeam s k x).time = s.time := rfl
@[simp] theorem putTeam_regionOff (k : Nat) (x : Team) : (putTeam s k x).regionOff = s.regionOff := rfl
@[simp] theorem putTeam_regionAim (k : Nat) (x : Team) : (putTeam s k x).regionAim = s.regionAim := rfl
@[simp] theorem putTeam_mem (k : Nat) (x : Team) : (putTeam s k x).mem = s.mem := rfl
@[simp] theorem putTeam_hostMem (k : Nat) (x : Team) : (putTeam s k x).hostMem = s.hostMem := rfl
@[simp] theorem putTeam_poison (k : Nat) (x : Team) : (putTeam s k x).poison = s.poison := rfl
@[simp] theorem putTeam_lines (k : Nat) (x : Team) : (putTeam s k x).lines = s.lines := rfl
@[simp] theorem putTeam_immuts (k : Nat) (x : Team) : (putTeam s k x).immuts = s.immuts := rfl
@[simp] theorem putTeam_tlb (k : Nat) (x : Team) : (putTeam s k x).tlb = s.tlb := rfl
@[simp] theorem putTeam_yardThr (k : Nat) (x : Team) : (putTeam s k x).yardThr = s.yardThr := rfl
@[simp] theorem putTeam_yardWin (k : Nat) (x : Team) : (putTeam s k x).yardWin = s.yardWin := rfl
@[simp] theorem putTeam_slicesOut (k : Nat) (x : Team) : (putTeam s k x).slicesOut = s.slicesOut := rfl
@[simp] theorem putTeam_closing (k : Nat) (x : Team) : (putTeam s k x).closing = s.closing := rfl
@[simp] theorem putTeam_watches (k : Nat) (x : Team) : (putTeam s k x).watches = s.watches := rfl
@[simp] theorem putTeam_watchCap (k : Nat) (x : Team) : (putTeam s k x).watchCap = s.watchCap := rfl
@[simp] theorem putTeam_seqs (k : Nat) (x : Team) : (putTeam s k x).seqs = s.seqs := rfl
@[simp] theorem putTeam_squ (k : Nat) (x : Team) : (putTeam s k x).squ = s.squ := rfl
@[simp] theorem putTeam_ctxs (k : Nat) (x : Team) : (putTeam s k x).ctxs = s.ctxs := rfl
@[simp] theorem putTeam_warps (k : Nat) (x : Team) : (putTeam s k x).warps = s.warps := rfl
@[simp] theorem putTeam_accs (k : Nat) (x : Team) : (putTeam s k x).accs = s.accs := rfl
@[simp] theorem putTeam_cores (k : Nat) (x : Team) : (putTeam s k x).cores = s.cores := rfl
@[simp] theorem putTeam_clusters (k : Nat) (x : Team) : (putTeam s k x).clusters = s.clusters := rfl
@[simp] theorem putTeam_retics (k : Nat) (x : Team) : (putTeam s k x).retics = s.retics := rfl
@[simp] theorem putTeam_fqueue (k : Nat) (x : Team) : (putTeam s k x).fqueue = s.fqueue := rfl
@[simp] theorem putTeam_fqWait (k : Nat) (x : Team) : (putTeam s k x).fqWait = s.fqWait := rfl
@[simp] theorem putTeam_fqFull (k : Nat) (x : Team) : (putTeam s k x).fqFull = s.fqFull := rfl
@[simp] theorem putTeam_seqNext (k : Nat) (x : Team) : (putTeam s k x).seqNext = s.seqNext := rfl
@[simp] theorem putTeam_folds (k : Nat) (x : Team) : (putTeam s k x).folds = s.folds := rfl
@[simp] theorem putTeam_log (k : Nat) (x : Team) : (putTeam s k x).log = s.log := rfl
@[simp] theorem putTeam_msix (k : Nat) (x : Team) : (putTeam s k x).msix = s.msix := rfl
@[simp] theorem putTeam_logLost (k : Nat) (x : Team) : (putTeam s k x).logLost = s.logLost := rfl
@[simp] theorem putTeam_logTold (k : Nat) (x : Team) : (putTeam s k x).logTold = s.logTold := rfl
@[simp] theorem putTeam_devstat (k : Nat) (x : Team) : (putTeam s k x).devstat = s.devstat := rfl
@[simp] theorem putTeam_stage (k : Nat) (x : Team) : (putTeam s k x).stage = s.stage := rfl
@[simp] theorem putTeam_rstcause (k : Nat) (x : Team) : (putTeam s k x).rstcause = s.rstcause := rfl
@[simp] theorem putTeam_retResets (k : Nat) (x : Team) : (putTeam s k x).retResets = s.retResets := rfl
@[simp] theorem putTeam_coreResets (k : Nat) (x : Team) : (putTeam s k x).coreResets = s.coreResets := rfl
@[simp] theorem putTeam_drbase (k : Nat) (x : Team) : (putTeam s k x).drbase = s.drbase := rfl
@[simp] theorem putTeam_drlog2 (k : Nat) (x : Team) : (putTeam s k x).drlog2 = s.drlog2 := rfl
@[simp] theorem putTeam_drvec (k : Nat) (x : Team) : (putTeam s k x).drvec = s.drvec := rfl
@[simp] theorem putTeam_drpi (k : Nat) (x : Team) : (putTeam s k x).drpi = s.drpi := rfl
@[simp] theorem putTeam_drci (k : Nat) (x : Team) : (putTeam s k x).drci = s.drci := rfl
@[simp] theorem putTeam_drlost (k : Nat) (x : Team) : (putTeam s k x).drlost = s.drlost := rfl
@[simp] theorem putTeam_drLostFlag (k : Nat) (x : Team) : (putTeam s k x).drLostFlag = s.drLostFlag := rfl
@[simp] theorem putTeam_dtaddr (k : Nat) (x : Team) : (putTeam s k x).dtaddr = s.dtaddr := rfl
@[simp] theorem putTeam_dtbytes (k : Nat) (x : Team) : (putTeam s k x).dtbytes = s.dtbytes := rfl
@[simp] theorem putTeam_dthost (k : Nat) (x : Team) : (putTeam s k x).dthost = s.dthost := rfl
@[simp] theorem putTeam_dtDue (k : Nat) (x : Team) : (putTeam s k x).dtDue = s.dtDue := rfl
@[simp] theorem putTeam_devnum (k : Nat) (x : Team) : (putTeam s k x).devnum = s.devnum := rfl
@[simp] theorem putTeam_vfport (k : Nat) (x : Team) : (putTeam s k x).vfport = s.vfport := rfl
@[simp] theorem putTeam_tslot (k : Nat) (x : Team) : (putTeam s k x).tslot = s.tslot := rfl
@[simp] theorem putTeam_hostPorts (k : Nat) (x : Team) : (putTeam s k x).hostPorts = s.hostPorts := rfl
@[simp] theorem putTeam_ylPorts (k : Nat) (x : Team) : (putTeam s k x).ylPorts = s.ylPorts := rfl
@[simp] theorem putTeam_routing (k : Nat) (x : Team) : (putTeam s k x).routing = s.routing := rfl
@[simp] theorem putTeam_tags (k : Nat) (x : Team) : (putTeam s k x).tags = s.tags := rfl
@[simp] theorem putTeam_remotes (k : Nat) (x : Team) : (putTeam s k x).remotes = s.remotes := rfl
@[simp] theorem putTeam_tree (k : Nat) (x : Team) : (putTeam s k x).tree = s.tree := rfl
@[simp] theorem putTeam_treeGen (k : Nat) (x : Team) : (putTeam s k x).treeGen = s.treeGen := rfl
@[simp] theorem putTeam_treeAt (k : Nat) (x : Team) : (putTeam s k x).treeAt = s.treeAt := rfl
@[simp] theorem putTeam_treeDirty (k : Nat) (x : Team) : (putTeam s k x).treeDirty = s.treeDirty := rfl
@[simp] theorem putTeam_walkersOut (k : Nat) (x : Team) : (putTeam s k x).walkersOut = s.walkersOut := rfl
@[simp] theorem putTeam_linkLanes (k : Nat) (x : Team) : (putTeam s k x).linkLanes = s.linkLanes := rfl
@[simp] theorem putTeam_embed (k : Nat) (x : Team) : (putTeam s k x).embed = s.embed := rfl
@[simp] theorem putTeam_placed (k : Nat) (x : Team) : (putTeam s k x).placed = s.placed := rfl
@[simp] theorem putTeam_hbmOut (k : Nat) (x : Team) : (putTeam s k x).hbmOut = s.hbmOut := rfl
@[simp] theorem putTeam_hbmHot (k : Nat) (x : Team) : (putTeam s k x).hbmHot = s.hbmHot := rfl
@[simp] theorem putTeam_spares (k : Nat) (x : Team) : (putTeam s k x).spares = s.spares := rfl
@[simp] theorem putTeam_fwVersion (k : Nat) (x : Team) : (putTeam s k x).fwVersion = s.fwVersion := rfl
@[simp] theorem putTeam_identity (k : Nat) (x : Team) : (putTeam s k x).identity = s.identity := rfl
@[simp] theorem putTeam_poolOver (k : Nat) (x : Team) : (putTeam s k x).poolOver = s.poolOver := rfl
@[simp] theorem putTeam_powerAt (k : Nat) (x : Team) : (putTeam s k x).powerAt = s.powerAt := rfl
@[simp] theorem putTeam_boostStop (k : Nat) (x : Team) : (putTeam s k x).boostStop = s.boostStop := rfl
@[simp] theorem putTeam_attests (k : Nat) (x : Team) : (putTeam s k x).attests = s.attests := rfl
@[simp] theorem putTeam_nextId (k : Nat) (x : Team) : (putTeam s k x).nextId = s.nextId := rfl
@[simp] theorem putTeam_freeCtr (k : Nat) (x : Team) : (putTeam s k x).freeCtr = s.freeCtr := rfl
@[simp] theorem putTeam_cur (k : Nat) (x : Team) : (putTeam s k x).cur = s.cur := rfl
@[simp] theorem putTeam_agenda (k : Nat) (x : Team) : (putTeam s k x).agenda = s.agenda := rfl
@[simp] theorem putTeam_promised (k : Nat) (x : Team) : (putTeam s k x).promised = s.promised := rfl
@[simp] theorem putTeam_resetting (k : Nat) (x : Team) : (putTeam s k x).resetting = s.resetting := rfl
@[simp] theorem putTeam_calledBy (k : Nat) (x : Team) : (putTeam s k x).calledBy = s.calledBy := rfl
@[simp] theorem putTeam_replies (k : Nat) (x : Team) : (putTeam s k x).replies = s.replies := rfl
@[simp] theorem putTeam_treePhase (k : Nat) (x : Team) : (putTeam s k x).treePhase = s.treePhase := rfl
@[simp] theorem putTeam_detours (k : Nat) (x : Team) : (putTeam s k x).detours = s.detours := rfl
@[simp] theorem putTeam_inbox (k : Nat) (x : Team) : (putTeam s k x).inbox = s.inbox := rfl

@[simp] theorem warpAt_putTeam (k : Nat) (x : Team) (j : Nat) : warpAt (putTeam s k x) j = warpAt s j := rfl
@[simp] theorem teamAt_putTeam (k : Nat) (x : Team) (j : Nat) : teamAt (putTeam s k x) j = if j = k then x else teamAt s j := aget_aput _ _ _ _ _
@[simp] theorem coreAt_putTeam (k : Nat) (x : Team) (j : Nat) : coreAt (putTeam s k x) j = coreAt s j := rfl
@[simp] theorem clusterAt_putTeam (k : Nat) (x : Team) (j : Nat) : clusterAt (putTeam s k x) j = clusterAt s j := rfl
@[simp] theorem reticleAt_putTeam (k : Nat) (x : Team) (j : Nat) : reticleAt (putTeam s k x) j = reticleAt s j := rfl
@[simp] theorem ctxAt_putTeam (k : Nat) (x : Team) (j : Nat) : ctxAt (putTeam s k x) j = ctxAt s j := rfl
@[simp] theorem accAt_putTeam (k : Nat) (x : Team) (j : Nat) : accAt (putTeam s k x) j = accAt s j := rfl
@[simp] theorem lineAt_putTeam (k : Nat) (x : Team) (j : Nat) : lineAt (putTeam s k x) j = lineAt s j := rfl

/-! ### putCore -/

@[simp] theorem putCore_time (k : Nat) (x : Core) : (putCore s k x).time = s.time := rfl
@[simp] theorem putCore_regionOff (k : Nat) (x : Core) : (putCore s k x).regionOff = s.regionOff := rfl
@[simp] theorem putCore_regionAim (k : Nat) (x : Core) : (putCore s k x).regionAim = s.regionAim := rfl
@[simp] theorem putCore_mem (k : Nat) (x : Core) : (putCore s k x).mem = s.mem := rfl
@[simp] theorem putCore_hostMem (k : Nat) (x : Core) : (putCore s k x).hostMem = s.hostMem := rfl
@[simp] theorem putCore_poison (k : Nat) (x : Core) : (putCore s k x).poison = s.poison := rfl
@[simp] theorem putCore_lines (k : Nat) (x : Core) : (putCore s k x).lines = s.lines := rfl
@[simp] theorem putCore_immuts (k : Nat) (x : Core) : (putCore s k x).immuts = s.immuts := rfl
@[simp] theorem putCore_tlb (k : Nat) (x : Core) : (putCore s k x).tlb = s.tlb := rfl
@[simp] theorem putCore_yardThr (k : Nat) (x : Core) : (putCore s k x).yardThr = s.yardThr := rfl
@[simp] theorem putCore_yardWin (k : Nat) (x : Core) : (putCore s k x).yardWin = s.yardWin := rfl
@[simp] theorem putCore_slicesOut (k : Nat) (x : Core) : (putCore s k x).slicesOut = s.slicesOut := rfl
@[simp] theorem putCore_closing (k : Nat) (x : Core) : (putCore s k x).closing = s.closing := rfl
@[simp] theorem putCore_watches (k : Nat) (x : Core) : (putCore s k x).watches = s.watches := rfl
@[simp] theorem putCore_watchCap (k : Nat) (x : Core) : (putCore s k x).watchCap = s.watchCap := rfl
@[simp] theorem putCore_seqs (k : Nat) (x : Core) : (putCore s k x).seqs = s.seqs := rfl
@[simp] theorem putCore_squ (k : Nat) (x : Core) : (putCore s k x).squ = s.squ := rfl
@[simp] theorem putCore_ctxs (k : Nat) (x : Core) : (putCore s k x).ctxs = s.ctxs := rfl
@[simp] theorem putCore_teams (k : Nat) (x : Core) : (putCore s k x).teams = s.teams := rfl
@[simp] theorem putCore_warps (k : Nat) (x : Core) : (putCore s k x).warps = s.warps := rfl
@[simp] theorem putCore_accs (k : Nat) (x : Core) : (putCore s k x).accs = s.accs := rfl
@[simp] theorem putCore_clusters (k : Nat) (x : Core) : (putCore s k x).clusters = s.clusters := rfl
@[simp] theorem putCore_retics (k : Nat) (x : Core) : (putCore s k x).retics = s.retics := rfl
@[simp] theorem putCore_fqueue (k : Nat) (x : Core) : (putCore s k x).fqueue = s.fqueue := rfl
@[simp] theorem putCore_fqWait (k : Nat) (x : Core) : (putCore s k x).fqWait = s.fqWait := rfl
@[simp] theorem putCore_fqFull (k : Nat) (x : Core) : (putCore s k x).fqFull = s.fqFull := rfl
@[simp] theorem putCore_seqNext (k : Nat) (x : Core) : (putCore s k x).seqNext = s.seqNext := rfl
@[simp] theorem putCore_folds (k : Nat) (x : Core) : (putCore s k x).folds = s.folds := rfl
@[simp] theorem putCore_log (k : Nat) (x : Core) : (putCore s k x).log = s.log := rfl
@[simp] theorem putCore_msix (k : Nat) (x : Core) : (putCore s k x).msix = s.msix := rfl
@[simp] theorem putCore_logLost (k : Nat) (x : Core) : (putCore s k x).logLost = s.logLost := rfl
@[simp] theorem putCore_logTold (k : Nat) (x : Core) : (putCore s k x).logTold = s.logTold := rfl
@[simp] theorem putCore_devstat (k : Nat) (x : Core) : (putCore s k x).devstat = s.devstat := rfl
@[simp] theorem putCore_stage (k : Nat) (x : Core) : (putCore s k x).stage = s.stage := rfl
@[simp] theorem putCore_rstcause (k : Nat) (x : Core) : (putCore s k x).rstcause = s.rstcause := rfl
@[simp] theorem putCore_retResets (k : Nat) (x : Core) : (putCore s k x).retResets = s.retResets := rfl
@[simp] theorem putCore_coreResets (k : Nat) (x : Core) : (putCore s k x).coreResets = s.coreResets := rfl
@[simp] theorem putCore_drbase (k : Nat) (x : Core) : (putCore s k x).drbase = s.drbase := rfl
@[simp] theorem putCore_drlog2 (k : Nat) (x : Core) : (putCore s k x).drlog2 = s.drlog2 := rfl
@[simp] theorem putCore_drvec (k : Nat) (x : Core) : (putCore s k x).drvec = s.drvec := rfl
@[simp] theorem putCore_drpi (k : Nat) (x : Core) : (putCore s k x).drpi = s.drpi := rfl
@[simp] theorem putCore_drci (k : Nat) (x : Core) : (putCore s k x).drci = s.drci := rfl
@[simp] theorem putCore_drlost (k : Nat) (x : Core) : (putCore s k x).drlost = s.drlost := rfl
@[simp] theorem putCore_drLostFlag (k : Nat) (x : Core) : (putCore s k x).drLostFlag = s.drLostFlag := rfl
@[simp] theorem putCore_dtaddr (k : Nat) (x : Core) : (putCore s k x).dtaddr = s.dtaddr := rfl
@[simp] theorem putCore_dtbytes (k : Nat) (x : Core) : (putCore s k x).dtbytes = s.dtbytes := rfl
@[simp] theorem putCore_dthost (k : Nat) (x : Core) : (putCore s k x).dthost = s.dthost := rfl
@[simp] theorem putCore_dtDue (k : Nat) (x : Core) : (putCore s k x).dtDue = s.dtDue := rfl
@[simp] theorem putCore_devnum (k : Nat) (x : Core) : (putCore s k x).devnum = s.devnum := rfl
@[simp] theorem putCore_vfport (k : Nat) (x : Core) : (putCore s k x).vfport = s.vfport := rfl
@[simp] theorem putCore_tslot (k : Nat) (x : Core) : (putCore s k x).tslot = s.tslot := rfl
@[simp] theorem putCore_hostPorts (k : Nat) (x : Core) : (putCore s k x).hostPorts = s.hostPorts := rfl
@[simp] theorem putCore_ylPorts (k : Nat) (x : Core) : (putCore s k x).ylPorts = s.ylPorts := rfl
@[simp] theorem putCore_routing (k : Nat) (x : Core) : (putCore s k x).routing = s.routing := rfl
@[simp] theorem putCore_tags (k : Nat) (x : Core) : (putCore s k x).tags = s.tags := rfl
@[simp] theorem putCore_remotes (k : Nat) (x : Core) : (putCore s k x).remotes = s.remotes := rfl
@[simp] theorem putCore_tree (k : Nat) (x : Core) : (putCore s k x).tree = s.tree := rfl
@[simp] theorem putCore_treeGen (k : Nat) (x : Core) : (putCore s k x).treeGen = s.treeGen := rfl
@[simp] theorem putCore_treeAt (k : Nat) (x : Core) : (putCore s k x).treeAt = s.treeAt := rfl
@[simp] theorem putCore_treeDirty (k : Nat) (x : Core) : (putCore s k x).treeDirty = s.treeDirty := rfl
@[simp] theorem putCore_walkersOut (k : Nat) (x : Core) : (putCore s k x).walkersOut = s.walkersOut := rfl
@[simp] theorem putCore_linkLanes (k : Nat) (x : Core) : (putCore s k x).linkLanes = s.linkLanes := rfl
@[simp] theorem putCore_embed (k : Nat) (x : Core) : (putCore s k x).embed = s.embed := rfl
@[simp] theorem putCore_placed (k : Nat) (x : Core) : (putCore s k x).placed = s.placed := rfl
@[simp] theorem putCore_hbmOut (k : Nat) (x : Core) : (putCore s k x).hbmOut = s.hbmOut := rfl
@[simp] theorem putCore_hbmHot (k : Nat) (x : Core) : (putCore s k x).hbmHot = s.hbmHot := rfl
@[simp] theorem putCore_spares (k : Nat) (x : Core) : (putCore s k x).spares = s.spares := rfl
@[simp] theorem putCore_fwVersion (k : Nat) (x : Core) : (putCore s k x).fwVersion = s.fwVersion := rfl
@[simp] theorem putCore_identity (k : Nat) (x : Core) : (putCore s k x).identity = s.identity := rfl
@[simp] theorem putCore_poolOver (k : Nat) (x : Core) : (putCore s k x).poolOver = s.poolOver := rfl
@[simp] theorem putCore_powerAt (k : Nat) (x : Core) : (putCore s k x).powerAt = s.powerAt := rfl
@[simp] theorem putCore_boostStop (k : Nat) (x : Core) : (putCore s k x).boostStop = s.boostStop := rfl
@[simp] theorem putCore_attests (k : Nat) (x : Core) : (putCore s k x).attests = s.attests := rfl
@[simp] theorem putCore_nextId (k : Nat) (x : Core) : (putCore s k x).nextId = s.nextId := rfl
@[simp] theorem putCore_freeCtr (k : Nat) (x : Core) : (putCore s k x).freeCtr = s.freeCtr := rfl
@[simp] theorem putCore_cur (k : Nat) (x : Core) : (putCore s k x).cur = s.cur := rfl
@[simp] theorem putCore_agenda (k : Nat) (x : Core) : (putCore s k x).agenda = s.agenda := rfl
@[simp] theorem putCore_promised (k : Nat) (x : Core) : (putCore s k x).promised = s.promised := rfl
@[simp] theorem putCore_resetting (k : Nat) (x : Core) : (putCore s k x).resetting = s.resetting := rfl
@[simp] theorem putCore_calledBy (k : Nat) (x : Core) : (putCore s k x).calledBy = s.calledBy := rfl
@[simp] theorem putCore_replies (k : Nat) (x : Core) : (putCore s k x).replies = s.replies := rfl
@[simp] theorem putCore_treePhase (k : Nat) (x : Core) : (putCore s k x).treePhase = s.treePhase := rfl
@[simp] theorem putCore_detours (k : Nat) (x : Core) : (putCore s k x).detours = s.detours := rfl
@[simp] theorem putCore_inbox (k : Nat) (x : Core) : (putCore s k x).inbox = s.inbox := rfl

@[simp] theorem warpAt_putCore (k : Nat) (x : Core) (j : Nat) : warpAt (putCore s k x) j = warpAt s j := rfl
@[simp] theorem teamAt_putCore (k : Nat) (x : Core) (j : Nat) : teamAt (putCore s k x) j = teamAt s j := rfl
@[simp] theorem coreAt_putCore (k : Nat) (x : Core) (j : Nat) : coreAt (putCore s k x) j = if j = k then x else coreAt s j := aget_aput _ _ _ _ _
@[simp] theorem clusterAt_putCore (k : Nat) (x : Core) (j : Nat) : clusterAt (putCore s k x) j = clusterAt s j := rfl
@[simp] theorem reticleAt_putCore (k : Nat) (x : Core) (j : Nat) : reticleAt (putCore s k x) j = reticleAt s j := rfl
@[simp] theorem ctxAt_putCore (k : Nat) (x : Core) (j : Nat) : ctxAt (putCore s k x) j = ctxAt s j := rfl
@[simp] theorem accAt_putCore (k : Nat) (x : Core) (j : Nat) : accAt (putCore s k x) j = accAt s j := rfl
@[simp] theorem lineAt_putCore (k : Nat) (x : Core) (j : Nat) : lineAt (putCore s k x) j = lineAt s j := rfl

/-! ### putCluster -/

@[simp] theorem putCluster_time (k : Nat) (x : Cluster) : (putCluster s k x).time = s.time := rfl
@[simp] theorem putCluster_regionOff (k : Nat) (x : Cluster) : (putCluster s k x).regionOff = s.regionOff := rfl
@[simp] theorem putCluster_regionAim (k : Nat) (x : Cluster) : (putCluster s k x).regionAim = s.regionAim := rfl
@[simp] theorem putCluster_mem (k : Nat) (x : Cluster) : (putCluster s k x).mem = s.mem := rfl
@[simp] theorem putCluster_hostMem (k : Nat) (x : Cluster) : (putCluster s k x).hostMem = s.hostMem := rfl
@[simp] theorem putCluster_poison (k : Nat) (x : Cluster) : (putCluster s k x).poison = s.poison := rfl
@[simp] theorem putCluster_lines (k : Nat) (x : Cluster) : (putCluster s k x).lines = s.lines := rfl
@[simp] theorem putCluster_immuts (k : Nat) (x : Cluster) : (putCluster s k x).immuts = s.immuts := rfl
@[simp] theorem putCluster_tlb (k : Nat) (x : Cluster) : (putCluster s k x).tlb = s.tlb := rfl
@[simp] theorem putCluster_yardThr (k : Nat) (x : Cluster) : (putCluster s k x).yardThr = s.yardThr := rfl
@[simp] theorem putCluster_yardWin (k : Nat) (x : Cluster) : (putCluster s k x).yardWin = s.yardWin := rfl
@[simp] theorem putCluster_slicesOut (k : Nat) (x : Cluster) : (putCluster s k x).slicesOut = s.slicesOut := rfl
@[simp] theorem putCluster_closing (k : Nat) (x : Cluster) : (putCluster s k x).closing = s.closing := rfl
@[simp] theorem putCluster_watches (k : Nat) (x : Cluster) : (putCluster s k x).watches = s.watches := rfl
@[simp] theorem putCluster_watchCap (k : Nat) (x : Cluster) : (putCluster s k x).watchCap = s.watchCap := rfl
@[simp] theorem putCluster_seqs (k : Nat) (x : Cluster) : (putCluster s k x).seqs = s.seqs := rfl
@[simp] theorem putCluster_squ (k : Nat) (x : Cluster) : (putCluster s k x).squ = s.squ := rfl
@[simp] theorem putCluster_ctxs (k : Nat) (x : Cluster) : (putCluster s k x).ctxs = s.ctxs := rfl
@[simp] theorem putCluster_teams (k : Nat) (x : Cluster) : (putCluster s k x).teams = s.teams := rfl
@[simp] theorem putCluster_warps (k : Nat) (x : Cluster) : (putCluster s k x).warps = s.warps := rfl
@[simp] theorem putCluster_accs (k : Nat) (x : Cluster) : (putCluster s k x).accs = s.accs := rfl
@[simp] theorem putCluster_cores (k : Nat) (x : Cluster) : (putCluster s k x).cores = s.cores := rfl
@[simp] theorem putCluster_retics (k : Nat) (x : Cluster) : (putCluster s k x).retics = s.retics := rfl
@[simp] theorem putCluster_fqueue (k : Nat) (x : Cluster) : (putCluster s k x).fqueue = s.fqueue := rfl
@[simp] theorem putCluster_fqWait (k : Nat) (x : Cluster) : (putCluster s k x).fqWait = s.fqWait := rfl
@[simp] theorem putCluster_fqFull (k : Nat) (x : Cluster) : (putCluster s k x).fqFull = s.fqFull := rfl
@[simp] theorem putCluster_seqNext (k : Nat) (x : Cluster) : (putCluster s k x).seqNext = s.seqNext := rfl
@[simp] theorem putCluster_folds (k : Nat) (x : Cluster) : (putCluster s k x).folds = s.folds := rfl
@[simp] theorem putCluster_log (k : Nat) (x : Cluster) : (putCluster s k x).log = s.log := rfl
@[simp] theorem putCluster_msix (k : Nat) (x : Cluster) : (putCluster s k x).msix = s.msix := rfl
@[simp] theorem putCluster_logLost (k : Nat) (x : Cluster) : (putCluster s k x).logLost = s.logLost := rfl
@[simp] theorem putCluster_logTold (k : Nat) (x : Cluster) : (putCluster s k x).logTold = s.logTold := rfl
@[simp] theorem putCluster_devstat (k : Nat) (x : Cluster) : (putCluster s k x).devstat = s.devstat := rfl
@[simp] theorem putCluster_stage (k : Nat) (x : Cluster) : (putCluster s k x).stage = s.stage := rfl
@[simp] theorem putCluster_rstcause (k : Nat) (x : Cluster) : (putCluster s k x).rstcause = s.rstcause := rfl
@[simp] theorem putCluster_retResets (k : Nat) (x : Cluster) : (putCluster s k x).retResets = s.retResets := rfl
@[simp] theorem putCluster_coreResets (k : Nat) (x : Cluster) : (putCluster s k x).coreResets = s.coreResets := rfl
@[simp] theorem putCluster_drbase (k : Nat) (x : Cluster) : (putCluster s k x).drbase = s.drbase := rfl
@[simp] theorem putCluster_drlog2 (k : Nat) (x : Cluster) : (putCluster s k x).drlog2 = s.drlog2 := rfl
@[simp] theorem putCluster_drvec (k : Nat) (x : Cluster) : (putCluster s k x).drvec = s.drvec := rfl
@[simp] theorem putCluster_drpi (k : Nat) (x : Cluster) : (putCluster s k x).drpi = s.drpi := rfl
@[simp] theorem putCluster_drci (k : Nat) (x : Cluster) : (putCluster s k x).drci = s.drci := rfl
@[simp] theorem putCluster_drlost (k : Nat) (x : Cluster) : (putCluster s k x).drlost = s.drlost := rfl
@[simp] theorem putCluster_drLostFlag (k : Nat) (x : Cluster) : (putCluster s k x).drLostFlag = s.drLostFlag := rfl
@[simp] theorem putCluster_dtaddr (k : Nat) (x : Cluster) : (putCluster s k x).dtaddr = s.dtaddr := rfl
@[simp] theorem putCluster_dtbytes (k : Nat) (x : Cluster) : (putCluster s k x).dtbytes = s.dtbytes := rfl
@[simp] theorem putCluster_dthost (k : Nat) (x : Cluster) : (putCluster s k x).dthost = s.dthost := rfl
@[simp] theorem putCluster_dtDue (k : Nat) (x : Cluster) : (putCluster s k x).dtDue = s.dtDue := rfl
@[simp] theorem putCluster_devnum (k : Nat) (x : Cluster) : (putCluster s k x).devnum = s.devnum := rfl
@[simp] theorem putCluster_vfport (k : Nat) (x : Cluster) : (putCluster s k x).vfport = s.vfport := rfl
@[simp] theorem putCluster_tslot (k : Nat) (x : Cluster) : (putCluster s k x).tslot = s.tslot := rfl
@[simp] theorem putCluster_hostPorts (k : Nat) (x : Cluster) : (putCluster s k x).hostPorts = s.hostPorts := rfl
@[simp] theorem putCluster_ylPorts (k : Nat) (x : Cluster) : (putCluster s k x).ylPorts = s.ylPorts := rfl
@[simp] theorem putCluster_routing (k : Nat) (x : Cluster) : (putCluster s k x).routing = s.routing := rfl
@[simp] theorem putCluster_tags (k : Nat) (x : Cluster) : (putCluster s k x).tags = s.tags := rfl
@[simp] theorem putCluster_remotes (k : Nat) (x : Cluster) : (putCluster s k x).remotes = s.remotes := rfl
@[simp] theorem putCluster_tree (k : Nat) (x : Cluster) : (putCluster s k x).tree = s.tree := rfl
@[simp] theorem putCluster_treeGen (k : Nat) (x : Cluster) : (putCluster s k x).treeGen = s.treeGen := rfl
@[simp] theorem putCluster_treeAt (k : Nat) (x : Cluster) : (putCluster s k x).treeAt = s.treeAt := rfl
@[simp] theorem putCluster_treeDirty (k : Nat) (x : Cluster) : (putCluster s k x).treeDirty = s.treeDirty := rfl
@[simp] theorem putCluster_walkersOut (k : Nat) (x : Cluster) : (putCluster s k x).walkersOut = s.walkersOut := rfl
@[simp] theorem putCluster_linkLanes (k : Nat) (x : Cluster) : (putCluster s k x).linkLanes = s.linkLanes := rfl
@[simp] theorem putCluster_embed (k : Nat) (x : Cluster) : (putCluster s k x).embed = s.embed := rfl
@[simp] theorem putCluster_placed (k : Nat) (x : Cluster) : (putCluster s k x).placed = s.placed := rfl
@[simp] theorem putCluster_hbmOut (k : Nat) (x : Cluster) : (putCluster s k x).hbmOut = s.hbmOut := rfl
@[simp] theorem putCluster_hbmHot (k : Nat) (x : Cluster) : (putCluster s k x).hbmHot = s.hbmHot := rfl
@[simp] theorem putCluster_spares (k : Nat) (x : Cluster) : (putCluster s k x).spares = s.spares := rfl
@[simp] theorem putCluster_fwVersion (k : Nat) (x : Cluster) : (putCluster s k x).fwVersion = s.fwVersion := rfl
@[simp] theorem putCluster_identity (k : Nat) (x : Cluster) : (putCluster s k x).identity = s.identity := rfl
@[simp] theorem putCluster_poolOver (k : Nat) (x : Cluster) : (putCluster s k x).poolOver = s.poolOver := rfl
@[simp] theorem putCluster_powerAt (k : Nat) (x : Cluster) : (putCluster s k x).powerAt = s.powerAt := rfl
@[simp] theorem putCluster_boostStop (k : Nat) (x : Cluster) : (putCluster s k x).boostStop = s.boostStop := rfl
@[simp] theorem putCluster_attests (k : Nat) (x : Cluster) : (putCluster s k x).attests = s.attests := rfl
@[simp] theorem putCluster_nextId (k : Nat) (x : Cluster) : (putCluster s k x).nextId = s.nextId := rfl
@[simp] theorem putCluster_freeCtr (k : Nat) (x : Cluster) : (putCluster s k x).freeCtr = s.freeCtr := rfl
@[simp] theorem putCluster_cur (k : Nat) (x : Cluster) : (putCluster s k x).cur = s.cur := rfl
@[simp] theorem putCluster_agenda (k : Nat) (x : Cluster) : (putCluster s k x).agenda = s.agenda := rfl
@[simp] theorem putCluster_promised (k : Nat) (x : Cluster) : (putCluster s k x).promised = s.promised := rfl
@[simp] theorem putCluster_resetting (k : Nat) (x : Cluster) : (putCluster s k x).resetting = s.resetting := rfl
@[simp] theorem putCluster_calledBy (k : Nat) (x : Cluster) : (putCluster s k x).calledBy = s.calledBy := rfl
@[simp] theorem putCluster_replies (k : Nat) (x : Cluster) : (putCluster s k x).replies = s.replies := rfl
@[simp] theorem putCluster_treePhase (k : Nat) (x : Cluster) : (putCluster s k x).treePhase = s.treePhase := rfl
@[simp] theorem putCluster_detours (k : Nat) (x : Cluster) : (putCluster s k x).detours = s.detours := rfl
@[simp] theorem putCluster_inbox (k : Nat) (x : Cluster) : (putCluster s k x).inbox = s.inbox := rfl

@[simp] theorem warpAt_putCluster (k : Nat) (x : Cluster) (j : Nat) : warpAt (putCluster s k x) j = warpAt s j := rfl
@[simp] theorem teamAt_putCluster (k : Nat) (x : Cluster) (j : Nat) : teamAt (putCluster s k x) j = teamAt s j := rfl
@[simp] theorem coreAt_putCluster (k : Nat) (x : Cluster) (j : Nat) : coreAt (putCluster s k x) j = coreAt s j := rfl
@[simp] theorem clusterAt_putCluster (k : Nat) (x : Cluster) (j : Nat) : clusterAt (putCluster s k x) j = if j = k then x else clusterAt s j := aget_aput _ _ _ _ _
@[simp] theorem reticleAt_putCluster (k : Nat) (x : Cluster) (j : Nat) : reticleAt (putCluster s k x) j = reticleAt s j := rfl
@[simp] theorem ctxAt_putCluster (k : Nat) (x : Cluster) (j : Nat) : ctxAt (putCluster s k x) j = ctxAt s j := rfl
@[simp] theorem accAt_putCluster (k : Nat) (x : Cluster) (j : Nat) : accAt (putCluster s k x) j = accAt s j := rfl
@[simp] theorem lineAt_putCluster (k : Nat) (x : Cluster) (j : Nat) : lineAt (putCluster s k x) j = lineAt s j := rfl

/-! ### putReticle -/

@[simp] theorem putReticle_time (k : Nat) (x : Reticle) : (putReticle s k x).time = s.time := rfl
@[simp] theorem putReticle_regionOff (k : Nat) (x : Reticle) : (putReticle s k x).regionOff = s.regionOff := rfl
@[simp] theorem putReticle_regionAim (k : Nat) (x : Reticle) : (putReticle s k x).regionAim = s.regionAim := rfl
@[simp] theorem putReticle_mem (k : Nat) (x : Reticle) : (putReticle s k x).mem = s.mem := rfl
@[simp] theorem putReticle_hostMem (k : Nat) (x : Reticle) : (putReticle s k x).hostMem = s.hostMem := rfl
@[simp] theorem putReticle_poison (k : Nat) (x : Reticle) : (putReticle s k x).poison = s.poison := rfl
@[simp] theorem putReticle_lines (k : Nat) (x : Reticle) : (putReticle s k x).lines = s.lines := rfl
@[simp] theorem putReticle_immuts (k : Nat) (x : Reticle) : (putReticle s k x).immuts = s.immuts := rfl
@[simp] theorem putReticle_tlb (k : Nat) (x : Reticle) : (putReticle s k x).tlb = s.tlb := rfl
@[simp] theorem putReticle_yardThr (k : Nat) (x : Reticle) : (putReticle s k x).yardThr = s.yardThr := rfl
@[simp] theorem putReticle_yardWin (k : Nat) (x : Reticle) : (putReticle s k x).yardWin = s.yardWin := rfl
@[simp] theorem putReticle_slicesOut (k : Nat) (x : Reticle) : (putReticle s k x).slicesOut = s.slicesOut := rfl
@[simp] theorem putReticle_closing (k : Nat) (x : Reticle) : (putReticle s k x).closing = s.closing := rfl
@[simp] theorem putReticle_watches (k : Nat) (x : Reticle) : (putReticle s k x).watches = s.watches := rfl
@[simp] theorem putReticle_watchCap (k : Nat) (x : Reticle) : (putReticle s k x).watchCap = s.watchCap := rfl
@[simp] theorem putReticle_seqs (k : Nat) (x : Reticle) : (putReticle s k x).seqs = s.seqs := rfl
@[simp] theorem putReticle_squ (k : Nat) (x : Reticle) : (putReticle s k x).squ = s.squ := rfl
@[simp] theorem putReticle_ctxs (k : Nat) (x : Reticle) : (putReticle s k x).ctxs = s.ctxs := rfl
@[simp] theorem putReticle_teams (k : Nat) (x : Reticle) : (putReticle s k x).teams = s.teams := rfl
@[simp] theorem putReticle_warps (k : Nat) (x : Reticle) : (putReticle s k x).warps = s.warps := rfl
@[simp] theorem putReticle_accs (k : Nat) (x : Reticle) : (putReticle s k x).accs = s.accs := rfl
@[simp] theorem putReticle_cores (k : Nat) (x : Reticle) : (putReticle s k x).cores = s.cores := rfl
@[simp] theorem putReticle_clusters (k : Nat) (x : Reticle) : (putReticle s k x).clusters = s.clusters := rfl
@[simp] theorem putReticle_fqueue (k : Nat) (x : Reticle) : (putReticle s k x).fqueue = s.fqueue := rfl
@[simp] theorem putReticle_fqWait (k : Nat) (x : Reticle) : (putReticle s k x).fqWait = s.fqWait := rfl
@[simp] theorem putReticle_fqFull (k : Nat) (x : Reticle) : (putReticle s k x).fqFull = s.fqFull := rfl
@[simp] theorem putReticle_seqNext (k : Nat) (x : Reticle) : (putReticle s k x).seqNext = s.seqNext := rfl
@[simp] theorem putReticle_folds (k : Nat) (x : Reticle) : (putReticle s k x).folds = s.folds := rfl
@[simp] theorem putReticle_log (k : Nat) (x : Reticle) : (putReticle s k x).log = s.log := rfl
@[simp] theorem putReticle_msix (k : Nat) (x : Reticle) : (putReticle s k x).msix = s.msix := rfl
@[simp] theorem putReticle_logLost (k : Nat) (x : Reticle) : (putReticle s k x).logLost = s.logLost := rfl
@[simp] theorem putReticle_logTold (k : Nat) (x : Reticle) : (putReticle s k x).logTold = s.logTold := rfl
@[simp] theorem putReticle_devstat (k : Nat) (x : Reticle) : (putReticle s k x).devstat = s.devstat := rfl
@[simp] theorem putReticle_stage (k : Nat) (x : Reticle) : (putReticle s k x).stage = s.stage := rfl
@[simp] theorem putReticle_rstcause (k : Nat) (x : Reticle) : (putReticle s k x).rstcause = s.rstcause := rfl
@[simp] theorem putReticle_retResets (k : Nat) (x : Reticle) : (putReticle s k x).retResets = s.retResets := rfl
@[simp] theorem putReticle_coreResets (k : Nat) (x : Reticle) : (putReticle s k x).coreResets = s.coreResets := rfl
@[simp] theorem putReticle_drbase (k : Nat) (x : Reticle) : (putReticle s k x).drbase = s.drbase := rfl
@[simp] theorem putReticle_drlog2 (k : Nat) (x : Reticle) : (putReticle s k x).drlog2 = s.drlog2 := rfl
@[simp] theorem putReticle_drvec (k : Nat) (x : Reticle) : (putReticle s k x).drvec = s.drvec := rfl
@[simp] theorem putReticle_drpi (k : Nat) (x : Reticle) : (putReticle s k x).drpi = s.drpi := rfl
@[simp] theorem putReticle_drci (k : Nat) (x : Reticle) : (putReticle s k x).drci = s.drci := rfl
@[simp] theorem putReticle_drlost (k : Nat) (x : Reticle) : (putReticle s k x).drlost = s.drlost := rfl
@[simp] theorem putReticle_drLostFlag (k : Nat) (x : Reticle) : (putReticle s k x).drLostFlag = s.drLostFlag := rfl
@[simp] theorem putReticle_dtaddr (k : Nat) (x : Reticle) : (putReticle s k x).dtaddr = s.dtaddr := rfl
@[simp] theorem putReticle_dtbytes (k : Nat) (x : Reticle) : (putReticle s k x).dtbytes = s.dtbytes := rfl
@[simp] theorem putReticle_dthost (k : Nat) (x : Reticle) : (putReticle s k x).dthost = s.dthost := rfl
@[simp] theorem putReticle_dtDue (k : Nat) (x : Reticle) : (putReticle s k x).dtDue = s.dtDue := rfl
@[simp] theorem putReticle_devnum (k : Nat) (x : Reticle) : (putReticle s k x).devnum = s.devnum := rfl
@[simp] theorem putReticle_vfport (k : Nat) (x : Reticle) : (putReticle s k x).vfport = s.vfport := rfl
@[simp] theorem putReticle_tslot (k : Nat) (x : Reticle) : (putReticle s k x).tslot = s.tslot := rfl
@[simp] theorem putReticle_hostPorts (k : Nat) (x : Reticle) : (putReticle s k x).hostPorts = s.hostPorts := rfl
@[simp] theorem putReticle_ylPorts (k : Nat) (x : Reticle) : (putReticle s k x).ylPorts = s.ylPorts := rfl
@[simp] theorem putReticle_routing (k : Nat) (x : Reticle) : (putReticle s k x).routing = s.routing := rfl
@[simp] theorem putReticle_tags (k : Nat) (x : Reticle) : (putReticle s k x).tags = s.tags := rfl
@[simp] theorem putReticle_remotes (k : Nat) (x : Reticle) : (putReticle s k x).remotes = s.remotes := rfl
@[simp] theorem putReticle_tree (k : Nat) (x : Reticle) : (putReticle s k x).tree = s.tree := rfl
@[simp] theorem putReticle_treeGen (k : Nat) (x : Reticle) : (putReticle s k x).treeGen = s.treeGen := rfl
@[simp] theorem putReticle_treeAt (k : Nat) (x : Reticle) : (putReticle s k x).treeAt = s.treeAt := rfl
@[simp] theorem putReticle_treeDirty (k : Nat) (x : Reticle) : (putReticle s k x).treeDirty = s.treeDirty := rfl
@[simp] theorem putReticle_walkersOut (k : Nat) (x : Reticle) : (putReticle s k x).walkersOut = s.walkersOut := rfl
@[simp] theorem putReticle_linkLanes (k : Nat) (x : Reticle) : (putReticle s k x).linkLanes = s.linkLanes := rfl
@[simp] theorem putReticle_embed (k : Nat) (x : Reticle) : (putReticle s k x).embed = s.embed := rfl
@[simp] theorem putReticle_placed (k : Nat) (x : Reticle) : (putReticle s k x).placed = s.placed := rfl
@[simp] theorem putReticle_hbmOut (k : Nat) (x : Reticle) : (putReticle s k x).hbmOut = s.hbmOut := rfl
@[simp] theorem putReticle_hbmHot (k : Nat) (x : Reticle) : (putReticle s k x).hbmHot = s.hbmHot := rfl
@[simp] theorem putReticle_spares (k : Nat) (x : Reticle) : (putReticle s k x).spares = s.spares := rfl
@[simp] theorem putReticle_fwVersion (k : Nat) (x : Reticle) : (putReticle s k x).fwVersion = s.fwVersion := rfl
@[simp] theorem putReticle_identity (k : Nat) (x : Reticle) : (putReticle s k x).identity = s.identity := rfl
@[simp] theorem putReticle_poolOver (k : Nat) (x : Reticle) : (putReticle s k x).poolOver = s.poolOver := rfl
@[simp] theorem putReticle_powerAt (k : Nat) (x : Reticle) : (putReticle s k x).powerAt = s.powerAt := rfl
@[simp] theorem putReticle_boostStop (k : Nat) (x : Reticle) : (putReticle s k x).boostStop = s.boostStop := rfl
@[simp] theorem putReticle_attests (k : Nat) (x : Reticle) : (putReticle s k x).attests = s.attests := rfl
@[simp] theorem putReticle_nextId (k : Nat) (x : Reticle) : (putReticle s k x).nextId = s.nextId := rfl
@[simp] theorem putReticle_freeCtr (k : Nat) (x : Reticle) : (putReticle s k x).freeCtr = s.freeCtr := rfl
@[simp] theorem putReticle_cur (k : Nat) (x : Reticle) : (putReticle s k x).cur = s.cur := rfl
@[simp] theorem putReticle_agenda (k : Nat) (x : Reticle) : (putReticle s k x).agenda = s.agenda := rfl
@[simp] theorem putReticle_promised (k : Nat) (x : Reticle) : (putReticle s k x).promised = s.promised := rfl
@[simp] theorem putReticle_resetting (k : Nat) (x : Reticle) : (putReticle s k x).resetting = s.resetting := rfl
@[simp] theorem putReticle_calledBy (k : Nat) (x : Reticle) : (putReticle s k x).calledBy = s.calledBy := rfl
@[simp] theorem putReticle_replies (k : Nat) (x : Reticle) : (putReticle s k x).replies = s.replies := rfl
@[simp] theorem putReticle_treePhase (k : Nat) (x : Reticle) : (putReticle s k x).treePhase = s.treePhase := rfl
@[simp] theorem putReticle_detours (k : Nat) (x : Reticle) : (putReticle s k x).detours = s.detours := rfl
@[simp] theorem putReticle_inbox (k : Nat) (x : Reticle) : (putReticle s k x).inbox = s.inbox := rfl

@[simp] theorem warpAt_putReticle (k : Nat) (x : Reticle) (j : Nat) : warpAt (putReticle s k x) j = warpAt s j := rfl
@[simp] theorem teamAt_putReticle (k : Nat) (x : Reticle) (j : Nat) : teamAt (putReticle s k x) j = teamAt s j := rfl
@[simp] theorem coreAt_putReticle (k : Nat) (x : Reticle) (j : Nat) : coreAt (putReticle s k x) j = coreAt s j := rfl
@[simp] theorem clusterAt_putReticle (k : Nat) (x : Reticle) (j : Nat) : clusterAt (putReticle s k x) j = clusterAt s j := rfl
@[simp] theorem reticleAt_putReticle (k : Nat) (x : Reticle) (j : Nat) : reticleAt (putReticle s k x) j = if j = k then x else reticleAt s j := aget_aput _ _ _ _ _
@[simp] theorem ctxAt_putReticle (k : Nat) (x : Reticle) (j : Nat) : ctxAt (putReticle s k x) j = ctxAt s j := rfl
@[simp] theorem accAt_putReticle (k : Nat) (x : Reticle) (j : Nat) : accAt (putReticle s k x) j = accAt s j := rfl
@[simp] theorem lineAt_putReticle (k : Nat) (x : Reticle) (j : Nat) : lineAt (putReticle s k x) j = lineAt s j := rfl

/-! ### putCtx -/

@[simp] theorem putCtx_time (k : Nat) (x : Ctx) : (putCtx s k x).time = s.time := rfl
@[simp] theorem putCtx_regionOff (k : Nat) (x : Ctx) : (putCtx s k x).regionOff = s.regionOff := rfl
@[simp] theorem putCtx_regionAim (k : Nat) (x : Ctx) : (putCtx s k x).regionAim = s.regionAim := rfl
@[simp] theorem putCtx_mem (k : Nat) (x : Ctx) : (putCtx s k x).mem = s.mem := rfl
@[simp] theorem putCtx_hostMem (k : Nat) (x : Ctx) : (putCtx s k x).hostMem = s.hostMem := rfl
@[simp] theorem putCtx_poison (k : Nat) (x : Ctx) : (putCtx s k x).poison = s.poison := rfl
@[simp] theorem putCtx_lines (k : Nat) (x : Ctx) : (putCtx s k x).lines = s.lines := rfl
@[simp] theorem putCtx_immuts (k : Nat) (x : Ctx) : (putCtx s k x).immuts = s.immuts := rfl
@[simp] theorem putCtx_tlb (k : Nat) (x : Ctx) : (putCtx s k x).tlb = s.tlb := rfl
@[simp] theorem putCtx_yardThr (k : Nat) (x : Ctx) : (putCtx s k x).yardThr = s.yardThr := rfl
@[simp] theorem putCtx_yardWin (k : Nat) (x : Ctx) : (putCtx s k x).yardWin = s.yardWin := rfl
@[simp] theorem putCtx_slicesOut (k : Nat) (x : Ctx) : (putCtx s k x).slicesOut = s.slicesOut := rfl
@[simp] theorem putCtx_closing (k : Nat) (x : Ctx) : (putCtx s k x).closing = s.closing := rfl
@[simp] theorem putCtx_watches (k : Nat) (x : Ctx) : (putCtx s k x).watches = s.watches := rfl
@[simp] theorem putCtx_watchCap (k : Nat) (x : Ctx) : (putCtx s k x).watchCap = s.watchCap := rfl
@[simp] theorem putCtx_seqs (k : Nat) (x : Ctx) : (putCtx s k x).seqs = s.seqs := rfl
@[simp] theorem putCtx_squ (k : Nat) (x : Ctx) : (putCtx s k x).squ = s.squ := rfl
@[simp] theorem putCtx_teams (k : Nat) (x : Ctx) : (putCtx s k x).teams = s.teams := rfl
@[simp] theorem putCtx_warps (k : Nat) (x : Ctx) : (putCtx s k x).warps = s.warps := rfl
@[simp] theorem putCtx_accs (k : Nat) (x : Ctx) : (putCtx s k x).accs = s.accs := rfl
@[simp] theorem putCtx_cores (k : Nat) (x : Ctx) : (putCtx s k x).cores = s.cores := rfl
@[simp] theorem putCtx_clusters (k : Nat) (x : Ctx) : (putCtx s k x).clusters = s.clusters := rfl
@[simp] theorem putCtx_retics (k : Nat) (x : Ctx) : (putCtx s k x).retics = s.retics := rfl
@[simp] theorem putCtx_fqueue (k : Nat) (x : Ctx) : (putCtx s k x).fqueue = s.fqueue := rfl
@[simp] theorem putCtx_fqWait (k : Nat) (x : Ctx) : (putCtx s k x).fqWait = s.fqWait := rfl
@[simp] theorem putCtx_fqFull (k : Nat) (x : Ctx) : (putCtx s k x).fqFull = s.fqFull := rfl
@[simp] theorem putCtx_seqNext (k : Nat) (x : Ctx) : (putCtx s k x).seqNext = s.seqNext := rfl
@[simp] theorem putCtx_folds (k : Nat) (x : Ctx) : (putCtx s k x).folds = s.folds := rfl
@[simp] theorem putCtx_log (k : Nat) (x : Ctx) : (putCtx s k x).log = s.log := rfl
@[simp] theorem putCtx_msix (k : Nat) (x : Ctx) : (putCtx s k x).msix = s.msix := rfl
@[simp] theorem putCtx_logLost (k : Nat) (x : Ctx) : (putCtx s k x).logLost = s.logLost := rfl
@[simp] theorem putCtx_logTold (k : Nat) (x : Ctx) : (putCtx s k x).logTold = s.logTold := rfl
@[simp] theorem putCtx_devstat (k : Nat) (x : Ctx) : (putCtx s k x).devstat = s.devstat := rfl
@[simp] theorem putCtx_stage (k : Nat) (x : Ctx) : (putCtx s k x).stage = s.stage := rfl
@[simp] theorem putCtx_rstcause (k : Nat) (x : Ctx) : (putCtx s k x).rstcause = s.rstcause := rfl
@[simp] theorem putCtx_retResets (k : Nat) (x : Ctx) : (putCtx s k x).retResets = s.retResets := rfl
@[simp] theorem putCtx_coreResets (k : Nat) (x : Ctx) : (putCtx s k x).coreResets = s.coreResets := rfl
@[simp] theorem putCtx_drbase (k : Nat) (x : Ctx) : (putCtx s k x).drbase = s.drbase := rfl
@[simp] theorem putCtx_drlog2 (k : Nat) (x : Ctx) : (putCtx s k x).drlog2 = s.drlog2 := rfl
@[simp] theorem putCtx_drvec (k : Nat) (x : Ctx) : (putCtx s k x).drvec = s.drvec := rfl
@[simp] theorem putCtx_drpi (k : Nat) (x : Ctx) : (putCtx s k x).drpi = s.drpi := rfl
@[simp] theorem putCtx_drci (k : Nat) (x : Ctx) : (putCtx s k x).drci = s.drci := rfl
@[simp] theorem putCtx_drlost (k : Nat) (x : Ctx) : (putCtx s k x).drlost = s.drlost := rfl
@[simp] theorem putCtx_drLostFlag (k : Nat) (x : Ctx) : (putCtx s k x).drLostFlag = s.drLostFlag := rfl
@[simp] theorem putCtx_dtaddr (k : Nat) (x : Ctx) : (putCtx s k x).dtaddr = s.dtaddr := rfl
@[simp] theorem putCtx_dtbytes (k : Nat) (x : Ctx) : (putCtx s k x).dtbytes = s.dtbytes := rfl
@[simp] theorem putCtx_dthost (k : Nat) (x : Ctx) : (putCtx s k x).dthost = s.dthost := rfl
@[simp] theorem putCtx_dtDue (k : Nat) (x : Ctx) : (putCtx s k x).dtDue = s.dtDue := rfl
@[simp] theorem putCtx_devnum (k : Nat) (x : Ctx) : (putCtx s k x).devnum = s.devnum := rfl
@[simp] theorem putCtx_vfport (k : Nat) (x : Ctx) : (putCtx s k x).vfport = s.vfport := rfl
@[simp] theorem putCtx_tslot (k : Nat) (x : Ctx) : (putCtx s k x).tslot = s.tslot := rfl
@[simp] theorem putCtx_hostPorts (k : Nat) (x : Ctx) : (putCtx s k x).hostPorts = s.hostPorts := rfl
@[simp] theorem putCtx_ylPorts (k : Nat) (x : Ctx) : (putCtx s k x).ylPorts = s.ylPorts := rfl
@[simp] theorem putCtx_routing (k : Nat) (x : Ctx) : (putCtx s k x).routing = s.routing := rfl
@[simp] theorem putCtx_tags (k : Nat) (x : Ctx) : (putCtx s k x).tags = s.tags := rfl
@[simp] theorem putCtx_remotes (k : Nat) (x : Ctx) : (putCtx s k x).remotes = s.remotes := rfl
@[simp] theorem putCtx_tree (k : Nat) (x : Ctx) : (putCtx s k x).tree = s.tree := rfl
@[simp] theorem putCtx_treeGen (k : Nat) (x : Ctx) : (putCtx s k x).treeGen = s.treeGen := rfl
@[simp] theorem putCtx_treeAt (k : Nat) (x : Ctx) : (putCtx s k x).treeAt = s.treeAt := rfl
@[simp] theorem putCtx_treeDirty (k : Nat) (x : Ctx) : (putCtx s k x).treeDirty = s.treeDirty := rfl
@[simp] theorem putCtx_walkersOut (k : Nat) (x : Ctx) : (putCtx s k x).walkersOut = s.walkersOut := rfl
@[simp] theorem putCtx_linkLanes (k : Nat) (x : Ctx) : (putCtx s k x).linkLanes = s.linkLanes := rfl
@[simp] theorem putCtx_embed (k : Nat) (x : Ctx) : (putCtx s k x).embed = s.embed := rfl
@[simp] theorem putCtx_placed (k : Nat) (x : Ctx) : (putCtx s k x).placed = s.placed := rfl
@[simp] theorem putCtx_hbmOut (k : Nat) (x : Ctx) : (putCtx s k x).hbmOut = s.hbmOut := rfl
@[simp] theorem putCtx_hbmHot (k : Nat) (x : Ctx) : (putCtx s k x).hbmHot = s.hbmHot := rfl
@[simp] theorem putCtx_spares (k : Nat) (x : Ctx) : (putCtx s k x).spares = s.spares := rfl
@[simp] theorem putCtx_fwVersion (k : Nat) (x : Ctx) : (putCtx s k x).fwVersion = s.fwVersion := rfl
@[simp] theorem putCtx_identity (k : Nat) (x : Ctx) : (putCtx s k x).identity = s.identity := rfl
@[simp] theorem putCtx_poolOver (k : Nat) (x : Ctx) : (putCtx s k x).poolOver = s.poolOver := rfl
@[simp] theorem putCtx_powerAt (k : Nat) (x : Ctx) : (putCtx s k x).powerAt = s.powerAt := rfl
@[simp] theorem putCtx_boostStop (k : Nat) (x : Ctx) : (putCtx s k x).boostStop = s.boostStop := rfl
@[simp] theorem putCtx_attests (k : Nat) (x : Ctx) : (putCtx s k x).attests = s.attests := rfl
@[simp] theorem putCtx_nextId (k : Nat) (x : Ctx) : (putCtx s k x).nextId = s.nextId := rfl
@[simp] theorem putCtx_freeCtr (k : Nat) (x : Ctx) : (putCtx s k x).freeCtr = s.freeCtr := rfl
@[simp] theorem putCtx_cur (k : Nat) (x : Ctx) : (putCtx s k x).cur = s.cur := rfl
@[simp] theorem putCtx_agenda (k : Nat) (x : Ctx) : (putCtx s k x).agenda = s.agenda := rfl
@[simp] theorem putCtx_promised (k : Nat) (x : Ctx) : (putCtx s k x).promised = s.promised := rfl
@[simp] theorem putCtx_resetting (k : Nat) (x : Ctx) : (putCtx s k x).resetting = s.resetting := rfl
@[simp] theorem putCtx_calledBy (k : Nat) (x : Ctx) : (putCtx s k x).calledBy = s.calledBy := rfl
@[simp] theorem putCtx_replies (k : Nat) (x : Ctx) : (putCtx s k x).replies = s.replies := rfl
@[simp] theorem putCtx_treePhase (k : Nat) (x : Ctx) : (putCtx s k x).treePhase = s.treePhase := rfl
@[simp] theorem putCtx_detours (k : Nat) (x : Ctx) : (putCtx s k x).detours = s.detours := rfl
@[simp] theorem putCtx_inbox (k : Nat) (x : Ctx) : (putCtx s k x).inbox = s.inbox := rfl

@[simp] theorem warpAt_putCtx (k : Nat) (x : Ctx) (j : Nat) : warpAt (putCtx s k x) j = warpAt s j := rfl
@[simp] theorem teamAt_putCtx (k : Nat) (x : Ctx) (j : Nat) : teamAt (putCtx s k x) j = teamAt s j := rfl
@[simp] theorem coreAt_putCtx (k : Nat) (x : Ctx) (j : Nat) : coreAt (putCtx s k x) j = coreAt s j := rfl
@[simp] theorem clusterAt_putCtx (k : Nat) (x : Ctx) (j : Nat) : clusterAt (putCtx s k x) j = clusterAt s j := rfl
@[simp] theorem reticleAt_putCtx (k : Nat) (x : Ctx) (j : Nat) : reticleAt (putCtx s k x) j = reticleAt s j := rfl
@[simp] theorem ctxAt_putCtx (k : Nat) (x : Ctx) (j : Nat) : ctxAt (putCtx s k x) j = if j = k then x else ctxAt s j := aget_aput _ _ _ _ _
@[simp] theorem accAt_putCtx (k : Nat) (x : Ctx) (j : Nat) : accAt (putCtx s k x) j = accAt s j := rfl
@[simp] theorem lineAt_putCtx (k : Nat) (x : Ctx) (j : Nat) : lineAt (putCtx s k x) j = lineAt s j := rfl

/-! ### putAcc -/

@[simp] theorem putAcc_time (a : Acc) : (putAcc s a).time = s.time := rfl
@[simp] theorem putAcc_regionOff (a : Acc) : (putAcc s a).regionOff = s.regionOff := rfl
@[simp] theorem putAcc_regionAim (a : Acc) : (putAcc s a).regionAim = s.regionAim := rfl
@[simp] theorem putAcc_mem (a : Acc) : (putAcc s a).mem = s.mem := rfl
@[simp] theorem putAcc_hostMem (a : Acc) : (putAcc s a).hostMem = s.hostMem := rfl
@[simp] theorem putAcc_poison (a : Acc) : (putAcc s a).poison = s.poison := rfl
@[simp] theorem putAcc_lines (a : Acc) : (putAcc s a).lines = s.lines := rfl
@[simp] theorem putAcc_immuts (a : Acc) : (putAcc s a).immuts = s.immuts := rfl
@[simp] theorem putAcc_tlb (a : Acc) : (putAcc s a).tlb = s.tlb := rfl
@[simp] theorem putAcc_yardThr (a : Acc) : (putAcc s a).yardThr = s.yardThr := rfl
@[simp] theorem putAcc_yardWin (a : Acc) : (putAcc s a).yardWin = s.yardWin := rfl
@[simp] theorem putAcc_slicesOut (a : Acc) : (putAcc s a).slicesOut = s.slicesOut := rfl
@[simp] theorem putAcc_closing (a : Acc) : (putAcc s a).closing = s.closing := rfl
@[simp] theorem putAcc_watches (a : Acc) : (putAcc s a).watches = s.watches := rfl
@[simp] theorem putAcc_watchCap (a : Acc) : (putAcc s a).watchCap = s.watchCap := rfl
@[simp] theorem putAcc_seqs (a : Acc) : (putAcc s a).seqs = s.seqs := rfl
@[simp] theorem putAcc_squ (a : Acc) : (putAcc s a).squ = s.squ := rfl
@[simp] theorem putAcc_ctxs (a : Acc) : (putAcc s a).ctxs = s.ctxs := rfl
@[simp] theorem putAcc_teams (a : Acc) : (putAcc s a).teams = s.teams := rfl
@[simp] theorem putAcc_warps (a : Acc) : (putAcc s a).warps = s.warps := rfl
@[simp] theorem putAcc_cores (a : Acc) : (putAcc s a).cores = s.cores := rfl
@[simp] theorem putAcc_clusters (a : Acc) : (putAcc s a).clusters = s.clusters := rfl
@[simp] theorem putAcc_retics (a : Acc) : (putAcc s a).retics = s.retics := rfl
@[simp] theorem putAcc_fqueue (a : Acc) : (putAcc s a).fqueue = s.fqueue := rfl
@[simp] theorem putAcc_fqWait (a : Acc) : (putAcc s a).fqWait = s.fqWait := rfl
@[simp] theorem putAcc_fqFull (a : Acc) : (putAcc s a).fqFull = s.fqFull := rfl
@[simp] theorem putAcc_seqNext (a : Acc) : (putAcc s a).seqNext = s.seqNext := rfl
@[simp] theorem putAcc_folds (a : Acc) : (putAcc s a).folds = s.folds := rfl
@[simp] theorem putAcc_log (a : Acc) : (putAcc s a).log = s.log := rfl
@[simp] theorem putAcc_msix (a : Acc) : (putAcc s a).msix = s.msix := rfl
@[simp] theorem putAcc_logLost (a : Acc) : (putAcc s a).logLost = s.logLost := rfl
@[simp] theorem putAcc_logTold (a : Acc) : (putAcc s a).logTold = s.logTold := rfl
@[simp] theorem putAcc_devstat (a : Acc) : (putAcc s a).devstat = s.devstat := rfl
@[simp] theorem putAcc_stage (a : Acc) : (putAcc s a).stage = s.stage := rfl
@[simp] theorem putAcc_rstcause (a : Acc) : (putAcc s a).rstcause = s.rstcause := rfl
@[simp] theorem putAcc_retResets (a : Acc) : (putAcc s a).retResets = s.retResets := rfl
@[simp] theorem putAcc_coreResets (a : Acc) : (putAcc s a).coreResets = s.coreResets := rfl
@[simp] theorem putAcc_drbase (a : Acc) : (putAcc s a).drbase = s.drbase := rfl
@[simp] theorem putAcc_drlog2 (a : Acc) : (putAcc s a).drlog2 = s.drlog2 := rfl
@[simp] theorem putAcc_drvec (a : Acc) : (putAcc s a).drvec = s.drvec := rfl
@[simp] theorem putAcc_drpi (a : Acc) : (putAcc s a).drpi = s.drpi := rfl
@[simp] theorem putAcc_drci (a : Acc) : (putAcc s a).drci = s.drci := rfl
@[simp] theorem putAcc_drlost (a : Acc) : (putAcc s a).drlost = s.drlost := rfl
@[simp] theorem putAcc_drLostFlag (a : Acc) : (putAcc s a).drLostFlag = s.drLostFlag := rfl
@[simp] theorem putAcc_dtaddr (a : Acc) : (putAcc s a).dtaddr = s.dtaddr := rfl
@[simp] theorem putAcc_dtbytes (a : Acc) : (putAcc s a).dtbytes = s.dtbytes := rfl
@[simp] theorem putAcc_dthost (a : Acc) : (putAcc s a).dthost = s.dthost := rfl
@[simp] theorem putAcc_dtDue (a : Acc) : (putAcc s a).dtDue = s.dtDue := rfl
@[simp] theorem putAcc_devnum (a : Acc) : (putAcc s a).devnum = s.devnum := rfl
@[simp] theorem putAcc_vfport (a : Acc) : (putAcc s a).vfport = s.vfport := rfl
@[simp] theorem putAcc_tslot (a : Acc) : (putAcc s a).tslot = s.tslot := rfl
@[simp] theorem putAcc_hostPorts (a : Acc) : (putAcc s a).hostPorts = s.hostPorts := rfl
@[simp] theorem putAcc_ylPorts (a : Acc) : (putAcc s a).ylPorts = s.ylPorts := rfl
@[simp] theorem putAcc_routing (a : Acc) : (putAcc s a).routing = s.routing := rfl
@[simp] theorem putAcc_tags (a : Acc) : (putAcc s a).tags = s.tags := rfl
@[simp] theorem putAcc_remotes (a : Acc) : (putAcc s a).remotes = s.remotes := rfl
@[simp] theorem putAcc_tree (a : Acc) : (putAcc s a).tree = s.tree := rfl
@[simp] theorem putAcc_treeGen (a : Acc) : (putAcc s a).treeGen = s.treeGen := rfl
@[simp] theorem putAcc_treeAt (a : Acc) : (putAcc s a).treeAt = s.treeAt := rfl
@[simp] theorem putAcc_treeDirty (a : Acc) : (putAcc s a).treeDirty = s.treeDirty := rfl
@[simp] theorem putAcc_walkersOut (a : Acc) : (putAcc s a).walkersOut = s.walkersOut := rfl
@[simp] theorem putAcc_linkLanes (a : Acc) : (putAcc s a).linkLanes = s.linkLanes := rfl
@[simp] theorem putAcc_embed (a : Acc) : (putAcc s a).embed = s.embed := rfl
@[simp] theorem putAcc_placed (a : Acc) : (putAcc s a).placed = s.placed := rfl
@[simp] theorem putAcc_hbmOut (a : Acc) : (putAcc s a).hbmOut = s.hbmOut := rfl
@[simp] theorem putAcc_hbmHot (a : Acc) : (putAcc s a).hbmHot = s.hbmHot := rfl
@[simp] theorem putAcc_spares (a : Acc) : (putAcc s a).spares = s.spares := rfl
@[simp] theorem putAcc_fwVersion (a : Acc) : (putAcc s a).fwVersion = s.fwVersion := rfl
@[simp] theorem putAcc_identity (a : Acc) : (putAcc s a).identity = s.identity := rfl
@[simp] theorem putAcc_poolOver (a : Acc) : (putAcc s a).poolOver = s.poolOver := rfl
@[simp] theorem putAcc_powerAt (a : Acc) : (putAcc s a).powerAt = s.powerAt := rfl
@[simp] theorem putAcc_boostStop (a : Acc) : (putAcc s a).boostStop = s.boostStop := rfl
@[simp] theorem putAcc_attests (a : Acc) : (putAcc s a).attests = s.attests := rfl
@[simp] theorem putAcc_nextId (a : Acc) : (putAcc s a).nextId = s.nextId := rfl
@[simp] theorem putAcc_freeCtr (a : Acc) : (putAcc s a).freeCtr = s.freeCtr := rfl
@[simp] theorem putAcc_cur (a : Acc) : (putAcc s a).cur = s.cur := rfl
@[simp] theorem putAcc_agenda (a : Acc) : (putAcc s a).agenda = s.agenda := rfl
@[simp] theorem putAcc_promised (a : Acc) : (putAcc s a).promised = s.promised := rfl
@[simp] theorem putAcc_resetting (a : Acc) : (putAcc s a).resetting = s.resetting := rfl
@[simp] theorem putAcc_calledBy (a : Acc) : (putAcc s a).calledBy = s.calledBy := rfl
@[simp] theorem putAcc_replies (a : Acc) : (putAcc s a).replies = s.replies := rfl
@[simp] theorem putAcc_treePhase (a : Acc) : (putAcc s a).treePhase = s.treePhase := rfl
@[simp] theorem putAcc_detours (a : Acc) : (putAcc s a).detours = s.detours := rfl
@[simp] theorem putAcc_inbox (a : Acc) : (putAcc s a).inbox = s.inbox := rfl

@[simp] theorem warpAt_putAcc (a : Acc) (j : Nat) : warpAt (putAcc s a) j = warpAt s j := rfl
@[simp] theorem teamAt_putAcc (a : Acc) (j : Nat) : teamAt (putAcc s a) j = teamAt s j := rfl
@[simp] theorem coreAt_putAcc (a : Acc) (j : Nat) : coreAt (putAcc s a) j = coreAt s j := rfl
@[simp] theorem clusterAt_putAcc (a : Acc) (j : Nat) : clusterAt (putAcc s a) j = clusterAt s j := rfl
@[simp] theorem reticleAt_putAcc (a : Acc) (j : Nat) : reticleAt (putAcc s a) j = reticleAt s j := rfl
@[simp] theorem ctxAt_putAcc (a : Acc) (j : Nat) : ctxAt (putAcc s a) j = ctxAt s j := rfl
@[simp] theorem accAt_putAcc (a : Acc) (j : Nat) : accAt (putAcc s a) j = if j = a.id then some a else accAt s j := afind_aput _ _ _ _
@[simp] theorem lineAt_putAcc (a : Acc) (j : Nat) : lineAt (putAcc s a) j = lineAt s j := rfl

/-! ### putLine -/

@[simp] theorem putLine_time (k : Nat) (x : Line) : (putLine s k x).time = s.time := rfl
@[simp] theorem putLine_regionOff (k : Nat) (x : Line) : (putLine s k x).regionOff = s.regionOff := rfl
@[simp] theorem putLine_regionAim (k : Nat) (x : Line) : (putLine s k x).regionAim = s.regionAim := rfl
@[simp] theorem putLine_mem (k : Nat) (x : Line) : (putLine s k x).mem = s.mem := rfl
@[simp] theorem putLine_hostMem (k : Nat) (x : Line) : (putLine s k x).hostMem = s.hostMem := rfl
@[simp] theorem putLine_poison (k : Nat) (x : Line) : (putLine s k x).poison = s.poison := rfl
@[simp] theorem putLine_immuts (k : Nat) (x : Line) : (putLine s k x).immuts = s.immuts := rfl
@[simp] theorem putLine_tlb (k : Nat) (x : Line) : (putLine s k x).tlb = s.tlb := rfl
@[simp] theorem putLine_yardThr (k : Nat) (x : Line) : (putLine s k x).yardThr = s.yardThr := rfl
@[simp] theorem putLine_yardWin (k : Nat) (x : Line) : (putLine s k x).yardWin = s.yardWin := rfl
@[simp] theorem putLine_slicesOut (k : Nat) (x : Line) : (putLine s k x).slicesOut = s.slicesOut := rfl
@[simp] theorem putLine_closing (k : Nat) (x : Line) : (putLine s k x).closing = s.closing := rfl
@[simp] theorem putLine_watches (k : Nat) (x : Line) : (putLine s k x).watches = s.watches := rfl
@[simp] theorem putLine_watchCap (k : Nat) (x : Line) : (putLine s k x).watchCap = s.watchCap := rfl
@[simp] theorem putLine_seqs (k : Nat) (x : Line) : (putLine s k x).seqs = s.seqs := rfl
@[simp] theorem putLine_squ (k : Nat) (x : Line) : (putLine s k x).squ = s.squ := rfl
@[simp] theorem putLine_ctxs (k : Nat) (x : Line) : (putLine s k x).ctxs = s.ctxs := rfl
@[simp] theorem putLine_teams (k : Nat) (x : Line) : (putLine s k x).teams = s.teams := rfl
@[simp] theorem putLine_warps (k : Nat) (x : Line) : (putLine s k x).warps = s.warps := rfl
@[simp] theorem putLine_accs (k : Nat) (x : Line) : (putLine s k x).accs = s.accs := rfl
@[simp] theorem putLine_cores (k : Nat) (x : Line) : (putLine s k x).cores = s.cores := rfl
@[simp] theorem putLine_clusters (k : Nat) (x : Line) : (putLine s k x).clusters = s.clusters := rfl
@[simp] theorem putLine_retics (k : Nat) (x : Line) : (putLine s k x).retics = s.retics := rfl
@[simp] theorem putLine_fqueue (k : Nat) (x : Line) : (putLine s k x).fqueue = s.fqueue := rfl
@[simp] theorem putLine_fqWait (k : Nat) (x : Line) : (putLine s k x).fqWait = s.fqWait := rfl
@[simp] theorem putLine_fqFull (k : Nat) (x : Line) : (putLine s k x).fqFull = s.fqFull := rfl
@[simp] theorem putLine_seqNext (k : Nat) (x : Line) : (putLine s k x).seqNext = s.seqNext := rfl
@[simp] theorem putLine_folds (k : Nat) (x : Line) : (putLine s k x).folds = s.folds := rfl
@[simp] theorem putLine_log (k : Nat) (x : Line) : (putLine s k x).log = s.log := rfl
@[simp] theorem putLine_msix (k : Nat) (x : Line) : (putLine s k x).msix = s.msix := rfl
@[simp] theorem putLine_logLost (k : Nat) (x : Line) : (putLine s k x).logLost = s.logLost := rfl
@[simp] theorem putLine_logTold (k : Nat) (x : Line) : (putLine s k x).logTold = s.logTold := rfl
@[simp] theorem putLine_devstat (k : Nat) (x : Line) : (putLine s k x).devstat = s.devstat := rfl
@[simp] theorem putLine_stage (k : Nat) (x : Line) : (putLine s k x).stage = s.stage := rfl
@[simp] theorem putLine_rstcause (k : Nat) (x : Line) : (putLine s k x).rstcause = s.rstcause := rfl
@[simp] theorem putLine_retResets (k : Nat) (x : Line) : (putLine s k x).retResets = s.retResets := rfl
@[simp] theorem putLine_coreResets (k : Nat) (x : Line) : (putLine s k x).coreResets = s.coreResets := rfl
@[simp] theorem putLine_drbase (k : Nat) (x : Line) : (putLine s k x).drbase = s.drbase := rfl
@[simp] theorem putLine_drlog2 (k : Nat) (x : Line) : (putLine s k x).drlog2 = s.drlog2 := rfl
@[simp] theorem putLine_drvec (k : Nat) (x : Line) : (putLine s k x).drvec = s.drvec := rfl
@[simp] theorem putLine_drpi (k : Nat) (x : Line) : (putLine s k x).drpi = s.drpi := rfl
@[simp] theorem putLine_drci (k : Nat) (x : Line) : (putLine s k x).drci = s.drci := rfl
@[simp] theorem putLine_drlost (k : Nat) (x : Line) : (putLine s k x).drlost = s.drlost := rfl
@[simp] theorem putLine_drLostFlag (k : Nat) (x : Line) : (putLine s k x).drLostFlag = s.drLostFlag := rfl
@[simp] theorem putLine_dtaddr (k : Nat) (x : Line) : (putLine s k x).dtaddr = s.dtaddr := rfl
@[simp] theorem putLine_dtbytes (k : Nat) (x : Line) : (putLine s k x).dtbytes = s.dtbytes := rfl
@[simp] theorem putLine_dthost (k : Nat) (x : Line) : (putLine s k x).dthost = s.dthost := rfl
@[simp] theorem putLine_dtDue (k : Nat) (x : Line) : (putLine s k x).dtDue = s.dtDue := rfl
@[simp] theorem putLine_devnum (k : Nat) (x : Line) : (putLine s k x).devnum = s.devnum := rfl
@[simp] theorem putLine_vfport (k : Nat) (x : Line) : (putLine s k x).vfport = s.vfport := rfl
@[simp] theorem putLine_tslot (k : Nat) (x : Line) : (putLine s k x).tslot = s.tslot := rfl
@[simp] theorem putLine_hostPorts (k : Nat) (x : Line) : (putLine s k x).hostPorts = s.hostPorts := rfl
@[simp] theorem putLine_ylPorts (k : Nat) (x : Line) : (putLine s k x).ylPorts = s.ylPorts := rfl
@[simp] theorem putLine_routing (k : Nat) (x : Line) : (putLine s k x).routing = s.routing := rfl
@[simp] theorem putLine_tags (k : Nat) (x : Line) : (putLine s k x).tags = s.tags := rfl
@[simp] theorem putLine_remotes (k : Nat) (x : Line) : (putLine s k x).remotes = s.remotes := rfl
@[simp] theorem putLine_tree (k : Nat) (x : Line) : (putLine s k x).tree = s.tree := rfl
@[simp] theorem putLine_treeGen (k : Nat) (x : Line) : (putLine s k x).treeGen = s.treeGen := rfl
@[simp] theorem putLine_treeAt (k : Nat) (x : Line) : (putLine s k x).treeAt = s.treeAt := rfl
@[simp] theorem putLine_treeDirty (k : Nat) (x : Line) : (putLine s k x).treeDirty = s.treeDirty := rfl
@[simp] theorem putLine_walkersOut (k : Nat) (x : Line) : (putLine s k x).walkersOut = s.walkersOut := rfl
@[simp] theorem putLine_linkLanes (k : Nat) (x : Line) : (putLine s k x).linkLanes = s.linkLanes := rfl
@[simp] theorem putLine_embed (k : Nat) (x : Line) : (putLine s k x).embed = s.embed := rfl
@[simp] theorem putLine_placed (k : Nat) (x : Line) : (putLine s k x).placed = s.placed := rfl
@[simp] theorem putLine_hbmOut (k : Nat) (x : Line) : (putLine s k x).hbmOut = s.hbmOut := rfl
@[simp] theorem putLine_hbmHot (k : Nat) (x : Line) : (putLine s k x).hbmHot = s.hbmHot := rfl
@[simp] theorem putLine_spares (k : Nat) (x : Line) : (putLine s k x).spares = s.spares := rfl
@[simp] theorem putLine_fwVersion (k : Nat) (x : Line) : (putLine s k x).fwVersion = s.fwVersion := rfl
@[simp] theorem putLine_identity (k : Nat) (x : Line) : (putLine s k x).identity = s.identity := rfl
@[simp] theorem putLine_poolOver (k : Nat) (x : Line) : (putLine s k x).poolOver = s.poolOver := rfl
@[simp] theorem putLine_powerAt (k : Nat) (x : Line) : (putLine s k x).powerAt = s.powerAt := rfl
@[simp] theorem putLine_boostStop (k : Nat) (x : Line) : (putLine s k x).boostStop = s.boostStop := rfl
@[simp] theorem putLine_attests (k : Nat) (x : Line) : (putLine s k x).attests = s.attests := rfl
@[simp] theorem putLine_nextId (k : Nat) (x : Line) : (putLine s k x).nextId = s.nextId := rfl
@[simp] theorem putLine_freeCtr (k : Nat) (x : Line) : (putLine s k x).freeCtr = s.freeCtr := rfl
@[simp] theorem putLine_cur (k : Nat) (x : Line) : (putLine s k x).cur = s.cur := rfl
@[simp] theorem putLine_agenda (k : Nat) (x : Line) : (putLine s k x).agenda = s.agenda := rfl
@[simp] theorem putLine_promised (k : Nat) (x : Line) : (putLine s k x).promised = s.promised := rfl
@[simp] theorem putLine_resetting (k : Nat) (x : Line) : (putLine s k x).resetting = s.resetting := rfl
@[simp] theorem putLine_calledBy (k : Nat) (x : Line) : (putLine s k x).calledBy = s.calledBy := rfl
@[simp] theorem putLine_replies (k : Nat) (x : Line) : (putLine s k x).replies = s.replies := rfl
@[simp] theorem putLine_treePhase (k : Nat) (x : Line) : (putLine s k x).treePhase = s.treePhase := rfl
@[simp] theorem putLine_detours (k : Nat) (x : Line) : (putLine s k x).detours = s.detours := rfl
@[simp] theorem putLine_inbox (k : Nat) (x : Line) : (putLine s k x).inbox = s.inbox := rfl

@[simp] theorem warpAt_putLine (k : Nat) (x : Line) (j : Nat) : warpAt (putLine s k x) j = warpAt s j := rfl
@[simp] theorem teamAt_putLine (k : Nat) (x : Line) (j : Nat) : teamAt (putLine s k x) j = teamAt s j := rfl
@[simp] theorem coreAt_putLine (k : Nat) (x : Line) (j : Nat) : coreAt (putLine s k x) j = coreAt s j := rfl
@[simp] theorem clusterAt_putLine (k : Nat) (x : Line) (j : Nat) : clusterAt (putLine s k x) j = clusterAt s j := rfl
@[simp] theorem reticleAt_putLine (k : Nat) (x : Line) (j : Nat) : reticleAt (putLine s k x) j = reticleAt s j := rfl
@[simp] theorem ctxAt_putLine (k : Nat) (x : Line) (j : Nat) : ctxAt (putLine s k x) j = ctxAt s j := rfl
@[simp] theorem accAt_putLine (k : Nat) (x : Line) (j : Nat) : accAt (putLine s k x) j = accAt s j := rfl
@[simp] theorem lineAt_putLine (k : Nat) (x : Line) (j : Nat) : lineAt (putLine s k x) j = if j = k then some x else lineAt s j := afind_aput _ _ _ _

/-! ### The issuing warp -/

/-- The issuing warp after it was replaced. -/
@[simp] theorem me_setMe (w : Warp) : me (setMe s w) = w := by simp [me, setMe]
@[simp] theorem setMe_cur (w : Warp) : (setMe s w).cur = s.cur := rfl
@[simp] theorem now_setMe (w : Warp) : now (setMe s w) = now s := rfl
@[simp] theorem curPc_setMe (w : Warp) : curPc (setMe s w) = curPc s := rfl
/-- Replacing the issuing warp twice keeps the second. -/
theorem aput_aput {α : Type} (m : List (Nat × α)) (i : Nat) (x y : α) : aput (aput m i x) i y = aput m i y := by
  induction m with
  | nil => simp [aput]
  | cons p m ih =>
    obtain ⟨k, v⟩ := p
    by_cases h1 : i < k
    · simp [aput, h1]
    · by_cases h2 : i = k
      · simp [aput, h2]
      · simp [aput, h1, h2, ih]
@[simp] theorem putWarp_putWarp (k : Nat) (w x : Warp) : putWarp (putWarp s k w) k x = putWarp s k x := by
  simp [putWarp, aput_aput]
@[simp] theorem setMe_setMe (w x : Warp) : setMe (setMe s w) x = setMe s x := by simp [setMe]
@[simp] theorem warpAt_setMe (w : Warp) (j : Nat) : warpAt (setMe s w) j = if j = s.cur.warp then w else warpAt s j := by
  simp [setMe]

end Sys2Proof.Machine
end

