-- ==== Sys2Proof/Laws/Registers.lean ====
section
/-!
SUPPORT. Laws of registers and of pending writes (R79, R84, R437): what a write leaves in each register, and what a read at
an aclk gives once writes are under way.
-/
namespace Sys2Proof.Machine
open Sys2Proof

/-! ### Rows -/

/-- Lane l of a row built lane by lane. -/
@[simp] theorem laneAt_map_lanes (f : Nat → W32) (l : Nat) (h : l < 64) : laneAt (lanes.map f) l = f l := by
  simp [laneAt, lanes, List.getD, h]

/-- Lane l of a merged row. -/
theorem laneAt_mergeRow (m : Word) (new old : List W32) (l : Nat) (h : l < 64) :
    laneAt (mergeRow m new old) l = if bit m l then laneAt new l else laneAt old l := by
  unfold mergeRow; rw [laneAt_map_lanes _ _ h]

/-! ### Single writes -/

theorem vreg_setVrow (w : Warp) (r : Nat) (m : Word) (row : List W32) (q l : Nat) (h : l < 64) :
    vreg (setVrow w r m row) q l = if q = r ∧ bit m l = true then laneAt row l else vreg w q l := by
  simp only [vreg, vrow, setVrow, aget_aset]
  by_cases hq : q = r
  · subst hq; rw [if_pos rfl, laneAt_mergeRow _ _ _ _ h]; simp
  · simp [hq]

@[simp] theorem greg_setG (w : Warp) (r : Nat) (x : Word) (q : Nat) : greg (setG w r x) q = if q = r then x else greg w q := by
  simp [greg, setG, aget_aset]

/-- p0 reads true in every lane (R84). -/
@[simp] theorem prow_zero (w : Warp) : prow w 0 = BitVec.allOnes 64 := rfl

theorem bit_prow_setProw (w : Warp) (r : Nat) (m x : Word) (q l : Nat) :
    bit (prow (setProw w r m x) q) l =
      if q = r ∧ r ≠ 0 ∧ bit m l = true then bit x l else bit (prow w q) l := by
  by_cases hr : r = 0
  · subst hr; simp [setProw]
  · simp only [setProw, hr, if_false, prow]
    by_cases hq : q = 0
    · subst hq; have : (0 : Nat) ≠ r := fun h => hr h.symm; simp [this]
    · simp only [hq, if_false, aget_aset]
      by_cases hqr : q = r
      · subst hqr
        simp only [if_true, bit, hr, ne_eq, not_false_eq_true, true_and, BitVec.getLsbD_or, BitVec.getLsbD_and,
          BitVec.getLsbD_not]
        by_cases hl : l < 64
        · cases hm : m.getLsbD l <;> simp [hl]
        · have h1 : m.getLsbD l = false := BitVec.getLsbD_of_ge _ _ (by omega)
          have h2 : (aget 0#64 w.p q).getLsbD l = false := BitVec.getLsbD_of_ge _ _ (by omega)
          simp [h1, h2]
      · simp [hqr]

@[simp] theorem greg_setVrow (w : Warp) (r : Nat) (m : Word) (row : List W32) (q : Nat) : greg (setVrow w r m row) q = greg w q := rfl
@[simp] theorem prow_setVrow (w : Warp) (r : Nat) (m : Word) (row : List W32) (q : Nat) : prow (setVrow w r m row) q = prow w q := rfl
@[simp] theorem qreg_setVrow (w : Warp) (r : Nat) (m : Word) (row : List W32) (q : Nat) : qreg (setVrow w r m row) q = qreg w q := rfl
@[simp] theorem vreg_setG (w : Warp) (r : Nat) (x : Word) (q l : Nat) : vreg (setG w r x) q l = vreg w q l := rfl
@[simp] theorem prow_setG (w : Warp) (r : Nat) (x : Word) (q : Nat) : prow (setG w r x) q = prow w q := rfl
@[simp] theorem qreg_setG (w : Warp) (r : Nat) (x : Word) (q : Nat) : qreg (setG w r x) q = qreg w q := rfl
@[simp] theorem vreg_setQ (w : Warp) (r : Nat) (x : Bool) (q l : Nat) : vreg (setQ w r x) q l = vreg w q l := rfl
@[simp] theorem prow_setQ (w : Warp) (r : Nat) (x : Bool) (q : Nat) : prow (setQ w r x) q = prow w q := rfl
@[simp] theorem greg_setQ (w : Warp) (r : Nat) (x : Bool) (q : Nat) : greg (setQ w r x) q = greg w q := rfl
@[simp] theorem vreg_setProw (w : Warp) (r : Nat) (m x : Word) (q l : Nat) : vreg (setProw w r m x) q l = vreg w q l := by
  unfold setProw; split <;> rfl
@[simp] theorem greg_setProw (w : Warp) (r : Nat) (m x : Word) (q : Nat) : greg (setProw w r m x) q = greg w q := by
  unfold setProw; split <;> rfl
@[simp] theorem qreg_setProw (w : Warp) (r : Nat) (m x : Word) (q : Nat) : qreg (setProw w r m x) q = qreg w q := by
  unfold setProw; split <;> rfl

/-- The q register numbers that exist, after a write of one of them. -/
theorem qreg_setQ (w : Warp) (r : Nat) (x : Bool) (q : Nat) (hr : r < 16) :
    qreg (setQ w r x) q = if q = r then x else qreg w q := by
  have hm : ∀ k, (BitVec.ofNat 16 ((2 ^ 1 - 1) * 2 ^ r)).getLsbD k = decide (k = r) := by
    intro k
    have : (2 ^ 1 - 1) * 2 ^ r = 2 ^ r := by omega
    rw [this]
    simp only [BitVec.getLsbD_ofNat]
    by_cases hk : k = r
    · subst hk; simp [hr, Nat.testBit_two_pow_self]
    · rw [Nat.testBit_two_pow_of_ne (by omega)]; simp [hk]
  have hx : ∀ k, (BitVec.ofNat 16 ((b2n x % 2 ^ 1) * 2 ^ r)).getLsbD k = (decide (k = r) && x) := by
    intro k
    cases x
    · simp [b2n]
    · have := hm k; simpa [b2n] using this
  simp only [qreg, setQ, setBit, setFld, bit, BitVec.getLsbD_or, BitVec.getLsbD_and, BitVec.getLsbD_not, hm, hx]
  by_cases hq : q = r
  · subst hq; simp
  · simp only [hq, decide_false, Bool.not_false, Bool.false_and, Bool.or_false, if_false]
    by_cases h16 : q < 16
    · simp [h16]
    · rw [BitVec.getLsbD_of_ge _ _ (by omega)]; simp

/-! ### Writes under way -/

/-- A write changes no field of a warp but the register it names. -/
theorem applyWrite_pend (w : Warp) (x : PWrite) : (applyWrite w x).pend = w.pend := by
  cases x <;> simp [applyWrite, setVrow, setProw, setG, setQ] <;> split <;> rfl

/-- What a write makes of lane l of register r. -/
def vUpd (r l : Nat) (old : W32) : PWrite → W32
  | .v q m row => if r = q ∧ bit m l = true then laneAt row l else old
  | _ => old
/-- What a write makes of lane l of predicate r. -/
def pUpd (r l : Nat) (old : Bool) : PWrite → Bool
  | .p q m x => if r = q ∧ q ≠ 0 ∧ bit m l = true then bit x l else old
  | _ => old
/-- What a write makes of g(r). -/
def gUpd (r : Nat) (old : Word) : PWrite → Word
  | .g q x => if r = q then x else old
  | _ => old
/-- What a write makes of q(r). -/
def qUpd (r : Nat) (old : Bool) : PWrite → Bool
  | .q q x => if r = q then x else old
  | _ => old

theorem vreg_applyWrite (w : Warp) (x : PWrite) (r l : Nat) (h : l < 64) :
    vreg (applyWrite w x) r l = vUpd r l (vreg w r l) x := by
  cases x <;> simp [applyWrite, vUpd, vreg_setVrow, h]
theorem prow_applyWrite (w : Warp) (x : PWrite) (r l : Nat) :
    bit (prow (applyWrite w x) r) l = pUpd r l (bit (prow w r) l) x := by
  cases x <;> simp [applyWrite, pUpd, bit_prow_setProw]
theorem greg_applyWrite (w : Warp) (x : PWrite) (r : Nat) : greg (applyWrite w x) r = gUpd r (greg w r) x := by
  cases x <;> simp [applyWrite, gUpd]

/-- A q write names a register below 16. -/
def qOk : PWrite → Bool
  | .q r _ => r < 16
  | _ => true
theorem qreg_applyWrite (w : Warp) (x : PWrite) (r : Nat) (h : qOk x = true) :
    qreg (applyWrite w x) r = qUpd r (qreg w r) x := by
  cases x with
  | q r' b => simp only [qOk, decide_eq_true_eq] at h; simp [applyWrite, qUpd, qreg_setQ, h]
  | _ => simp [applyWrite, qUpd]

/-- Reads after writes, one by one. -/
theorem vreg_writes (xs : List Pend) (w : Warp) (r l : Nat) (h : l < 64) :
    vreg (xs.foldl (fun w x => applyWrite w x.w) w) r l = xs.foldl (fun o x => vUpd r l o x.w) (vreg w r l) := by
  induction xs generalizing w with
  | nil => rfl
  | cons x xs ih => simp only [List.foldl_cons, ih, vreg_applyWrite _ _ _ _ h]
theorem prow_writes (xs : List Pend) (w : Warp) (r l : Nat) :
    bit (prow (xs.foldl (fun w x => applyWrite w x.w) w) r) l = xs.foldl (fun o x => pUpd r l o x.w) (bit (prow w r) l) := by
  induction xs generalizing w with
  | nil => rfl
  | cons x xs ih => simp only [List.foldl_cons, ih, prow_applyWrite]
theorem greg_writes (xs : List Pend) (w : Warp) (r : Nat) :
    greg (xs.foldl (fun w x => applyWrite w x.w) w) r = xs.foldl (fun o x => gUpd r o x.w) (greg w r) := by
  induction xs generalizing w with
  | nil => rfl
  | cons x xs ih => simp only [List.foldl_cons, ih, greg_applyWrite]

/-- The register file and nothing else of one warp, under writes: equal files stay equal. -/
def sameRegs (a b : Warp) : Prop := a.v = b.v ∧ a.p = b.p ∧ a.g = b.g ∧ a.q = b.q

theorem sameRegs_applyWrite (a b : Warp) (h : sameRegs a b) (x : PWrite) : sameRegs (applyWrite a x) (applyWrite b x) := by
  obtain ⟨h1, h2, h3, h4⟩ := h
  cases x <;> simp [sameRegs, applyWrite, setVrow, vrow, setProw, setG, setQ, h1, h2, h3, h4] <;> split <;> simp_all

theorem sameRegs_writes (xs : List Pend) (a b : Warp) (h : sameRegs a b) :
    sameRegs (xs.foldl (fun w x => applyWrite w x.w) a) (xs.foldl (fun w x => applyWrite w x.w) b) := by
  induction xs generalizing a b with
  | nil => exact h
  | cons x xs ih => exact ih _ _ (sameRegs_applyWrite a b h x.w)

/-- A pending write put among others is among them. -/
theorem mem_insertPend (x y : Pend) (ys : List Pend) : y ∈ insertPend x ys ↔ y = x ∨ y ∈ ys := by
  induction ys with
  | nil => simp [insertPend]
  | cons z zs ih =>
    simp only [insertPend]
    split
    · simp
    · simp only [List.mem_cons, ih]
      constructor
      · rintro (h | h | h) <;> simp [h]
      · rintro (h | h | h) <;> simp [h]

/-- Pending writes stand in the order of their times (R437). -/
abbrev PendSorted (xs : List Pend) : Prop := xs.Pairwise fun a b => a.due ≤ b.due

/-- A pending write put in its place keeps the order. -/
theorem insertPend_sorted (x : Pend) (xs : List Pend) (h : PendSorted xs) : PendSorted (insertPend x xs) := by
  induction xs with
  | nil => simp [insertPend, PendSorted]
  | cons y ys ih =>
    simp only [PendSorted, List.pairwise_cons] at h
    simp only [insertPend]
    split
    · next hlt =>
      refine List.pairwise_cons.2 ⟨?_, List.pairwise_cons.2 h⟩
      intro z hz
      rcases List.mem_cons.1 hz with rfl | hz
      · omega
      · have := h.1 z hz; omega
    · next hge =>
      refine List.pairwise_cons.2 ⟨?_, ih h.2⟩
      intro z hz
      rcases (mem_insertPend _ _ _).1 hz with rfl | hz
      · omega
      · exact h.1 z hz

/-- The writes due by the time of one put among them: it comes last. -/
theorem filter_insertPend (x : Pend) (xs : List Pend) (h : PendSorted xs) :
    (insertPend x xs).filter (fun y => decide (y.due ≤ x.due)) = xs.filter (fun y => decide (y.due ≤ x.due)) ++ [x] := by
  induction xs with
  | nil => simp [insertPend]
  | cons y ys ih =>
    simp only [PendSorted, List.pairwise_cons] at h
    simp only [insertPend]
    split
    · next hlt =>
      have hnone : ys.filter (fun y => decide (y.due ≤ x.due)) = [] := by
        rw [List.filter_eq_nil_iff]; intro z hz; have := h.1 z hz; simp; omega
      have hy : ¬ y.due ≤ x.due := by omega
      simp [hnone, hy]
    · next hge =>
      have hy : y.due ≤ x.due := by omega
      simp [hy, ih h.2]

/-- The writes due by an earlier time are those that were there. -/
theorem filter_insertPend_before (x : Pend) (xs : List Pend) (t : Nat) (ht : t < x.due) :
    (insertPend x xs).filter (fun y => decide (y.due ≤ t)) = xs.filter (fun y => decide (y.due ≤ t)) := by
  induction xs with
  | nil => simp [insertPend]; omega
  | cons y ys ih =>
    simp only [insertPend]
    split
    · have : ¬ x.due ≤ t := by omega
      simp [List.filter_cons, this]
    · simp [List.filter_cons, ih]

/-- Writes put in at one time, read at that time: they come last, in their order. -/
theorem sameRegs_settle_addPend (w : Warp) (t : Nat) (xs : List PWrite) (h : PendSorted w.pend) :
    sameRegs (settle t (addPend w t xs)) (xs.foldl applyWrite (settle t w)) := by
  induction xs generalizing w with
  | nil => exact ⟨rfl, rfl, rfl, rfl⟩
  | cons x xs ih =>
    have h1 : addPend w t (x :: xs) = addPend { w with pend := insertPend ⟨t, x⟩ w.pend } t xs := rfl
    rw [h1]
    have h2 := ih { w with pend := insertPend ⟨t, x⟩ w.pend } (insertPend_sorted ⟨t, x⟩ _ h)
    have h3 : sameRegs (settle t { w with pend := insertPend ⟨t, x⟩ w.pend }) (applyWrite (settle t w) x) := by
      simp only [settle, filter_insertPend ⟨t, x⟩ _ h, List.foldl_append, List.foldl_cons, List.foldl_nil]
      apply sameRegs_applyWrite
      apply sameRegs_writes
      exact ⟨rfl, rfl, rfl, rfl⟩
    have h4 : ∀ (ys : List PWrite) (a b : Warp), sameRegs a b → sameRegs (ys.foldl applyWrite a) (ys.foldl applyWrite b) := by
      intro ys
      induction ys with
      | nil => intro a b hab; exact hab
      | cons y ys ihy => intro a b hab; exact ihy _ _ (sameRegs_applyWrite a b hab y)
    have h5 := h4 xs _ _ h3
    exact ⟨h2.1.trans h5.1, h2.2.1.trans h5.2.1, h2.2.2.1.trans h5.2.2.1, h2.2.2.2.trans h5.2.2.2⟩

/-- Writes put in at a later time are not seen before it (R437). -/
theorem sameRegs_settle_before (w : Warp) (t u : Nat) (xs : List PWrite) (h : u < t) :
    sameRegs (settle u (addPend w t xs)) (settle u w) := by
  have hf : (addPend w t xs).pend.filter (fun y => decide (y.due ≤ u)) = w.pend.filter (fun y => decide (y.due ≤ u)) := by
    simp only [addPend]
    induction xs generalizing w with
    | nil => rfl
    | cons x xs ih =>
      have := ih { w with pend := insertPend ⟨t, x⟩ w.pend }
      simp only [List.foldl_cons]
      exact this.trans (filter_insertPend_before ⟨t, x⟩ _ _ h)
  simp only [settle, hf]
  apply sameRegs_writes
  exact ⟨rfl, rfl, rfl, rfl⟩

/-- Putting writes in keeps the order of times. -/
theorem addPend_sorted (w : Warp) (t : Nat) (xs : List PWrite) (h : PendSorted w.pend) : PendSorted (addPend w t xs).pend := by
  simp only [addPend]
  induction xs generalizing w with
  | nil => exact h
  | cons x xs ih => exact ih { w with pend := insertPend ⟨t, x⟩ w.pend } (insertPend_sorted ⟨t, x⟩ _ h)

/-- Writes that have taken place leave the others in order. -/
theorem settle_pend (t : Nat) (w : Warp) : (settle t w).pend = w.pend.filter fun x => t < x.due := by
  simp only [settle]
  have : ∀ (xs : List Pend) (a : Warp), (xs.foldl (fun w x => applyWrite w x.w) a).pend = a.pend := by
    intro xs; induction xs with
    | nil => intro a; rfl
    | cons x xs ih => intro a; rw [List.foldl_cons, ih, applyWrite_pend]
  rw [this]

theorem settle_sorted (t : Nat) (w : Warp) (h : PendSorted w.pend) : PendSorted (settle t w).pend := by
  rw [settle_pend]; exact List.Pairwise.filter _ h

/-- A fold of updates with one more put in that does nothing. -/
theorem foldl_insertPend_skip {β : Type} (f : β → Pend → β) (x : Pend) (hx : ∀ b, f b x = b) (xs : List Pend) (b : β)
    (p : Pend → Bool) : ((insertPend x xs).filter p).foldl f b = (xs.filter p).foldl f b := by
  induction xs generalizing b with
  | nil => simp only [insertPend, List.filter_cons, List.filter_nil]; split <;> simp [hx]
  | cons y ys ih =>
    simp only [insertPend]
    split
    · simp only [List.filter_cons]; split <;> simp [hx]
    · simp only [List.filter_cons]; split <;> simp [ih]

/-- A register that no write put in names reads as before, at every time. -/
theorem vreg_settle_addPend_other (w : Warp) (t u : Nat) (xs : List PWrite) (r l : Nat) (hl : l < 64)
    (h : ∀ x ∈ xs, ∀ o, vUpd r l o x = o) : vreg (settle u (addPend w t xs)) r l = vreg (settle u w) r l := by
  simp only [settle, vreg_writes _ _ _ _ hl]
  show List.foldl _ (vreg w r l) _ = List.foldl _ (vreg w r l) _
  simp only [addPend]
  generalize vreg w r l = b
  induction xs generalizing w with
  | nil => rfl
  | cons x xs ih =>
    rw [List.foldl_cons]
    exact (ih { w with pend := insertPend ⟨t, x⟩ w.pend } fun y hy => h y (List.mem_cons_of_mem _ hy)).trans
      (foldl_insertPend_skip _ ⟨t, x⟩ (h x List.mem_cons_self) _ _ _)

theorem prow_settle_addPend_other (w : Warp) (t u : Nat) (xs : List PWrite) (r l : Nat)
    (h : ∀ x ∈ xs, ∀ o, pUpd r l o x = o) :
    bit (prow (settle u (addPend w t xs)) r) l = bit (prow (settle u w) r) l := by
  simp only [settle, prow_writes]
  show List.foldl _ (bit (prow w r) l) _ = List.foldl _ (bit (prow w r) l) _
  simp only [addPend]
  generalize bit (prow w r) l = b
  induction xs generalizing w with
  | nil => rfl
  | cons x xs ih =>
    rw [List.foldl_cons]
    exact (ih { w with pend := insertPend ⟨t, x⟩ w.pend } fun y hy => h y (List.mem_cons_of_mem _ hy)).trans
      (foldl_insertPend_skip _ ⟨t, x⟩ (h x List.mem_cons_self) _ _ _)

theorem greg_settle_addPend_other (w : Warp) (t u : Nat) (xs : List PWrite) (r : Nat)
    (h : ∀ x ∈ xs, ∀ o, gUpd r o x = o) : greg (settle u (addPend w t xs)) r = greg (settle u w) r := by
  simp only [settle, greg_writes]
  show List.foldl _ (greg w r) _ = List.foldl _ (greg w r) _
  simp only [addPend]
  generalize greg w r = b
  induction xs generalizing w with
  | nil => rfl
  | cons x xs ih =>
    rw [List.foldl_cons]
    exact (ih { w with pend := insertPend ⟨t, x⟩ w.pend } fun y hy => h y (List.mem_cons_of_mem _ hy)).trans
      (foldl_insertPend_skip _ ⟨t, x⟩ (h x List.mem_cons_self) _ _ _)

end Sys2Proof.Machine
end

