-- ==== Sys2Proof/Laws/Runs.lean ====
section
/-!
SUPPORT. Laws of the PC table (R36 to R38): where each lane stands after lanes have moved, parked or left.
-/
namespace Sys2Proof.Machine
open Sys2Proof

/-- Bit l of a difference of masks. -/
theorem bit_diff (a b : Word) (l : Nat) : bit (a &&& ~~~b) l = (bit a l && !bit b l) := by
  simp only [bit, BitVec.getLsbD_and, BitVec.getLsbD_not]
  by_cases h : l < 64
  · simp [h]
  · simp [BitVec.getLsbD_of_ge a l (by omega)]

theorem bit_and (a b : Word) (l : Nat) : bit (a &&& b) l = (bit a l && bit b l) := by simp [bit]
theorem bit_or (a b : Word) (l : Nat) : bit (a ||| b) l = (bit a l || bit b l) := by simp [bit]
theorem bit_zero (l : Nat) : bit 0#64 l = false := by simp [bit]

/-- Some run holds lane l at a place that q accepts. -/
def laneIn (q : Word → Option Park → Prop) (l : Nat) (pcs : List PcEntry) : Prop :=
  ∃ e ∈ pcs, bit e.mask l = true ∧ q e.pc e.park

variable (q : Word → Option Park → Prop) (l : Nat)

@[simp] theorem laneIn_nil : ¬ laneIn q l [] := by simp [laneIn]
@[simp] theorem laneIn_cons (e : PcEntry) (es : List PcEntry) :
    laneIn q l (e :: es) ↔ (bit e.mask l = true ∧ q e.pc e.park) ∨ laneIn q l es := by simp [laneIn]

/-- An entry put in its place, merged or not, adds its lanes where they stand. -/
theorem laneIn_insertEntry (e : PcEntry) (es : List PcEntry) :
    laneIn q l (insertEntry e es) ↔ (bit e.mask l = true ∧ q e.pc e.park) ∨ laneIn q l es := by
  induction es with
  | nil => simp [insertEntry]
  | cons x xs ih =>
    simp only [insertEntry]
    split
    · next hm =>
      simp only [mergeable, Bool.and_eq_true, decide_eq_true_eq] at hm
      obtain ⟨⟨h1, h2⟩, _⟩ := hm
      simp only [laneIn_cons, bit_or, Bool.or_eq_true, h1, h2, or_and_right, or_assoc]
      constructor
      · rintro (h | h | h) <;> simp [h]
      · rintro (h | h | h) <;> simp [h]
    · split
      · simp only [laneIn_cons]
      · simp only [laneIn_cons, ih]
        constructor
        · rintro (h | h | h) <;> simp [h]
        · rintro (h | h | h) <;> simp [h]

theorem laneIn_foldl (es acc : List PcEntry) :
    laneIn q l (es.foldl (fun t e => insertEntry e t) acc) ↔ laneIn q l es ∨ laneIn q l acc := by
  induction es generalizing acc with
  | nil => simp
  | cons e es ih =>
    simp only [List.foldl_cons, ih, laneIn_insertEntry, laneIn_cons]
    constructor
    · rintro (h | h | h) <;> simp [h]
    · rintro ((h | h) | h) <;> simp [h]

/-- Putting the table in order moves no lane. -/
theorem laneIn_normPcs (es : List PcEntry) : laneIn q l (normPcs es) ↔ laneIn q l es := by
  simp only [normPcs, laneIn_foldl, laneIn_nil, or_false]
  simp only [laneIn, List.mem_filter]
  constructor
  · rintro ⟨e, ⟨he, _⟩, h⟩; exact ⟨e, he, h⟩
  · rintro ⟨e, he, hb, hq⟩
    refine ⟨e, ⟨he, ?_⟩, hb, hq⟩
    have : e.mask ≠ 0#64 := by intro h; rw [h, bit_zero] at hb; exact absurd hb (by simp)
    simpa using this

/-- Lanes changed by f, the others as they were. -/
theorem laneIn_mapLanes (m : Word) (f : PcEntry → PcEntry) (es : List PcEntry) :
    laneIn q l (mapLanes m f es) ↔
      ∃ e ∈ es, bit e.mask l = true ∧ if bit m l then q (f e).pc (f e).park else q e.pc e.park := by
  simp only [mapLanes, laneIn_normPcs]
  simp only [laneIn, List.mem_flatMap]
  constructor
  · rintro ⟨e, ⟨x, hx, he⟩, hb, hq⟩
    simp only [List.mem_cons, List.not_mem_nil, or_false] at he
    rcases he with rfl | rfl
    · simp only [bit_diff, Bool.and_eq_true, Bool.not_eq_true'] at hb
      exact ⟨x, hx, hb.1, by simp [hb.2]; exact hq⟩
    · simp only [bit_and, Bool.and_eq_true] at hb
      exact ⟨x, hx, hb.1, by simp [hb.2]; exact hq⟩
  · rintro ⟨x, hx, hb, hq⟩
    by_cases hm : bit m l = true
    · simp only [hm, if_true] at hq
      exact ⟨{ f x with mask := x.mask &&& m }, ⟨x, hx, by simp⟩, by simp [bit_and, hb, hm], hq⟩
    · simp only [hm] at hq
      exact ⟨{ x with mask := x.mask &&& ~~~m }, ⟨x, hx, by simp⟩, by simp [bit_diff, hb, hm], hq⟩

/-- Lanes moved to an address stand there, running; the others stand where they stood. -/
theorem laneIn_moveLanes (m pc : Word) (es : List PcEntry) :
    laneIn q l (moveLanes m pc es) ↔
      if bit m l then (∃ e ∈ es, bit e.mask l = true) ∧ q pc none else laneIn q l es := by
  simp only [moveLanes, laneIn_mapLanes]
  by_cases hm : bit m l = true
  · simp only [hm, if_true]
    constructor
    · rintro ⟨e, he, hb, hq⟩; exact ⟨⟨e, he, hb⟩, hq⟩
    · rintro ⟨⟨e, he, hb⟩, hq⟩; exact ⟨e, he, hb, hq⟩
  · simp only [hm]; rfl

/-- The runs of a warp whose runs were changed. -/
@[simp] theorem runsOf_mapRuns (f : List PcEntry → List PcEntry) (w : Warp) : runsOf (mapRuns f w) = f (runsOf w) := by
  unfold runsOf mapRuns; cases w.handler <;> simp

/-- What a change of the runs leaves of a warp. -/
theorem mapRuns_eq (f : List PcEntry → List PcEntry) (w : Warp) :
    mapRuns f w = { w with pcs := (mapRuns f w).pcs, handler := (mapRuns f w).handler } := by
  unfold mapRuns; cases w.handler <;> simp

/-- A change of what holds the runs moves no lane. -/
@[simp] theorem runsOf_mapHolds (f : List (Nat × Word) → List (Nat × Word)) (w : Warp) : runsOf (mapHolds f w) = runsOf w := by
  unfold runsOf mapHolds; cases w.handler <;> simp
/-- What holds the runs after a change of it. -/
@[simp] theorem holdsOf_mapHolds (f : List (Nat × Word) → List (Nat × Word)) (w : Warp) : holdsOf (mapHolds f w) = f (holdsOf w) := by
  unfold holdsOf mapHolds; cases w.handler <;> simp
/-- A change of the runs leaves what holds them. -/
@[simp] theorem holdsOf_mapRuns (f : List PcEntry → List PcEntry) (w : Warp) : holdsOf (mapRuns f w) = holdsOf w := by
  unfold holdsOf mapRuns; cases w.handler <;> simp
/-- What a change of the holds leaves of a warp. -/
theorem mapHolds_eq (f : List (Nat × Word) → List (Nat × Word)) (w : Warp) :
    mapHolds f w = { w with holds := (mapHolds f w).holds, handler := (mapHolds f w).handler } := by
  unfold mapHolds; cases w.handler <;> simp

/-- Lanes that go to an address change the runs and what holds them alone. -/
theorem gotoPark_eq (m pc : Word) (p : Option Park) (w : Warp) :
    gotoPark m pc p w = { w with pcs := (gotoPark m pc p w).pcs, holds := (gotoPark m pc p w).holds
                                 handler := (gotoPark m pc p w).handler } := by
  unfold gotoPark mapHolds mapRuns; cases w.handler <;> simp

/-- The first request that holds lane l, after those of a mask have been let go. -/
theorem find_unhold (m : Word) (l : Nat) (hs : List (Nat × Word)) :
    ((unhold m hs).find? fun h => bit h.2 l).map (·.1)
      = if bit m l then none else (hs.find? fun h => bit h.2 l).map (·.1) := by
  induction hs with
  | nil => simp [unhold]
  | cons h hs ih =>
    simp only [unhold, List.map_cons] at ih ⊢
    by_cases hz : h.2 &&& ~~~m = 0#64
    · have hb : (bit h.2 l && !bit m l) = false := by rw [← bit_diff, hz, bit_zero]
      rw [List.filter_cons_of_neg (by simp [hz])]
      rw [ih]
      cases hm : bit m l <;> cases hh : bit h.2 l <;> simp_all
    · rw [List.filter_cons_of_pos (by simp [hz])]
      simp only [List.find?_cons, bit_diff]
      cases hm : bit m l <;> cases hh : bit h.2 l <;> simp [hm] at ih ⊢ <;> exact ih

/-- What holds a lane after lanes have gone to an address: nothing holds those, and the others are held as before. -/
theorem heldBy_gotoPark (m pc : Word) (p : Option Park) (w : Warp) :
    heldBy (gotoPark m pc p w) l = if bit m l then none else heldBy w l := by
  simp only [heldBy, gotoPark, holdsOf_mapHolds, holdsOf_mapRuns, find_unhold]

/-- Lanes of a warp that go to an address, parked or running. -/
theorem laneIn_gotoPark (m pc : Word) (p : Option Park) (w : Warp) :
    laneIn q l (runsOf (gotoPark m pc p w)) ↔
      if bit m l then (∃ e ∈ runsOf w, bit e.mask l = true) ∧ q pc p else laneIn q l (runsOf w) := by
  simp only [gotoPark, runsOf_mapHolds, runsOf_mapRuns, laneIn_mapLanes]
  by_cases hm : bit m l = true
  · simp only [hm, if_true]
    constructor
    · rintro ⟨e, he, hb, hq⟩; exact ⟨⟨e, he, hb⟩, hq⟩
    · rintro ⟨⟨e, he, hb⟩, hq⟩; exact ⟨e, he, hb, hq⟩
  · simp only [hm]; rfl

/-- Lanes of a warp that go to an address. -/
theorem laneIn_goto (m pc : Word) (w : Warp) :
    laneIn q l (runsOf (goto m pc w)) ↔
      if bit m l then (∃ e ∈ runsOf w, bit e.mask l = true) ∧ q pc none else laneIn q l (runsOf w) :=
  laneIn_gotoPark q l m pc none w

end Sys2Proof.Machine
end

