-- ==== Sys2Proof/Laws/Issue.lean ====
section
/-!
SUPPORT. Laws of the issue of an instruction: what the checks of stages 1 to 3 let through, and everything that the completion of
a fixed-latency instruction does.
-/
namespace Sys2Proof.Machine
open Sys2Proof

/-! ### Reading at the issue -/

/-- Writes that take place change nothing but registers and the list of pending writes. -/
theorem settle_eq (t : Nat) (w : Warp) :
    settle t w = { w with v := (settle t w).v, p := (settle t w).p, g := (settle t w).g, q := (settle t w).q
                          pend := (settle t w).pend } := by
  have hone : ∀ (a : Warp) (x : PWrite),
      applyWrite a x = { a with v := (applyWrite a x).v, p := (applyWrite a x).p, g := (applyWrite a x).g
                                q := (applyWrite a x).q } := by
    intro a x; cases x <;> simp [applyWrite, setVrow, setProw, setG, setQ] <;> split <;> rfl
  have hall : ∀ (xs : List Pend) (a : Warp), ∃ v p g q,
      xs.foldl (fun w x => applyWrite w x.w) a = { a with v := v, p := p, g := g, q := q } := by
    intro xs
    induction xs with
    | nil => intro a; exact ⟨_, _, _, _, rfl⟩
    | cons x xs ih =>
      intro a
      obtain ⟨v, p, g, q, h⟩ := ih (applyWrite a x.w)
      rw [List.foldl_cons, h, hone a x.w]
      exact ⟨_, _, _, _, rfl⟩
  obtain ⟨v, p, g, q, h⟩ := hall (w.pend.filter fun x => decide (x.due ≤ t)) { w with pend := w.pend.filter fun x => decide (t < x.due) }
  have : settle t w = { w with pend := w.pend.filter fun x => decide (t < x.due), v := v, p := p, g := g, q := q } := h
  rw [this]

@[simp] theorem settle_native (t : Nat) (w : Warp) : (settle t w).native = w.native := by rw [settle_eq]
@[simp] theorem settle_tx (t : Nat) (w : Warp) : (settle t w).tx = w.tx := by rw [settle_eq]
@[simp] theorem settle_team (t : Nat) (w : Warp) : (settle t w).team = w.team := by rw [settle_eq]
@[simp] theorem settle_wid (t : Nat) (w : Warp) : (settle t w).wid = w.wid := by rw [settle_eq]
@[simp] theorem settle_pcs (t : Nat) (w : Warp) : (settle t w).pcs = w.pcs := by rw [settle_eq]
@[simp] theorem settle_handler (t : Nat) (w : Warp) : (settle t w).handler = w.handler := by rw [settle_eq]
@[simp] theorem settle_latches (t : Nat) (w : Warp) : (settle t w).latches = w.latches := by rw [settle_eq]
@[simp] theorem settle_flags (t : Nat) (w : Warp) : (settle t w).flags = w.flags := by rw [settle_eq]
@[simp] theorem settle_seed (t : Nat) (w : Warp) : (settle t w).seed = w.seed := by rw [settle_eq]
@[simp] theorem settle_blocks (t : Nat) (w : Warp) : (settle t w).blocks = w.blocks := by rw [settle_eq]
@[simp] theorem settle_fs (t : Nat) (w : Warp) : (settle t w).fs = w.fs := by rw [settle_eq]
@[simp] theorem settle_gang (t : Nat) (w : Warp) : (settle t w).gang = w.gang := by rw [settle_eq]
@[simp] theorem settle_ql (t : Nat) (w : Warp) : (settle t w).ql = w.ql := by rw [settle_eq]
@[simp] theorem settle_reuse (t : Nat) (w : Warp) : (settle t w).reuse = w.reuse := by rw [settle_eq]
@[simp] theorem settle_tstat (t : Nat) (w : Warp) : (settle t w).tstat = w.tstat := by rw [settle_eq]
@[simp] theorem settle_exited (t : Nat) (w : Warp) : (settle t w).exited = w.exited := by rw [settle_eq]
@[simp] theorem settle_pix (t : Nat) (w : Warp) : (settle t w).pix = w.pix := by rw [settle_eq]
@[simp] theorem settle_detected (t : Nat) (w : Warp) : (settle t w).detected = w.detected := by rw [settle_eq]
@[simp] theorem settle_walks (t : Nat) (w : Warp) : (settle t w).walks = w.walks := by rw [settle_eq]
@[simp] theorem settle_walkBad (t : Nat) (w : Warp) : (settle t w).walkBad = w.walkBad := by rw [settle_eq]
@[simp] theorem runsOf_settle (t : Nat) (w : Warp) : runsOf (settle t w) = runsOf w := by
  unfold runsOf; rw [settle_handler, settle_pcs]
@[simp] theorem settle_holds (t : Nat) (w : Warp) : (settle t w).holds = w.holds := by rw [settle_eq]
@[simp] theorem holdsOf_settle (t : Nat) (w : Warp) : holdsOf (settle t w) = holdsOf w := by
  unfold holdsOf; rw [settle_handler, settle_holds]
@[simp] theorem txLanes_settle (t : Nat) (w : Warp) : txLanes (settle t w) = txLanes w := by unfold txLanes; rw [settle_tx]

@[simp] theorem settleMe_cur (s : State) : (settleMe s).cur = s.cur := rfl
@[simp] theorem me_settleMe (s : State) : me (settleMe s) = issuing s := by simp [settleMe, issuing]
@[simp] theorem now_settleMe (s : State) : now (settleMe s) = now s := rfl
theorem settleMe_eq (s : State) : settleMe s = putWarp s s.cur.warp (issuing s) := rfl

theorem stage1_settleMe (s : State) : stage1 (settleMe s) = stage1 s := by
  have h : (me (settleMe s)).native = (me s).native := by simp [issuing]
  unfold stage1; rw [h]; rfl

/-! ### The checks -/

/-- No cause is lowest of none. -/
theorem lowest_nil : lowest [] = none := rfl

/-- What stages 1 to 3 let through takes its effect, every write due by the issue having taken place. -/
theorem checked_clear (s : State) (ban : Ban) (causes : List (Nat × Word)) (eff : State → State)
    (h : clear s ban causes = true) : checked s ban causes eff = eff (settleMe s) := by
  simp only [clear, Bool.and_eq_true, List.isEmpty_iff] at h
  obtain ⟨⟨h1, h2⟩, h3⟩ := h
  simp only [checked, stage1_settleMe, h1, h2, List.append_nil, lowest_nil, settleMe_cur]
  by_cases hh : s.cur.inHandler = true
  · simp only [hh, if_true, Bool.not_eq_true'] at h3
    simp [hh, h3]
  · simp only [hh, Bool.false_eq_true, if_false, Bool.or_eq_true, Bool.not_eq_true', decide_eq_true_eq] at h3
    simp only [hh, Bool.false_eq_true, if_false, me_settleMe, issuing, txLanes_settle]
    rcases h3 with h3 | h3
    · simp [h3]
    · simp [h3]

/-- What stages 1 to 3 let through of a uniform instruction takes its effect in the whole run. -/
theorem checkedU_clear (s : State) (ban : Ban) (causes : List (Nat × Word)) (eff : State → State)
    (h : clear s ban causes = true) : checkedU s ban causes eff = eff (settleMe s) := by
  simp [checkedU, checked_clear s ban causes _ h]

/-! ### Lanes -/

theorem laneIn_and_not (pcs : List PcEntry) (l : Nat) (q : Word → Option Park → Prop) :
    (∀ e ∈ pcs, bit e.mask l = true → q e.pc e.park) ↔ ¬ laneIn (fun a b => ¬ q a b) l pcs := by
  simp only [laneIn, not_exists, not_and, Classical.not_not]

/-- Lanes that end at one place, held as given, stand there, and the others where they stood. -/
theorem runMoves_of (s t : State) (pc : Word) (park : Option Park) (hold : Option Nat)
    (h : ∀ q l, laneIn q l (runsOf (me t)) ↔
      if bit s.cur.mask l then (∃ e ∈ runsOf (me s), bit e.mask l = true) ∧ q pc park else laneIn q l (runsOf (me s)))
    (hh : ∀ l, heldBy (me t) l = if bit s.cur.mask l then hold else heldBy (me s) l) :
    runMoves s t pc park hold := by
  constructor
  · intro l hl hin
    refine ⟨?_, ?_, ?_⟩
    · have h := (h (fun _ _ => True) l).2
      simp only [hl, if_true] at h
      obtain ⟨e, he, hb, _⟩ := h ⟨hin, trivial⟩
      exact ⟨e, he, hb⟩
    · rw [hh, hl, if_pos rfl]
    · refine (laneIn_and_not _ _ (fun a b => a = pc ∧ b = park)).2 ?_
      rw [h]
      simp [hl]
  · intro l hl
    refine ⟨by rw [hh, hl]; simp, fun a b => ?_⟩
    have h := h (fun x y => x = a ∧ y = b) l
    simp only [hl, Bool.false_eq_true, if_false] at h
    exact h

/-- Lanes that go to an address stand there, held by nothing, and the others where they stood. -/
theorem runMoves_goto (s t : State) (m pc : Word) (w : Warp) (hm : m = s.cur.mask) (hw : runsOf w = runsOf (me s))
    (hh : holdsOf w = holdsOf (me s)) (ht : runsOf (me t) = runsOf (goto m pc w)) (hg : holdsOf (me t) = holdsOf (goto m pc w)) :
    runMoves s t pc none none := by
  refine runMoves_of s t pc none none (fun q l => ?_) fun l => ?_
  · rw [ht, laneIn_goto, hw, hm]
  · have h : heldBy (me t) l = heldBy (goto m pc w) l := by unfold heldBy; rw [hg]
    have h' : heldBy w l = heldBy (me s) l := by unfold heldBy; rw [hh]
    rw [h, goto, heldBy_gotoPark, h', hm]

/-! ### Completion -/

/-- The undo log of the issuing warp is all that an entry of it changes. -/
theorem undoAppend_setMe (s : State) (w : Warp) (ws : List PWrite) (push seed : Bool) :
    ∃ u b, undoAppend (setMe s w) ws push seed = setMe s { w with undo := u, undoLost := b } := by
  refine ⟨(me (undoAppend (setMe s w) ws push seed)).undo, (me (undoAppend (setMe s w) ws push seed)).undoLost, ?_⟩
  by_cases h : undoOn (myCtx (setMe s w)) = true
  · simp only [undoAppend, h, me_setMe, setMe_setMe, Bool.not_true, Bool.false_eq_true, if_false]
  · simp only [undoAppend, h, me_setMe, Bool.not_eq_true', if_true]

@[simp] theorem undoClear_setMe (s : State) (w : Warp) :
    undoClear (setMe s w) = setMe s { w with undo := [], undoLost := true } := by simp [undoClear]

/-- A change of the runs keeps registers and pending writes. -/
@[simp] theorem goto_v (m pc : Word) (w : Warp) : (goto m pc w).v = w.v := by rw [goto, gotoPark_eq]
@[simp] theorem goto_p (m pc : Word) (w : Warp) : (goto m pc w).p = w.p := by rw [goto, gotoPark_eq]
@[simp] theorem goto_g (m pc : Word) (w : Warp) : (goto m pc w).g = w.g := by rw [goto, gotoPark_eq]
@[simp] theorem goto_q (m pc : Word) (w : Warp) : (goto m pc w).q = w.q := by rw [goto, gotoPark_eq]
@[simp] theorem goto_pend (m pc : Word) (w : Warp) : (goto m pc w).pend = w.pend := by rw [goto, gotoPark_eq]
@[simp] theorem goto_latches (m pc : Word) (w : Warp) : (goto m pc w).latches = w.latches := by rw [goto, gotoPark_eq]
@[simp] theorem goto_flags (m pc : Word) (w : Warp) : (goto m pc w).flags = w.flags := by rw [goto, gotoPark_eq]

/-- A push changes the latches alone. -/
theorem pushLatch_eq (w : Warp) (t lat : Nat) (vals : List Word) (keep : Word) :
    pushLatch w t lat vals keep = { w with latches := (pushLatch w t lat vals keep).latches } := by
  unfold pushLatch; split <;> rfl

/-- Equal files read equal at every time when the same writes are under way. -/
theorem settle_regs_congr (t : Nat) (a b : Warp) (h : sameRegs a b) (hp : a.pend = b.pend) :
    sameRegs (settle t a) (settle t b) := by
  simp only [settle, hp]
  apply sameRegs_writes
  exact h

/-- What a completing instruction leaves in its warp but the runs: its writes under way, its push, its seed. -/
def doneWarp (s : State) (w : Warp) (ws : List PWrite) (push : Option (List Word)) (lat : Nat) (seed : Option Word) (m : Word)
    (u : List Undo) (b : Bool) : Warp :=
  let w := addPend { w with undo := u, undoLost := b } (now s + lat) ws
  let w := match push with
    | none => w
    | some vals => pushLatch w (now s) lat vals (s.cur.mask &&& ~~~m)
  match seed with
    | none => w
    | some x => { w with seed := x }

/-- EVERYTHING THAT A COMPLETION DOES: it changes the issuing warp alone. -/
theorem retireTo_setMe (s : State) (w : Warp) (ws : List PWrite) (push : Option (List Word)) (lat : Nat) (seed : Option Word)
    (m pc : Word) :
    ∃ u b, retireTo (setMe s w) ws push lat seed m pc = setMe s (goto m pc (doneWarp s w ws push lat seed m u b)) := by
  obtain ⟨u, b, h⟩ := undoAppend_setMe s w ws push.isSome seed.isSome
  refine ⟨u, b, ?_⟩
  unfold retireTo
  rw [h]
  cases push <;> cases seed <;> simp only [goLanes, doneWarp, me_setMe, now_setMe, setMe_setMe, setMe_cur]

theorem doneWarp_regs (s : State) (w : Warp) (ws : List PWrite) (push : Option (List Word)) (lat : Nat) (seed : Option Word)
    (m : Word) (u : List Undo) (b : Bool) :
    sameRegs (doneWarp s w ws push lat seed m u b) w
      ∧ (doneWarp s w ws push lat seed m u b).pend = (addPend w (now s + lat) ws).pend := by
  unfold doneWarp
  cases push <;> cases seed <;> simp only [] <;> (try rw [pushLatch_eq]) <;> exact ⟨⟨rfl, rfl, rfl, rfl⟩, rfl⟩

/-- The registers of a warp that has completed an instruction, at every time, are those with its writes put in. -/
theorem settle_doneWarp (s : State) (w : Warp) (ws : List PWrite) (push : Option (List Word)) (lat : Nat) (seed : Option Word)
    (m pc : Word) (u : List Undo) (b : Bool) (t : Nat) :
    sameRegs (settle t (goto m pc (doneWarp s w ws push lat seed m u b))) (settle t (addPend w (now s + lat) ws)) := by
  obtain ⟨h, hp⟩ := doneWarp_regs s w ws push lat seed m u b
  apply settle_regs_congr
  · exact ⟨by rw [goto_v, h.1]; rfl, by rw [goto_p, h.2.1]; rfl, by rw [goto_g, h.2.2.1]; rfl, by rw [goto_q, h.2.2.2]; rfl⟩
  · rw [goto_pend, hp]

theorem runsOf_doneWarp (s : State) (w : Warp) (ws : List PWrite) (push : Option (List Word)) (lat : Nat) (seed : Option Word)
    (m : Word) (u : List Undo) (b : Bool) : runsOf (doneWarp s w ws push lat seed m u b) = runsOf w := by
  unfold doneWarp
  cases push <;> cases seed <;> simp only [] <;> (try rw [pushLatch_eq]) <;> rfl

theorem holdsOf_doneWarp (s : State) (w : Warp) (ws : List PWrite) (push : Option (List Word)) (lat : Nat) (seed : Option Word)
    (m : Word) (u : List Undo) (b : Bool) : holdsOf (doneWarp s w ws push lat seed m u b) = holdsOf w := by
  unfold doneWarp
  cases push <;> cases seed <;> simp only [] <;> (try rw [pushLatch_eq]) <;> rfl

theorem sameRest_doneWarp (s : State) (w : Warp) (ws : List PWrite) (push : Option (List Word)) (lat : Nat) (seed : Option Word)
    (m pc : Word) (u : List Undo) (b : Bool) : sameRest w (goto m pc (doneWarp s w ws push lat seed m u b)) := by
  unfold sameRest
  rw [goto, gotoPark_eq]
  unfold doneWarp
  cases push <;> cases seed <;> simp only [] <;> (try rw [pushLatch_eq]) <;> rfl

theorem vreg_congr {a b : Warp} (h : sameRegs a b) (r l : Nat) : vreg a r l = vreg b r l := by simp [vreg, vrow, h.1]
theorem prow_congr {a b : Warp} (h : sameRegs a b) (r : Nat) : prow a r = prow b r := by simp [prow, h.2.1]
theorem greg_congr {a b : Warp} (h : sameRegs a b) (r : Nat) : greg a r = greg b r := by simp [greg, h.2.2.1]
theorem qreg_congr {a b : Warp} (h : sameRegs a b) (r : Nat) : qreg a r = qreg b r := by simp [qreg, h.2.2.2]

end Sys2Proof.Machine
end

