-- ==== Sys2Proof/Laws/Writes.lean ====
section
/-!
SUPPORT. Laws of writes under way (R437): what a register reads at each time once writes have been put in.
-/
namespace Sys2Proof.Machine
open Sys2Proof

/-- Reading q(r) after a write of any q. -/
theorem qreg_setQ_lt (w : Warp) (r : Nat) (x : Bool) (q : Nat) (hq : q < 16) :
    qreg (setQ w r x) q = if q = r then x else qreg w q := by
  by_cases hr : r < 16
  · exact qreg_setQ w r x q hr
  · have hne : q ≠ r := by omega
    have hm : ∀ k, k < 16 → (BitVec.ofNat 16 ((2 ^ 1 - 1) * 2 ^ r)).getLsbD k = false := by
      intro k hk
      simp only [BitVec.getLsbD_ofNat]
      rw [show (2 ^ 1 - 1) * 2 ^ r = 2 ^ r by omega, Nat.testBit_two_pow_of_ne (by omega)]; simp
    have hx : ∀ k, k < 16 → (BitVec.ofNat 16 ((b2n x % 2 ^ 1) * 2 ^ r)).getLsbD k = false := by
      intro k hk
      cases x
      · simp [b2n]
      · have := hm k hk; simpa [b2n] using this
    simp only [qreg, setQ, setBit, setFld, bit, BitVec.getLsbD_or, BitVec.getLsbD_and, BitVec.getLsbD_not, hm q hq, hx q hq]
    simp [hne, hq]

theorem qreg_applyWrite_lt (w : Warp) (x : PWrite) (r : Nat) (h : r < 16) :
    qreg (applyWrite w x) r = qUpd r (qreg w r) x := by
  cases x <;> simp [applyWrite, qUpd, qreg_setQ_lt, h]

theorem qreg_writes (xs : List Pend) (w : Warp) (r : Nat) (h : r < 16) :
    qreg (xs.foldl (fun w x => applyWrite w x.w) w) r = xs.foldl (fun o x => qUpd r o x.w) (qreg w r) := by
  induction xs generalizing w with
  | nil => rfl
  | cons x xs ih => simp only [List.foldl_cons, ih, qreg_applyWrite_lt _ _ _ h]

/-! ### A register over time -/

/-- The writes of a list due by a time, folded over a value. -/
def foldBy {β : Type} (f : β → PWrite → β) (t : Nat) (xs : List Pend) (b : β) : β :=
  (xs.filter fun x => decide (x.due ≤ t)).foldl (fun o x => f o x.w) b

/-- Writes put one by one into a list. -/
def putIn (xs : List Pend) (l : List Pend) : List Pend := xs.foldl (fun p y => insertPend y p) l

theorem addPend_pend (w : Warp) (t : Nat) (ws : List PWrite) : (addPend w t ws).pend = putIn (landAt t ws) w.pend := by
  simp only [addPend, putIn, landAt, List.foldl_map]

theorem putIn_sorted (xs l : List Pend) (h : PendSorted l) : PendSorted (putIn xs l) := by
  induction xs generalizing l with
  | nil => exact h
  | cons x xs ih => exact ih _ (insertPend_sorted x l h)

theorem mem_putIn (x : Pend) (xs l : List Pend) : x ∈ putIn xs l ↔ x ∈ xs ∨ x ∈ l := by
  induction xs generalizing l with
  | nil => simp [putIn]
  | cons y ys ih =>
    show x ∈ putIn ys (insertPend y l) ↔ _
    rw [ih, mem_insertPend]; simp only [List.mem_cons]
    constructor
    · rintro (h | h | h) <;> simp [h]
    · rintro ((h | h) | h) <;> simp [h]

theorem foldBy_skip {β : Type} (f : β → PWrite → β) (t : Nat) (xs l : List Pend) (b : β)
    (h : ∀ x ∈ xs, t < x.due ∨ ∀ o, f o x.w = o) : foldBy f t (putIn xs l) b = foldBy f t l b := by
  induction xs generalizing l with
  | nil => rfl
  | cons x xs ih =>
    show foldBy f t (putIn xs (insertPend x l)) b = _
    rw [ih _ fun y hy => h y (List.mem_cons_of_mem _ hy)]
    rcases h x List.mem_cons_self with hx | hx
    · simp only [foldBy, filter_insertPend_before x l t hx]
    · exact foldl_insertPend_skip (fun o y => f o y.w) x hx l b _

/-- A write that no later one of the same time or before disturbs is the last seen at its time. -/
theorem foldBy_hit {β : Type} (f : β → PWrite → β) (x : Pend) (pre post l : List Pend) (b : β) (hl : PendSorted l)
    (h : ∀ y ∈ post, x.due < y.due ∨ ∀ o, f o y.w = o) :
    ∃ o, foldBy f x.due (putIn (pre ++ x :: post) l) b = f o x.w := by
  have h1 : putIn (pre ++ x :: post) l = putIn post (insertPend x (putIn pre l)) := by simp [putIn]
  rw [h1, foldBy_skip f x.due post _ b h]
  refine ⟨foldBy f x.due (putIn pre l) b, ?_⟩
  simp only [foldBy, filter_insertPend x _ (putIn_sorted pre l hl), List.foldl_append, List.foldl_cons, List.foldl_nil]

/-- Writes due by an earlier time, then those due by a later one, are those due by the later one. -/
theorem foldBy_split {β : Type} (f : β → PWrite → β) (t u : Nat) (h : t ≤ u) (l : List Pend) (b : β) (hl : PendSorted l) :
    foldBy f u (l.filter fun x => decide (t < x.due)) (foldBy f t l b) = foldBy f u l b := by
  induction l generalizing b with
  | nil => rfl
  | cons x xs ih =>
    simp only [PendSorted, List.pairwise_cons] at hl
    by_cases hx : x.due ≤ t
    · have h1 : ¬ t < x.due := by omega
      have h2 : x.due ≤ u := by omega
      simp only [foldBy, List.filter_cons, hx, h1, h2, decide_true, decide_false, if_true, Bool.false_eq_true, if_false,
        List.foldl_cons] at ih ⊢
      exact ih _ hl.2
    · have h1 : t < x.due := by omega
      have hnone : xs.filter (fun x => decide (x.due ≤ t)) = [] := by
        rw [List.filter_eq_nil_iff]; intro z hz; have := hl.1 z hz; simp; omega
      have hall : xs.filter (fun x => decide (t < x.due)) = xs := by
        rw [List.filter_eq_self]; intro z hz; have := hl.1 z hz; simp; omega
      simp only [foldBy, List.filter_cons, hx, h1, decide_true, decide_false, if_true, Bool.false_eq_true, if_false, hnone, hall,
        List.foldl_nil]

theorem vAt_eq (w : Warp) (t r l : Nat) (h : l < 64) : vAt w t r l = foldBy (vUpd r l) t w.pend (vreg w r l) := by
  simp only [vAt, settle, vreg_writes _ _ _ _ h]; rfl
theorem pAt_eq (w : Warp) (t r l : Nat) : pAt w t r l = foldBy (pUpd r l) t w.pend (bit (prow w r) l) := by
  simp only [pAt, settle, prow_writes]; rfl
theorem gAt_eq (w : Warp) (t r : Nat) : gAt w t r = foldBy (gUpd r) t w.pend (greg w r) := by
  simp only [gAt, settle, greg_writes]; rfl
theorem qAt_eq (w : Warp) (t r : Nat) (h : r < 16) : qAt w t r = foldBy (qUpd r) t w.pend (qreg w r) := by
  simp only [qAt, settle, qreg_writes _ _ _ h]; rfl

/-- Registers and writes under way agree. -/
def sameFile (a b : Warp) : Prop := sameRegs a b ∧ a.pend = b.pend

theorem sameFile_at (a b : Warp) (h : sameFile a b) (t : Nat) : sameAt a b t := by
  obtain ⟨⟨h1, h2, h3, h4⟩, h5⟩ := h
  refine ⟨?_, ?_, ?_, ?_⟩
  · intro r l hl; rw [vAt_eq _ _ _ _ hl, vAt_eq _ _ _ _ hl]; simp only [vreg, vrow, h1, h5]
  · intro r l; rw [pAt_eq, pAt_eq]; simp only [prow, h2, h5]
  · intro r; rw [gAt_eq, gAt_eq]; simp only [greg, h3, h5]
  · intro r hr; rw [qAt_eq _ _ _ hr, qAt_eq _ _ _ hr]; simp only [qreg, h4, h5]

/-- Reading at a later time is the same once the writes of an earlier one have taken place. -/
theorem settle_at (a : Warp) (h : pendOk a) (t u : Nat) (htu : t ≤ u) : sameAt a (settle t a) u := by
  refine ⟨?_, ?_, ?_, ?_⟩
  · intro r l hl
    have := vAt_eq a t r l hl
    rw [vAt_eq _ _ _ _ hl, vAt_eq _ _ _ _ hl, settle_pend]
    rw [show vreg (settle t a) r l = _ from this]
    exact foldBy_split _ t u htu _ _ h
  · intro r l
    have := pAt_eq a t r l
    rw [pAt_eq, pAt_eq, settle_pend]
    rw [show bit (prow (settle t a) r) l = _ from this]
    exact foldBy_split _ t u htu _ _ h
  · intro r
    have := gAt_eq a t r
    rw [gAt_eq, gAt_eq, settle_pend]
    rw [show greg (settle t a) r = _ from this]
    exact foldBy_split _ t u htu _ _ h
  · intro r hr
    have := qAt_eq a t r hr
    rw [qAt_eq _ _ _ hr, qAt_eq _ _ _ hr, settle_pend]
    rw [show qreg (settle t a) r = _ from this]
    exact foldBy_split _ t u htu _ _ h

theorem vUpd_miss (r l : Nat) (x : PWrite) (h : hitsV r l x = false) (o : W32) : vUpd r l o x = o := by
  cases x <;> simp_all [hitsV, vUpd] <;> (intro h1 h2; subst h1) <;> simp_all
theorem pUpd_miss (r l : Nat) (x : PWrite) (h : hitsP r l x = false) (o : Bool) : pUpd r l o x = o := by
  cases x <;> simp_all [hitsP, pUpd] <;> (intro h1 h2 h3; subst h1) <;> simp_all
theorem gUpd_miss (r : Nat) (x : PWrite) (h : hitsG r x = false) (o : Word) : gUpd r o x = o := by
  cases x <;> simp_all [hitsG, gUpd] <;> exact fun h => absurd h.symm ‹_›
theorem qUpd_miss (r : Nat) (x : PWrite) (h : hitsQ r x = false) (o : Bool) : qUpd r o x = o := by
  cases x <;> simp_all [hitsQ, qUpd] <;> exact fun h => absurd h.symm ‹_›

/-- EVERYTHING THAT PUTTING WRITES IN DOES to what registers read. -/
theorem wrote_putIn (a b : Warp) (t0 : Nat) (xs : List Pend) (ha : pendOk a)
    (hr : sameRegs b (settle t0 a)) (hp : b.pend = putIn xs (settle t0 a).pend) (hx : xs.Pairwise apart) :
    wrote a b t0 xs := by
  have hs : PendSorted (settle t0 a).pend := settle_sorted t0 a ha
  obtain ⟨h1, h2, h3, h4⟩ := hr
  have hv : ∀ r l, vreg b r l = vreg (settle t0 a) r l := fun r l => by simp only [vreg, vrow, h1]
  have hpr : ∀ r, prow b r = prow (settle t0 a) r := fun r => by simp only [prow, h2]
  have hg : ∀ r, greg b r = greg (settle t0 a) r := fun r => by simp only [greg, h3]
  have hq : ∀ r, qreg b r = qreg (settle t0 a) r := fun r => by simp only [qreg, h4]
  have skipV : ∀ t r l, l < 64 → t0 ≤ t → (∀ x ∈ xs, t < x.due ∨ hitsV r l x.w = false) → vAt b t r l = vAt a t r l := by
    intro t r l hl ht h
    rw [← (settle_at a ha t0 t ht).1 r l hl, vAt_eq _ _ _ _ hl, vAt_eq _ _ _ _ hl, hp, hv]
    exact foldBy_skip _ t xs _ _ fun x hx => (h x hx).imp id fun h o => vUpd_miss r l x.w h o
  have skipP : ∀ t r l, t0 ≤ t → (∀ x ∈ xs, t < x.due ∨ hitsP r l x.w = false) → pAt b t r l = pAt a t r l := by
    intro t r l ht h
    rw [← (settle_at a ha t0 t ht).2.1 r l, pAt_eq, pAt_eq, hp, hpr]
    exact foldBy_skip _ t xs _ _ fun x hx => (h x hx).imp id fun h o => pUpd_miss r l x.w h o
  have skipG : ∀ t r, t0 ≤ t → (∀ x ∈ xs, t < x.due ∨ hitsG r x.w = false) → gAt b t r = gAt a t r := by
    intro t r ht h
    rw [← (settle_at a ha t0 t ht).2.2.1 r, gAt_eq, gAt_eq, hp, hg]
    exact foldBy_skip _ t xs _ _ fun x hx => (h x hx).imp id fun h o => gUpd_miss r x.w h o
  have skipQ : ∀ t r, r < 16 → t0 ≤ t → (∀ x ∈ xs, t < x.due ∨ hitsQ r x.w = false) → qAt b t r = qAt a t r := by
    intro t r hr ht h
    rw [← (settle_at a ha t0 t ht).2.2.2 r hr, qAt_eq _ _ _ hr, qAt_eq _ _ _ hr, hp, hq]
    exact foldBy_skip _ t xs _ _ fun x hx => (h x hx).imp id fun h o => qUpd_miss r x.w h o
  refine ⟨?_, ?_, ?_⟩
  · intro t ht hlt
    exact ⟨fun r l hl => skipV t r l hl ht fun x hx => .inl (hlt x hx), fun r l => skipP t r l ht fun x hx => .inl (hlt x hx),
      fun r => skipG t r ht fun x hx => .inl (hlt x hx), fun r hr => skipQ t r hr ht fun x hx => .inl (hlt x hx)⟩
  · intro x hxm
    obtain ⟨pre, post, rfl⟩ := List.append_of_mem hxm
    have hpost : ∀ y ∈ post, apart x y := by
      have := (List.pairwise_append.1 hx).2.1
      exact (List.pairwise_cons.1 this).1
    obtain ⟨due, w⟩ := x
    cases w with
    | v r m row =>
      intro l hl hb
      obtain ⟨o, ho⟩ := foldBy_hit (vUpd r l) ⟨due, .v r m row⟩ pre post (settle t0 a).pend (vreg b r l) hs fun y hy =>
        (hpost y hy).imp id fun h o => vUpd_miss r l y.w (h.1 r l (by simp [hitsV, hb])) o
      show vAt b due r l = _
      rw [vAt_eq _ _ _ _ hl, hp]
      exact ho.trans (by simp [vUpd, hb])
    | p r m v =>
      intro hr l hb
      obtain ⟨o, ho⟩ := foldBy_hit (pUpd r l) ⟨due, .p r m v⟩ pre post (settle t0 a).pend (bit (prow b r) l) hs fun y hy =>
        (hpost y hy).imp id fun h o => pUpd_miss r l y.w (h.2.1 r l (by simp [hitsP, hb, hr])) o
      show pAt b due r l = _
      rw [pAt_eq, hp]
      exact ho.trans (by simp [pUpd, hb, hr])
    | g r v =>
      obtain ⟨o, ho⟩ := foldBy_hit (gUpd r) ⟨due, .g r v⟩ pre post (settle t0 a).pend (greg b r) hs fun y hy =>
        (hpost y hy).imp id fun h o => gUpd_miss r y.w (h.2.2.1 r (by simp [hitsG])) o
      show gAt b due r = _
      rw [gAt_eq, hp]
      exact ho.trans (by simp [gUpd])
    | q r v =>
      intro hr
      obtain ⟨o, ho⟩ := foldBy_hit (qUpd r) ⟨due, .q r v⟩ pre post (settle t0 a).pend (qreg b r) hs fun y hy =>
        (hpost y hy).imp id fun h o => qUpd_miss r y.w (h.2.2.2 r (by simp [hitsQ])) o
      show qAt b due r = _
      rw [qAt_eq _ _ _ hr, hp]
      exact ho.trans (by simp [qUpd])
  · intro t ht
    exact ⟨fun r l hl h => skipV t r l hl ht fun x hx => .inr (h x hx), fun r l h => skipP t r l ht fun x hx => .inr (h x hx),
      fun r h => skipG t r ht fun x hx => .inr (h x hx), fun r hr h => skipQ t r hr ht fun x hx => .inr (h x hx)⟩

/-- No writes: a warp whose registers and writes under way are as they were. -/
theorem wrote_nil (a b : Warp) (t0 : Nat) (ha : pendOk a) (h : sameFile b (settle t0 a)) : wrote a b t0 [] :=
  wrote_putIn a b t0 [] ha h.1 h.2 List.Pairwise.nil

/-- The writes of a lane instruction do not hide each other. -/
theorem laneWrites_apart (x : LaneOp) (act : Word) (r : LaneOut) (t : Nat) : (landAt t (laneWrites x act r)).Pairwise apart := by
  simp only [landAt, laneWrites]
  split
  · simp
  · split
    · simp
    · rw [List.map_map, List.pairwise_map]
      refine List.Pairwise.imp ?_ (List.pairwise_lt_range (n := x.n))
      intro i j hij
      refine .inr ⟨?_, ?_, ?_, ?_⟩
      · intro q l h
        simp only [Function.comp, hitsV, Bool.and_eq_true, decide_eq_true_eq] at h
        simp only [Function.comp, hitsV, Bool.and_eq_false_iff, decide_eq_false_iff_not]
        exact .inl (by omega)
      all_goals simp [hitsP, hitsG, hitsQ]

end Sys2Proof.Machine
end

