-- ==== Sys2Proof/Laws/Complete.lean ====
section
/-!
SUPPORT. Laws of completion: everything that the common shapes of instruction do when stages 1 to 3 let them through.
-/
namespace Sys2Proof.Machine
open Sys2Proof

theorem settleMe_setMe (s : State) : settleMe s = setMe s (issuing s) := rfl
@[simp] theorem causeMask_nil : causeMask [] = 0#64 := rfl
theorem onlyMe_setMe (s : State) (w : Warp) : onlyMe s (setMe s w) := by
  show setMe s w = putWarp s s.cur.warp (me (setMe s w)); rw [me_setMe]; rfl
@[simp] theorem and_not_zero (m : Word) : m &&& ~~~(0#64) = m := by
  have : ~~~(0#64) = BitVec.allOnes 64 := by decide
  rw [this, BitVec.and_allOnes]
@[simp] theorem and_not_self (m : Word) : m &&& ~~~m = 0#64 := by
  apply BitVec.eq_of_getLsbD_eq; intro i hi; simp

theorem latches_doneWarp (s : State) (w : Warp) (ws : List PWrite) (push : Option (List Word)) (lat : Nat) (seed : Option Word)
    (u : List Undo) (b : Bool) :
    (doneWarp s w ws push lat seed s.cur.mask u b).latches = pushed w (now s) lat push
      ∧ (doneWarp s w ws push lat seed s.cur.mask u b).seed = seed.getD w.seed := by
  unfold doneWarp
  cases push <;> cases seed <;> simp [pushed, pushLatch, addPend]

@[simp] theorem goto_seed (m pc : Word) (w : Warp) : (goto m pc w).seed = w.seed := by rw [goto, gotoPark_eq]

theorem sameRest_settle (t : Nat) (a b : Warp) (h : sameRest (settle t a) b) : sameRest a b := by
  unfold sameRest at h ⊢
  rw [h, settle_eq]

/-- A COMPLETION IN EVERY LANE OF THE RUN after stages 1 to 3. -/
theorem completes_retireTo (s : State) (ws : List PWrite) (push : Option (List Word)) (lat : Nat) (seed : Option Word) (pc : Word)
    (hp : pendOk (me s)) (hw : (landAt (now s + lat) ws).Pairwise apart) :
    completes s (retireTo (settleMe s) ws push lat seed s.cur.mask pc) pc (landAt (now s + lat) ws)
      ∧ (me (retireTo (settleMe s) ws push lat seed s.cur.mask pc)).latches = pushed (issuing s) (now s) lat push
      ∧ (me (retireTo (settleMe s) ws push lat seed s.cur.mask pc)).seed = seed.getD (me s).seed := by
  rw [settleMe_setMe]
  obtain ⟨u, b, h⟩ := retireTo_setMe s (issuing s) ws push lat seed s.cur.mask pc
  rw [h]
  simp only [completes, passes, me_setMe, goto_latches, goto_seed]
  refine ⟨⟨onlyMe_setMe _ _, ?_, ?_, ?_⟩, ?_, ?_⟩
  · exact sameRest_settle (now s) _ _ (sameRest_doneWarp s (issuing s) ws push lat seed s.cur.mask pc u b)
  · refine runMoves_goto s _ s.cur.mask pc (doneWarp s (issuing s) ws push lat seed s.cur.mask u b) rfl ?_ ?_ (by simp) (by simp)
    · rw [runsOf_doneWarp]; exact runsOf_settle _ _
    · rw [holdsOf_doneWarp]; exact holdsOf_settle _ _
  · refine wrote_putIn _ _ _ _ hp ?_ ?_ hw
    · obtain ⟨⟨h1, h2, h3, h4⟩, _⟩ := doneWarp_regs s (issuing s) ws push lat seed s.cur.mask u b
      exact ⟨by rw [goto_v]; exact h1, by rw [goto_p]; exact h2, by rw [goto_g]; exact h3, by rw [goto_q]; exact h4⟩
    · rw [goto_pend, (doneWarp_regs s (issuing s) ws push lat seed s.cur.mask u b).2, addPend_pend]; rfl
  · exact (latches_doneWarp s (issuing s) ws push lat seed u b).1
  · rw [(latches_doneWarp s (issuing s) ws push lat seed u b).2]; simp [issuing]

/-! ### The end of a claim -/

/-- Writes take place on a warp whose claim ends as on the warp before. -/
theorem settle_spendTokens (t : Nat) (w : Warp) : settle t (spendTokens w) = spendTokens (settle t w) := by
  have hone : ∀ (a : Warp) (x : PWrite), applyWrite (spendTokens a) x = spendTokens (applyWrite a x) := by
    intro a x; cases x <;> simp [applyWrite, setVrow, setProw, setG, setQ, spendTokens, vrow] <;> split <;> rfl
  have hall : ∀ (xs : List Pend) (a : Warp),
      xs.foldl (fun w x => applyWrite w x.w) (spendTokens a) = spendTokens (xs.foldl (fun w x => applyWrite w x.w) a) := by
    intro xs; induction xs with
    | nil => intro a; rfl
    | cons x xs ih => intro a; simp only [List.foldl_cons, hone, ih]
  exact hall (w.pend.filter fun x => decide (x.due ≤ t)) { w with pend := w.pend.filter fun x => decide (t < x.due) }

@[simp] theorem me_spendMe (s : State) : me (spendMe s) = spendTokens (me s) := by simp [spendMe]
theorem spendMe_settleMe (s : State) : spendMe (settleMe s) = settleMe (spendMe s) := by
  have h : settle (now s) (spendTokens (me s)) = spendTokens (issuing s) := settle_spendTokens _ _
  simp only [spendMe, settleMe_setMe, me_setMe, setMe_setMe, issuing, now_setMe]
  rw [h]; rfl

@[simp] theorem me_sfuTakes (s : State) : me (sfuTakes s) = spendTokens (me s) := by simp [sfuTakes]
theorem sfuTakes_setMe (s : State) (w : Warp) :
    sfuTakes (setMe s w) = setMe (putCore s s.cur.core { coreAt s s.cur.core with sfuUntil := now s + 4 }) (spendTokens w) := by
  unfold sfuTakes
  rw [me_setMe]
  exact setMe_setMe (putCore s s.cur.core { coreAt s s.cur.core with sfuUntil := now s + 4 }) w _
theorem sfuTakes_settleMe (s : State) : sfuTakes (settleMe s) = settleMe (sfuTakes s) := by
  have h : settle (now (sfuTakes s)) (me (sfuTakes s)) = spendTokens (issuing s) := by
    rw [me_sfuTakes]; exact settle_spendTokens _ _
  have h2 : settleMe (sfuTakes s) = setMe (sfuTakes s) (spendTokens (issuing s)) := by rw [settleMe, h]
  rw [h2, settleMe_setMe, sfuTakes_setMe, sfuTakes, setMe_setMe]

/-- EVERYTHING THAT A FIXED-LATENCY LANE INSTRUCTION DOES (R207, R81, R437) when no lane meets a cause of stage 4, after what else
its issue does to the state. -/
theorem completes_runLaneVia (s s' : State) (n : Nat) (x : LaneOp) (pre : State → State)
    (hpre : pre (settleMe s) = settleMe s') (hcur : s'.cur = s.cur)
    (hc : clear s {} (regCauses s (laneVops x) ++ x.more (me s)) = true)
    (hb : badLanes (issuing s') x (activeLanes s' x) = []) (hp : pendOk (me s')) :
    completes s' (runLaneVia s n x pre) (nextPc s.cur n)
        (landAt (now s' + x.lat) (laneWrites x (activeLanes s' x) (x.val (issuing s') (activeLanes s' x))))
      ∧ (me (runLaneVia s n x pre)).latches
          = pushed (issuing s') (now s') x.lat (lanePush (issuing s') x (activeLanes s' x) (x.val (issuing s') (activeLanes s' x)))
      ∧ (me (runLaneVia s n x pre)).seed = (x.val (issuing s') (activeLanes s' x)).seed.getD (me s').seed := by
  have h : runLaneVia s n x pre = retireTo (settleMe s') (laneWrites x (activeLanes s' x) (x.val (issuing s') (activeLanes s' x)))
      (lanePush (issuing s') x (activeLanes s' x) (x.val (issuing s') (activeLanes s' x))) x.lat
      (x.val (issuing s') (activeLanes s' x)).seed s'.cur.mask (nextPc s.cur n) := by
    unfold runLaneVia
    rw [checked_clear s {} _ _ hc, hpre]
    have hact : s.cur.mask &&& govMask (issuing s') x.gov = activeLanes s' x := by rw [← hcur]; rfl
    simp only [me_settleMe, settleMe_cur, hact, hb, causeMask_nil, and_not_zero, faultLanes, if_true, retire, hcur]
  rw [h]
  exact completes_retireTo s' _ _ _ _ _ hp (laneWrites_apart _ _ _ _)

/-- EVERYTHING THAT A FIXED-LATENCY LANE INSTRUCTION DOES (R207, R81, R437) when no lane meets a cause of stage 4. -/
theorem completes_runLane (s : State) (n : Nat) (x : LaneOp)
    (hc : clear s {} (regCauses s (laneVops x) ++ x.more (me s)) = true)
    (hb : badLanes (issuing s) x (activeLanes s x) = []) (hp : pendOk (me s)) :
    completes s (runLane s n x) (nextPc s.cur n)
        (landAt (now s + x.lat) (laneWrites x (activeLanes s x) (x.val (issuing s) (activeLanes s x))))
      ∧ (me (runLane s n x)).latches
          = pushed (issuing s) (now s) x.lat (lanePush (issuing s) x (activeLanes s x) (x.val (issuing s) (activeLanes s x)))
      ∧ (me (runLane s n x)).seed = (x.val (issuing s) (activeLanes s x)).seed.getD (me s).seed := by
  unfold runLane
  exact completes_runLaneVia s s n x (fun s => s) rfl rfl hc hb hp

/-- A single write, or none, hides nothing. -/
theorem one_apart (t : Nat) (w : PWrite) (b : Bool) : (landAt t (if b then [w] else [])).Pairwise apart := by
  cases b <;> simp [landAt]

/-- EVERYTHING THAT A FIXED-LATENCY UNIFORM INSTRUCTION DOES (R186, R437). -/
theorem completes_runUniform (s : State) (n : Nat) (cs : List (Nat × Word)) (holds : Warp → Bool) (lat : Nat)
    (w : State → PWrite) (hc : clear s {} cs = true) (hp : pendOk (me s)) :
    completes s (runUniform s n cs holds lat fun s => [w s]) (nextPc s.cur n)
        (landAt (now s + lat) (if holds (issuing s) then [w (settleMe s)] else []))
      ∧ (me (runUniform s n cs holds lat fun s => [w s])).latches = (me s).latches
      ∧ (me (runUniform s n cs holds lat fun s => [w s])).seed = (me s).seed := by
  have h : runUniform s n cs holds lat (fun s => [w s])
      = retireTo (settleMe s) (if holds (issuing s) then [w (settleMe s)] else []) none lat none s.cur.mask (nextPc s.cur n) := by
    unfold runUniform
    rw [checked_clear s {} _ _ hc]
    simp only [me_settleMe, settleMe_cur, retire]
  rw [h]
  obtain ⟨h1, h2, h3⟩ := completes_retireTo s (if holds (issuing s) then [w (settleMe s)] else []) none lat none
    (nextPc s.cur n) hp (one_apart _ _ _)
  exact ⟨h1, by rw [h2]; simp [pushed, issuing], by rw [h3]; rfl⟩

/-- EVERYTHING THAT A UNIFORM BRANCH DOES (R193). -/
theorem completes_branchTo (s : State) (n : Nat) (w : PWrite) (b : Bool) (target : Option Word) (hp : pendOk (me s)) :
    completes s (branchTo (settleMe s) n (if b then [w] else []) target) (target.getD (nextPc s.cur n))
        (landAt (now s + 2) (if b then [w] else []))
      ∧ (me (branchTo (settleMe s) n (if b then [w] else []) target)).latches = (me s).latches
      ∧ (me (branchTo (settleMe s) n (if b then [w] else []) target)).seed = (me s).seed := by
  have h : branchTo (settleMe s) n (if b then [w] else []) target
      = retireTo (settleMe s) (if b then [w] else []) none 2 none s.cur.mask (target.getD (nextPc s.cur n)) := by
    cases target <;> simp [branchTo]
  rw [h]
  obtain ⟨h1, h2, h3⟩ := completes_retireTo s (if b then [w] else []) none 2 none
    (target.getD (nextPc s.cur n)) hp (one_apart _ _ _)
  exact ⟨h1, by rw [h2]; simp [pushed, issuing], by rw [h3]; rfl⟩

/-- A change of the runs, the latches, the seed or the undo log leaves what registers read. -/
theorem wrote_same (s : State) (b : Warp) (hp : pendOk (me s)) (hr : sameRegs b (issuing s)) (hq : b.pend = (issuing s).pend) :
    wrote (me s) b (now s) [] := wrote_putIn _ _ _ [] hp hr hq List.Pairwise.nil

/-- The undo log cleared, of a settled state. -/
theorem undoClear_settleMe (s : State) : undoClear (settleMe s) = setMe s { issuing s with undo := [], undoLost := true } := by
  rw [settleMe_setMe, undoClear_setMe]

@[simp] theorem parkRun_setMe (s : State) (w : Warp) (n : Nat) (m : Word) (p : Park) :
    parkRun (setMe s w) n m p = setMe s (gotoPark m (nextPc s.cur n) (some p) w) := by
  simp [parkRun]
@[simp] theorem holdRun_setMe (s : State) (w : Warp) (n : Nat) (m : Word) (id : Nat) :
    holdRun (setMe s w) n m id = setMe s (mapHolds (fun hs => hs ++ [(id, m)]) (goto m (nextPc s.cur n) w)) := by
  simp [holdRun, advance, goLanes]
@[simp] theorem advance_setMe (s : State) (w : Warp) (n : Nat) (m : Word) :
    advance (setMe s w) n m = setMe s (goto m (nextPc s.cur n) w) := by
  simp [advance, goLanes]

/-- A warp that differs from the issuing one in its runs, its undo log, its latches and its seed alone. -/
theorem passes_setMe (s : State) (w : Warp) (pc : Word) (park : Option Park) (hold : Option Nat) (hp : pendOk (me s))
    (hrest : sameRest (issuing s) w) (hreg : sameRegs w (issuing s)) (hpend : w.pend = (issuing s).pend)
    (hmove : runMoves s (setMe s w) pc park hold) : passes s (setMe s w) pc park hold [] := by
  refine ⟨onlyMe_setMe _ _, ?_, hmove, ?_⟩
  · rw [me_setMe]; exact sameRest_settle (now s) _ _ hrest
  · rw [me_setMe]; exact wrote_same s w hp hreg hpend

/-- What holds a lane once a request holds those of a mask that nothing held. -/
theorem heldBy_hold (m : Word) (id : Nat) (w : Warp) (l : Nat) (h : bit m l = true → heldBy w l = none) :
    heldBy (mapHolds (fun hs => hs ++ [(id, m)]) w) l = if bit m l then some id else heldBy w l := by
  simp only [heldBy, holdsOf_mapHolds, List.find?_append] at h ⊢
  cases hm : bit m l <;> cases hf : List.find? (fun h => bit h.2 l) (holdsOf w) <;> simp_all

/-- A run that goes on, parked or running, with no effect on registers. -/
theorem passes_gotoPark (s : State) (pc : Word) (p : Option Park) (hp : pendOk (me s)) (u : List Undo) (b : Bool) :
    passes s (setMe s (gotoPark s.cur.mask pc p { issuing s with undo := u, undoLost := b })) pc p none [] := by
  refine passes_setMe s _ _ _ _ hp ?_ ?_ ?_ ?_
  · unfold sameRest; rw [gotoPark_eq]
  · unfold sameRegs; rw [gotoPark_eq]; exact ⟨rfl, rfl, rfl, rfl⟩
  · rw [gotoPark_eq]
  · have hr : runsOf { issuing s with undo := u, undoLost := b } = runsOf (me s) := runsOf_settle _ _
    have hh : holdsOf { issuing s with undo := u, undoLost := b } = holdsOf (me s) := holdsOf_settle _ _
    refine runMoves_of s _ _ _ _ (fun q l => ?_) fun l => ?_
    · rw [me_setMe, laneIn_gotoPark, hr]
    · rw [me_setMe, heldBy_gotoPark]; unfold heldBy; rw [hh]

/-- A run that goes on with no effect on registers. -/
theorem passes_goto (s : State) (pc : Word) (hp : pendOk (me s)) (u : List Undo) (b : Bool) :
    passes s (setMe s (goto s.cur.mask pc { issuing s with undo := u, undoLost := b })) pc none none [] :=
  passes_gotoPark s pc none hp u b

/-- A run that goes on and waits there, held by a request. -/
theorem passes_holdRun (s : State) (n id : Nat) (hp : pendOk (me s)) :
    passes s (holdRun (undoClear (settleMe s)) n s.cur.mask id) (nextPc s.cur n) none (some id) [] := by
  rw [undoClear_settleMe, holdRun_setMe]
  have hr : runsOf { issuing s with undo := [], undoLost := true } = runsOf (me s) := runsOf_settle _ _
  have hh : holdsOf { issuing s with undo := [], undoLost := true } = holdsOf (me s) := holdsOf_settle _ _
  refine passes_setMe s _ _ _ _ hp ?_ ?_ ?_ ?_
  · unfold sameRest; rw [mapHolds_eq, goto, gotoPark_eq]
  · unfold sameRegs; rw [mapHolds_eq, goto, gotoPark_eq]; exact ⟨rfl, rfl, rfl, rfl⟩
  · rw [mapHolds_eq, goto, gotoPark_eq]
  · refine runMoves_of s _ _ _ _ (fun q l => ?_) fun l => ?_
    · rw [me_setMe, runsOf_mapHolds, laneIn_goto, hr]
    · rw [me_setMe, heldBy_hold]
      · rw [goto, heldBy_gotoPark]
        cases bit s.cur.mask l
        · simp only [Bool.false_eq_true, if_false]; unfold heldBy; rw [hh]
        · rfl
      · intro hl; rw [goto, heldBy_gotoPark, hl, if_pos rfl]

/-- A run that goes on and waits there, parked. -/
theorem passes_parkRun (s : State) (n : Nat) (p : Park) (hp : pendOk (me s)) :
    passes s (parkRun (undoClear (settleMe s)) n s.cur.mask p) (nextPc s.cur n) (some p) none [] := by
  rw [undoClear_settleMe, parkRun_setMe]
  exact passes_gotoPark s _ _ hp _ _

/-- A run that goes on, its undo log emptied. -/
theorem passes_advance (s : State) (n : Nat) (hp : pendOk (me s)) :
    passes s (advance (undoClear (settleMe s)) n s.cur.mask) (nextPc s.cur n) none none [] := by
  rw [undoClear_settleMe, advance_setMe]
  exact passes_goto s _ hp _ _

end Sys2Proof.Machine
end

