-- ==== Sys2Proof/Laws/Memory.lean ====
section
/-!
SUPPORT. Blocks of memory: a block written whole and a filter keep the canonical form, and what a byte reads as afterwards.
-/
namespace Sys2Proof.Machine
open Sys2Proof

/-- A filtered list keeps its lower bound. -/
theorem keysAbove_filter {α : Type} (m : List (Nat × α)) (p : Nat × α → Bool) (b : Nat) (h : keysAbove b m = true) :
    keysAbove b (m.filter p) = true := by
  induction m with
  | nil => rfl
  | cons c m ih =>
    simp only [keysAbove, Bool.and_eq_true, decide_eq_true_eq] at h
    rw [List.filter_cons]
    split
    · simpa [keysAbove, h.1] using ih h.2
    · exact ih h.2

/-- A filter keeps the canonical form. -/
theorem mapWf_filter {α : Type} [DecidableEq α] (d : α) (m : List (Nat × α)) (p : Nat × α → Bool) (h : mapWf d m = true) :
    mapWf d (m.filter p) = true := by
  induction m with
  | nil => rfl
  | cons c m ih =>
    simp only [mapWf, Bool.and_eq_true, decide_eq_true_eq] at h
    rw [List.filter_cons]
    split
    · simpa [mapWf, h.1.1, keysAbove_filter m p c.1 h.1.2] using ih h.2
    · exact ih h.2

/-- Memory with cells left out keeps its canonical form. -/
theorem filter_wf (m : Mem) (p : Host.Cell → Bool) (h : Memory.wf m = true) : Memory.wf (m.filter p) = true :=
  mapWf_filter _ m p h

/-- A lower bound of a list is one of each key. -/
theorem keysAbove_iff {α : Type} (m : List (Nat × α)) (b : Nat) : keysAbove b m = true ↔ ∀ c ∈ m, b < c.1 := by
  induction m with
  | nil => simp [keysAbove]
  | cons c m ih => simp [keysAbove, ih]

/-- Two lists in canonical form, the keys of one below those of the other, are so together. -/
theorem mapWf_append {α : Type} [DecidableEq α] (d : α) (m n : List (Nat × α)) (hm : mapWf d m = true) (hn : mapWf d n = true)
    (h : ∀ x ∈ m, ∀ y ∈ n, x.1 < y.1) : mapWf d (m ++ n) = true := by
  induction m with
  | nil => exact hn
  | cons c m ih =>
    simp only [mapWf, Bool.and_eq_true, decide_eq_true_eq] at hm
    simp only [List.cons_append, mapWf, Bool.and_eq_true, decide_eq_true_eq]
    refine ⟨⟨hm.1.1, ?_⟩, ih hm.2 fun x hx => h x (List.mem_cons_of_mem _ hx)⟩
    rw [keysAbove_iff] at hm ⊢
    intro y hy
    rcases List.mem_append.mp hy with hy | hy
    · exact hm.1.2 y hy
    · exact h c List.mem_cons_self y hy

/-- The cells of a byte string lie in its range. -/
theorem cellsFrom_range (a : Nat) (bs : List Byte) : ∀ c ∈ cellsFrom a bs, a ≤ c.1 ∧ c.1 < a + bs.length := by
  induction bs generalizing a with
  | nil => simp [cellsFrom]
  | cons b bs ih =>
    intro c hc
    have rest : ∀ c ∈ cellsFrom (a + 1) bs, a ≤ c.1 ∧ c.1 < a + (b :: bs).length := fun c hc => by
      have := ih _ c hc; simp only [List.length_cons]; omega
    unfold cellsFrom at hc
    split at hc
    · exact rest c hc
    · rcases List.mem_cons.mp hc with rfl | hc
      · simp
      · exact rest c hc

/-- The cells of a byte string are in canonical form. -/
theorem cellsFrom_wf (a : Nat) (bs : List Byte) : Memory.wf (cellsFrom a bs) = true := by
  induction bs generalizing a with
  | nil => rfl
  | cons b bs ih =>
    unfold cellsFrom
    split
    · exact ih _
    · rename_i hb
      simp only [Memory.wf, mapWf, Bool.and_eq_true, decide_eq_true_eq]
      exact ⟨⟨hb, (keysAbove_iff _ _).mpr fun c hc => (cellsFrom_range _ _ c hc).1⟩, ih _⟩

/-- A block written whole keeps the canonical form. -/
theorem memBlock_wf (m : Mem) (a : Nat) (bs : List Byte) (h : Memory.wf m = true) : Memory.wf (memBlock m a bs) = true := by
  refine mapWf_append _ _ _ (mapWf_append _ _ _ (filter_wf _ _ h) (cellsFrom_wf _ _) ?_) (filter_wf _ _ h) ?_
  · intro x hx y hy
    have h1 := (List.mem_filter.mp hx).2
    have h2 := cellsFrom_range _ _ y hy
    simp only [decide_eq_true_eq] at h1
    omega
  · intro x hx y hy
    have h2 := (List.mem_filter.mp hy).2
    simp only [decide_eq_true_eq] at h2
    rcases List.mem_append.mp hx with hx | hx
    · have h1 := (List.mem_filter.mp hx).2
      simp only [decide_eq_true_eq] at h1
      omega
    · have h1 := cellsFrom_range _ _ x hx
      omega

/-- A DRAIN keeps the tile store's canonical form (R271). -/
theorem drainTile_wf (o : DrainOp) (x : Word) (a : List (Nat × W32)) (tile : Mem) (off sg : Nat) (seed : Word)
    (h : Memory.wf tile = true) : Memory.wf (drainTile o x a tile off sg seed) = true := by
  simp only [drainTile]
  generalize (srSteps (drainSteps o x) seed).1 = us
  generalize List.range (o.units.toNat * 32) = ks
  induction ks generalizing tile with
  | nil => exact h
  | cons k ks ih => exact ih _ (memWrite_wf _ _ _ (memWrite_wf _ _ _ (memWrite_wf _ _ _ h)))

/-- A byte of two lists of cells, the keys of the first being below an address or the byte not being there. -/
theorem aget_append {α : Type} (d : α) (m n : List (Nat × α)) (i : Nat) :
    aget d (m ++ n) i = if (∃ c ∈ m, c.1 = i) then aget d m i else aget d n i := by
  induction m with
  | nil => simp
  | cons c m ih =>
    obtain ⟨k, v⟩ := c
    simp only [List.cons_append, aget, ih]
    by_cases hk : i = k
    · subst hk; simp
    · have : (∃ c ∈ (k, v) :: m, c.1 = i) ↔ ∃ c ∈ m, c.1 = i := by simp [show ¬k = i from fun h => hk h.symm]
      simp only [this, if_neg hk]

/-- A filtered list at a key. -/
theorem aget_filter {α : Type} (d : α) (m : List (Nat × α)) (p : Nat → Bool) (i : Nat) :
    aget d (m.filter fun c => p c.1) i = if p i then aget d m i else d := by
  induction m with
  | nil => simp [aget]
  | cons c m ih =>
    obtain ⟨k, v⟩ := c
    rw [List.filter_cons]
    by_cases hp : p k
    · simp only [hp, if_true, aget, ih]
      by_cases hk : i = k
      · subst hk; simp [hp]
      · simp [hk]
    · rw [if_neg hp, ih]
      by_cases hk : i = k
      · subst hk; rw [if_neg hp, if_neg hp]
      · simp [aget, hk]

/-- The cells of a byte string at an address. -/
theorem aget_cellsFrom (a : Nat) (bs : List Byte) (i : Nat) :
    aget emptyByte (cellsFrom a bs) i = if a ≤ i ∧ i < a + bs.length then bs.getD (i - a) emptyByte else emptyByte := by
  induction bs generalizing a with
  | nil => simp [cellsFrom, aget]
  | cons b bs ih =>
    have key : i ≠ a → (if a + 1 ≤ i ∧ i < a + 1 + bs.length then bs.getD (i - (a + 1)) emptyByte else emptyByte)
        = if a ≤ i ∧ i < a + (b :: bs).length then (b :: bs).getD (i - a) emptyByte else emptyByte := by
      intro hi
      by_cases h : a + 1 ≤ i ∧ i < a + 1 + bs.length
      · rw [if_pos h, if_pos (by simp only [List.length_cons]; omega)]
        obtain ⟨k, rfl⟩ : ∃ k, i = a + 1 + k := ⟨i - (a + 1), by omega⟩
        rw [show a + 1 + k - a = k + 1 by omega, show a + 1 + k - (a + 1) = k by omega, List.getD_cons_succ]
      · rw [if_neg h, if_neg (by simp only [List.length_cons]; omega)]
    unfold cellsFrom
    by_cases hi : i = a
    · subst hi
      split
      · rename_i hb
        rw [ih, if_neg (by omega), if_pos (by simp)]
        simp [hb]
      · simp [aget]
    · split
      · rw [ih, key hi]
      · simp only [aget, if_neg hi]
        rw [ih, key hi]

/-- A byte after a block was written whole. -/
theorem memByte_memBlock (m : Mem) (a i : Nat) (bs : List Byte) :
    memByte (memBlock m a bs) i = if a ≤ i ∧ i < a + bs.length then bs.getD (i - a) emptyByte else memByte m i := by
  have none_ : ∀ (n : Mem), (¬∃ c ∈ n, c.1 = i) → aget emptyByte n i = emptyByte := fun n h => by
    rcases aget_mem emptyByte n i with h1 | h1
    · exact h1
    · exact absurd ⟨_, h1, rfl⟩ h
  have lo := aget_filter emptyByte m (fun k => decide (k < a)) i
  have hi := aget_filter emptyByte m (fun k => decide (a + bs.length ≤ k)) i
  have mid := aget_cellsFrom a bs i
  simp only [decide_eq_true_eq] at lo hi
  simp only [memByte, memBlock]
  rw [aget_append, aget_append]
  by_cases h : a ≤ i ∧ i < a + bs.length
  · rw [if_pos h]
    have h1 : ¬∃ c ∈ m.filter (fun c => decide (c.1 < a)), c.1 = i := by
      rintro ⟨c, hc, rfl⟩
      have := (List.mem_filter.mp hc).2
      simp only [decide_eq_true_eq] at this
      omega
    rw [if_neg h1, mid, if_pos h]
    by_cases h2 : ∃ c ∈ m.filter (fun c => decide (c.1 < a)) ++ cellsFrom a bs, c.1 = i
    · rw [if_pos h2]
    · rw [if_neg h2, hi, if_neg (by omega)]
      have h3 : ¬∃ c ∈ cellsFrom a bs, c.1 = i := fun ⟨c, hc, e⟩ => h2 ⟨c, List.mem_append_right _ hc, e⟩
      have e := none_ _ h3
      rw [mid, if_pos h] at e
      exact e.symm
  · rw [if_neg h]
    have h3 : ¬∃ c ∈ cellsFrom a bs, c.1 = i := by
      rintro ⟨c, hc, rfl⟩
      exact h (cellsFrom_range _ _ c hc)
    by_cases h1 : i < a
    · by_cases h2 : ∃ c ∈ m.filter (fun c => decide (c.1 < a)), c.1 = i
      · rw [if_pos h2, if_pos (by obtain ⟨c, hc, e⟩ := h2; exact ⟨c, List.mem_append_left _ hc, e⟩), lo, if_pos h1]
      · have e := none_ _ h2
        rw [lo, if_pos h1] at e
        rw [if_neg (by
          rintro ⟨c, hc, q⟩
          rcases List.mem_append.mp hc with hc | hc
          · exact h2 ⟨c, hc, q⟩
          · exact h3 ⟨c, hc, q⟩), hi, if_neg (by omega), e]
    · have h2 : ¬∃ c ∈ m.filter (fun c => decide (c.1 < a)) ++ cellsFrom a bs, c.1 = i := by
        rintro ⟨c, hc, rfl⟩
        rcases List.mem_append.mp hc with hc | hc
        · have := (List.mem_filter.mp hc).2
          simp only [decide_eq_true_eq] at this
          omega
        · exact h3 ⟨c, hc, rfl⟩
      rw [if_neg h2, hi, if_pos (by omega)]

end Sys2Proof.Machine
end

