-- ==== Sys2Proof/Laws/PerInstr.lean ====
section
/-!
SUPPORT. Laws that hold of every instruction as syntax, one lemma per constructor: its words.
-/
namespace Sys2Proof.Laws
set_option Elab.async false
open Sys2Proof Sys2Proof.Machine

/-- An instruction has at most an extension word beside its base word, and only the steps of other agents have none (R156, R159). -/
def Words.Statement (i : Instr) : Prop := (encode i).length ≤ 2 ∧ (encode i = [] ↔ form i = .event)

/-- The lemma of every constructor, by its layout. -/
theorem Words.any (i : Instr) : Words.Statement i := by
  unfold Words.Statement encode
  cases form i with
  | la op fn r o => cases o.ext <;> simp
  | lm op fn ty r o => simp
  | ua op fn ty r o => cases o.ext <;> simp
  | um op fn d a b ok r x => simp
  | uq op body ok q => cases q <;> simp
  | words w e ok => cases e <;> simp
  | event => simp

theorem Words.vadd (x0 x1) : Words.Statement (.vadd x0 x1) := Words.any _
theorem Words.vsub (x0 x1) : Words.Statement (.vsub x0 x1) := Words.any _
theorem Words.vmul (x0 x1) : Words.Statement (.vmul x0 x1) := Words.any _
theorem Words.vmulh (x0 x1) : Words.Statement (.vmulh x0 x1) := Words.any _
theorem Words.vmad (x0 x1) : Words.Statement (.vmad x0 x1) := Words.any _
theorem Words.vmin (x0 x1) : Words.Statement (.vmin x0 x1) := Words.any _
theorem Words.vmax (x0 x1) : Words.Statement (.vmax x0 x1) := Words.any _
theorem Words.vabs (x0 x1) : Words.Statement (.vabs x0 x1) := Words.any _
theorem Words.vand (x0 x1) : Words.Statement (.vand x0 x1) := Words.any _
theorem Words.vor (x0 x1) : Words.Statement (.vor x0 x1) := Words.any _
theorem Words.vxor (x0 x1) : Words.Statement (.vxor x0 x1) := Words.any _
theorem Words.vnot (x0 x1) : Words.Statement (.vnot x0 x1) := Words.any _
theorem Words.vshl (x0 x1) : Words.Statement (.vshl x0 x1) := Words.any _
theorem Words.vshr (x0 x1) : Words.Statement (.vshr x0 x1) := Words.any _
theorem Words.vbfx (x0 x1) : Words.Statement (.vbfx x0 x1) := Words.any _
theorem Words.vbfi (x0 x1) : Words.Statement (.vbfi x0 x1) := Words.any _
theorem Words.vclz (x0 x1) : Words.Statement (.vclz x0 x1) := Words.any _
theorem Words.vpopc (x0 x1) : Words.Statement (.vpopc x0 x1) := Words.any _
theorem Words.vmov (x0) : Words.Statement (.vmov x0) := Words.any _
theorem Words.vmovImm (x0) : Words.Statement (.vmovImm x0) := Words.any _
theorem Words.vmovh (x0) : Words.Statement (.vmovh x0) := Words.any _
theorem Words.vsel (x0) : Words.Statement (.vsel x0) := Words.any _
theorem Words.vcmp (x0 x1) : Words.Statement (.vcmp x0 x1) := Words.any _
theorem Words.fcmp (x0 x1) : Words.Statement (.fcmp x0 x1) := Words.any _
theorem Words.pand (x0) : Words.Statement (.pand x0) := Words.any _
theorem Words.por (x0) : Words.Statement (.por x0) := Words.any _
theorem Words.pxor (x0) : Words.Statement (.pxor x0) := Words.any _
theorem Words.pmov (x0) : Words.Statement (.pmov x0) := Words.any _
theorem Words.fadd (x0 x1) : Words.Statement (.fadd x0 x1) := Words.any _
theorem Words.fsub (x0 x1) : Words.Statement (.fsub x0 x1) := Words.any _
theorem Words.fmul (x0 x1) : Words.Statement (.fmul x0 x1) := Words.any _
theorem Words.ffma (x0 x1) : Words.Statement (.ffma x0 x1) := Words.any _
theorem Words.fmin (x0 x1) : Words.Statement (.fmin x0 x1) := Words.any _
theorem Words.fmax (x0 x1) : Words.Statement (.fmax x0 x1) := Words.any _
theorem Words.fneg (x0 x1) : Words.Statement (.fneg x0 x1) := Words.any _
theorem Words.fabs (x0 x1) : Words.Statement (.fabs x0 x1) := Words.any _
theorem Words.vrcp (x0) : Words.Statement (.vrcp x0) := Words.any _
theorem Words.vrsq (x0) : Words.Statement (.vrsq x0) := Words.any _
theorem Words.vsqrt (x0) : Words.Statement (.vsqrt x0) := Words.any _
theorem Words.vexp2 (x0) : Words.Statement (.vexp2 x0) := Words.any _
theorem Words.vlog2 (x0) : Words.Statement (.vlog2 x0) := Words.any _
theorem Words.vsin (x0) : Words.Statement (.vsin x0) := Words.any _
theorem Words.vcos (x0) : Words.Statement (.vcos x0) := Words.any _
theorem Words.vtanh (x0) : Words.Statement (.vtanh x0) := Words.any _
theorem Words.smxStep (x0) : Words.Statement (.smxStep x0) := Words.any _
theorem Words.cvt (x0) : Words.Statement (.cvt x0) := Words.any _
theorem Words.qntDiv (x0) : Words.Statement (.qntDiv x0) := Words.any _
theorem Words.qntMul (x0) : Words.Statement (.qntMul x0) := Words.any _
theorem Words.pack (x0 x1) : Words.Statement (.pack x0 x1) := Words.any _
theorem Words.unpk (x0 x1) : Words.Statement (.unpk x0 x1) := Words.any _
theorem Words.dot (x0 x1) : Words.Statement (.dot x0 x1) := Words.any _
theorem Words.xrd (x0 x1) : Words.Statement (.xrd x0 x1) := Words.any _
theorem Words.xred (x0 x1) : Words.Statement (.xred x0 x1) := Words.any _
theorem Words.voteAny (x0) : Words.Statement (.voteAny x0) := Words.any _
theorem Words.voteAll (x0) : Words.Statement (.voteAll x0) := Words.any _
theorem Words.voteBallot (x0) : Words.Statement (.voteBallot x0) := Words.any _
theorem Words.vsrd (x0 x1 x2) : Words.Statement (.vsrd x0 x1 x2) := Words.any _
theorem Words.vget (x0 x1 x2 x3) : Words.Statement (.vget x0 x1 x2 x3) := Words.any _
theorem Words.rep (x0 x1 x2 x3 x4) : Words.Statement (.rep x0 x1 x2 x3 x4) := Words.any _
theorem Words.br (x0 x1 x2) : Words.Statement (.br x0 x1 x2) := Words.any _
theorem Words.ld (x0 x1) : Words.Statement (.ld x0 x1) := Words.any _
theorem Words.st (x0 x1) : Words.Statement (.st x0 x1) := Words.any _
theorem Words.ldg (x0 x1) : Words.Statement (.ldg x0 x1) := Words.any _
theorem Words.stg (x0 x1) : Words.Statement (.stg x0 x1) := Words.any _
theorem Words.lds (x0 x1) : Words.Statement (.lds x0 x1) := Words.any _
theorem Words.atom (x0 x1 x2) : Words.Statement (.atom x0 x1 x2) := Words.any _
theorem Words.red (x0 x1 x2) : Words.Statement (.red x0 x1 x2) := Words.any _
theorem Words.waitadd (x0 x1) : Words.Statement (.waitadd x0 x1) := Words.any _
theorem Words.waitw (x0 x1 x2) : Words.Statement (.waitw x0 x1 x2) := Words.any _
theorem Words.cctlUnpin (x0) : Words.Statement (.cctlUnpin x0) := Words.any _
theorem Words.cctlPin (x0) : Words.Statement (.cctlPin x0) := Words.any _
theorem Words.cctlEvict (x0) : Words.Statement (.cctlEvict x0) := Words.any _
theorem Words.cctlPrefetch (x0) : Words.Statement (.cctlPrefetch x0) := Words.any _
theorem Words.mbarInit (x0) : Words.Statement (.mbarInit x0) := Words.any _
theorem Words.mbarExp (x0) : Words.Statement (.mbarExp x0) := Words.any _
theorem Words.mbarWait (x0) : Words.Statement (.mbarWait x0) := Words.any _
theorem Words.mbarArv (x0) : Words.Statement (.mbarArv x0) := Words.any _
theorem Words.bar (x0) : Words.Statement (.bar x0) := Words.any _
theorem Words.barArv (x0) : Words.Statement (.barArv x0) := Words.any _
theorem Words.barCnt (x0 x1) : Words.Statement (.barCnt x0 x1) := Words.any _
theorem Words.fenceAcq (x0) : Words.Statement (.fenceAcq x0) := Words.any _
theorem Words.fenceRel (x0) : Words.Statement (.fenceRel x0) := Words.any _
theorem Words.fenceAr (x0) : Words.Statement (.fenceAr x0) := Words.any _
theorem Words.fenceFull (x0) : Words.Statement (.fenceFull x0) := Words.any _
theorem Words.tryL (x0 x1) : Words.Statement (.tryL x0 x1) := Words.any _
theorem Words.tryG (x0 x1 x2) : Words.Statement (.tryG x0 x1 x2) := Words.any _
theorem Words.commitL (x0) : Words.Statement (.commitL x0) := Words.any _
theorem Words.commitG (x0) : Words.Statement (.commitG x0) := Words.any _
theorem Words.abort (x0) : Words.Statement (.abort x0) := Words.any _
theorem Words.tstat (x0) : Words.Statement (.tstat x0) := Words.any _
theorem Words.tbufRead (x0 x1) : Words.Statement (.tbufRead x0 x1) := Words.any _
theorem Words.seqRes (x0) : Words.Statement (.seqRes x0) := Words.any _
theorem Words.seqCmt (x0) : Words.Statement (.seqCmt x0) := Words.any _
theorem Words.mma (x0) : Words.Statement (.mma x0) := Words.any _
theorem Words.aclr (x0) : Words.Statement (.aclr x0) := Words.any _
theorem Words.drain (x0) : Words.Statement (.drain x0) := Words.any _
theorem Words.chain (x0) : Words.Statement (.chain x0) := Words.any _
theorem Words.uadd (x0 x1) : Words.Statement (.uadd x0 x1) := Words.any _
theorem Words.usub (x0 x1) : Words.Statement (.usub x0 x1) := Words.any _
theorem Words.umul (x0 x1) : Words.Statement (.umul x0 x1) := Words.any _
theorem Words.umulh (x0 x1) : Words.Statement (.umulh x0 x1) := Words.any _
theorem Words.udiv (x0 x1) : Words.Statement (.udiv x0 x1) := Words.any _
theorem Words.urem (x0 x1) : Words.Statement (.urem x0 x1) := Words.any _
theorem Words.umin (x0 x1) : Words.Statement (.umin x0 x1) := Words.any _
theorem Words.umax (x0 x1) : Words.Statement (.umax x0 x1) := Words.any _
theorem Words.uand (x0 x1) : Words.Statement (.uand x0 x1) := Words.any _
theorem Words.uor (x0 x1) : Words.Statement (.uor x0 x1) := Words.any _
theorem Words.uxor (x0 x1) : Words.Statement (.uxor x0 x1) := Words.any _
theorem Words.uandn (x0 x1) : Words.Statement (.uandn x0 x1) := Words.any _
theorem Words.unot (x0 x1) : Words.Statement (.unot x0 x1) := Words.any _
theorem Words.uclz (x0 x1) : Words.Statement (.uclz x0 x1) := Words.any _
theorem Words.upopc (x0 x1) : Words.Statement (.upopc x0 x1) := Words.any _
theorem Words.ushl (x0 x1) : Words.Statement (.ushl x0 x1) := Words.any _
theorem Words.ushr (x0 x1) : Words.Statement (.ushr x0 x1) := Words.any _
theorem Words.usar (x0 x1) : Words.Statement (.usar x0 x1) := Words.any _
theorem Words.urot (x0 x1) : Words.Statement (.urot x0 x1) := Words.any _
theorem Words.ubfx (x0 x1) : Words.Statement (.ubfx x0 x1) := Words.any _
theorem Words.ubfi (x0 x1) : Words.Statement (.ubfi x0 x1) := Words.any _
theorem Words.umov (x0) : Words.Statement (.umov x0) := Words.any _
theorem Words.umovi (x0 x1) : Words.Statement (.umovi x0 x1) := Words.any _
theorem Words.umovk (x0) : Words.Statement (.umovk x0) := Words.any _
theorem Words.usel (x0) : Words.Statement (.usel x0) := Words.any _
theorem Words.uadr (x0) : Words.Statement (.uadr x0) := Words.any _
theorem Words.ucmp (x0 x1 x2) : Words.Statement (.ucmp x0 x1 x2) := Words.any _
theorem Words.qand (x0 x1 x2 x3) : Words.Statement (.qand x0 x1 x2 x3) := Words.any _
theorem Words.qor (x0 x1 x2 x3) : Words.Statement (.qor x0 x1 x2 x3) := Words.any _
theorem Words.qxor (x0 x1 x2 x3) : Words.Statement (.qxor x0 x1 x2 x3) := Words.any _
theorem Words.qmov (x0 x1 x2 x3) : Words.Statement (.qmov x0 x1 x2 x3) := Words.any _
theorem Words.qany (x0 x1 x2 x3) : Words.Statement (.qany x0 x1 x2 x3) := Words.any _
theorem Words.qall (x0 x1 x2 x3) : Words.Statement (.qall x0 x1 x2 x3) := Words.any _
theorem Words.qset (x0 x1 x2 x3) : Words.Statement (.qset x0 x1 x2 x3) := Words.any _
theorem Words.uld (x0 x1 x2 x3) : Words.Statement (.uld x0 x1 x2 x3) := Words.any _
theorem Words.ust (x0 x1 x2 x3) : Words.Statement (.ust x0 x1 x2 x3) := Words.any _
theorem Words.bra (x0 x1) : Words.Statement (.bra x0 x1) := Words.any _
theorem Words.call (x0 x1) : Words.Statement (.call x0 x1) := Words.any _
theorem Words.ret (x0 x1) : Words.Statement (.ret x0 x1) := Words.any _
theorem Words.brx (x0 x1) : Words.Statement (.brx x0 x1) := Words.any _
theorem Words.loop (x0 x1 x2) : Words.Statement (.loop x0 x1 x2) := Words.any _
theorem Words.pad (x0) : Words.Statement (.pad x0) := Words.any _
theorem Words.exit (x0) : Words.Statement (.exit x0) := Words.any _
theorem Words.nop (x0) : Words.Statement (.nop x0) := Words.any _
theorem Words.srd (x0 x1 x2) : Words.Statement (.srd x0 x1 x2) := Words.any _
theorem Words.swr (x0 x1 x2) : Words.Statement (.swr x0 x1 x2) := Words.any _
theorem Words.ugetl (x0 x1 x2 x3) : Words.Statement (.ugetl x0 x1 x2 x3) := Words.any _
theorem Words.ralloc (x0 x1) : Words.Statement (.ralloc x0 x1) := Words.any _
theorem Words.rfree (x0 x1) : Words.Statement (.rfree x0 x1) := Words.any _
theorem Words.gang (x0 x1) : Words.Statement (.gang x0 x1) := Words.any _
theorem Words.launch (x0 x1 x2) : Words.Statement (.launch x0 x1 x2) := Words.any _
theorem Words.tsync (x0) : Words.Statement (.tsync x0) := Words.any _
theorem Words.yield (x0) : Words.Statement (.yield x0) := Words.any _
theorem Words.sleep (x0 x1) : Words.Statement (.sleep x0 x1) := Words.any _
theorem Words.trap (x0 x1) : Words.Statement (.trap x0 x1) := Words.any _
theorem Words.eret : Words.Statement .eret := Words.any _
theorem Words.tileAlloc (x0 x1 x2 x3) : Words.Statement (.tileAlloc x0 x1 x2 x3) := Words.any _
theorem Words.tileFind (x0 x1 x2) : Words.Statement (.tileFind x0 x1 x2) := Words.any _
theorem Words.tileInv (x0 x1 x2) : Words.Statement (.tileInv x0 x1 x2) := Words.any _
theorem Words.tileRel (x0 x1 x2) : Words.Statement (.tileRel x0 x1 x2) := Words.any _
theorem Words.tileStat (x0 x1 x2) : Words.Statement (.tileStat x0 x1 x2) := Words.any _
theorem Words.rqKick (x0 x1 x2) : Words.Statement (.rqKick x0 x1 x2) := Words.any _
theorem Words.seqBind (x0 x1 x2) : Words.Statement (.seqBind x0 x1 x2) := Words.any _
theorem Words.seqLen (x0 x1 x2) : Words.Statement (.seqLen x0 x1 x2) := Words.any _
theorem Words.seqFork (x0 x1 x2 x3) : Words.Statement (.seqFork x0 x1 x2 x3) := Words.any _
theorem Words.seqDrop (x0 x1 x2) : Words.Statement (.seqDrop x0 x1 x2) := Words.any _
theorem Words.breakpointHit (x0 x1) : Words.Statement (.breakpointHit x0 x1) := Words.any _
theorem Words.loadDataReturn (x0) : Words.Statement (.loadDataReturn x0) := Words.any _
theorem Words.loadServe (x0) : Words.Statement (.loadServe x0) := Words.any _
theorem Words.storePerform (x0) : Words.Statement (.storePerform x0) := Words.any _
theorem Words.watchReread (x0) : Words.Statement (.watchReread x0) := Words.any _
theorem Words.sleepWake (x0) : Words.Statement (.sleepWake x0) := Words.any _
theorem Words.tsyncWake (x0) : Words.Statement (.tsyncWake x0) := Words.any _
theorem Words.bindLapse (x0 x1) : Words.Statement (.bindLapse x0 x1) := Words.any _
theorem Words.packetHoldEnd (x0 x1) : Words.Statement (.packetHoldEnd x0 x1) := Words.any _
theorem Words.gangLatchOpen (x0) : Words.Statement (.gangLatchOpen x0) := Words.any _
theorem Words.matrixMmaGroup (x0) : Words.Statement (.matrixMmaGroup x0) := Words.any _
theorem Words.matrixAclrExecute (x0) : Words.Statement (.matrixAclrExecute x0) := Words.any _
theorem Words.matrixDrainExecute (x0) : Words.Statement (.matrixDrainExecute x0) := Words.any _
theorem Words.chainUnit (x0 x1) : Words.Statement (.chainUnit x0 x1) := Words.any _
theorem Words.tileRequestAccept (x0 x1) : Words.Statement (.tileRequestAccept x0 x1) := Words.any _
theorem Words.rqRequestStart (x0 x1) : Words.Statement (.rqRequestStart x0 x1) := Words.any _
theorem Words.rqRequestComplete (x0 x1) : Words.Statement (.rqRequestComplete x0 x1) := Words.any _
theorem Words.multicastDelivery (x0 x1) : Words.Statement (.multicastDelivery x0 x1) := Words.any _
theorem Words.chunkMove (x0 x1) : Words.Statement (.chunkMove x0 x1) := Words.any _
theorem Words.squServeRequest (x0) : Words.Statement (.squServeRequest x0) := Words.any _
theorem Words.leaseTimeout (x0) : Words.Statement (.leaseTimeout x0) := Words.any _
theorem Words.commitLeasesHeld (x0) : Words.Statement (.commitLeasesHeld x0) := Words.any _
theorem Words.rallocGrant (x0) : Words.Statement (.rallocGrant x0) := Words.any _
theorem Words.emergencyGrant (x0) : Words.Statement (.emergencyGrant x0) := Words.any _
theorem Words.queueRecordCopy (x0 x1) : Words.Statement (.queueRecordCopy x0 x1) := Words.any _
theorem Words.gridDispatchStart (x0 x1) : Words.Statement (.gridDispatchStart x0 x1) := Words.any _
theorem Words.dependenceReread (x0 x1 x2) : Words.Statement (.dependenceReread x0 x1 x2) := Words.any _
theorem Words.teamPlace (x0 x1 x2) : Words.Statement (.teamPlace x0 x1 x2) := Words.any _
theorem Words.childResidencyPreempt (x0 x1) : Words.Statement (.childResidencyPreempt x0 x1) := Words.any _
theorem Words.teamRelease (x0) : Words.Statement (.teamRelease x0) := Words.any _
theorem Words.drainedReport (x0 x1 x2 x3) : Words.Statement (.drainedReport x0 x1 x2 x3) := Words.any _
theorem Words.gridRetire (x0 x1) : Words.Statement (.gridRetire x0 x1) := Words.any _
theorem Words.tokenGrant (x0) : Words.Statement (.tokenGrant x0) := Words.any _
theorem Words.ringLap (x0 x1) : Words.Statement (.ringLap x0 x1) := Words.any _
theorem Words.ringStationVisit (x0 x1) : Words.Statement (.ringStationVisit x0 x1) := Words.any _
theorem Words.tokenEvaporation (x0) : Words.Statement (.tokenEvaporation x0) := Words.any _
theorem Words.stepRelockTimeout (x0) : Words.Statement (.stepRelockTimeout x0) := Words.any _
theorem Words.throttled (x0) : Words.Statement (.throttled x0) := Words.any _
theorem Words.preemptRequest (x0) : Words.Statement (.preemptRequest x0) := Words.any _
theorem Words.teamSaveWrite (x0) : Words.Statement (.teamSaveWrite x0) := Words.any _
theorem Words.teamRestore (x0 x1) : Words.Statement (.teamRestore x0 x1) := Words.any _
theorem Words.restoreFirstIssue (x0) : Words.Statement (.restoreFirstIssue x0) := Words.any _
theorem Words.reembed (x0) : Words.Statement (.reembed x0) := Words.any _
theorem Words.defectTreeUpdate : Words.Statement .defectTreeUpdate := Words.any _
theorem Words.defectTreeHostCopy : Words.Statement .defectTreeHostCopy := Words.any _
theorem Words.lineFill (x0) : Words.Statement (.lineFill x0) := Words.any _
theorem Words.migrationAck (x0) : Words.Statement (.migrationAck x0) := Words.any _
theorem Words.replicaPlace (x0 x1) : Words.Statement (.replicaPlace x0 x1) := Words.any _
theorem Words.invalidationAck (x0 x1) : Words.Statement (.invalidationAck x0 x1) := Words.any _
theorem Words.yardmasterWindow : Words.Statement .yardmasterWindow := Words.any _
theorem Words.pageWalk (x0) : Words.Statement (.pageWalk x0) := Words.any _
theorem Words.faultQueueAdmit : Words.Statement .faultQueueAdmit := Words.any _
theorem Words.faultServiceLimit (x0) : Words.Statement (.faultServiceLimit x0) := Words.any _
theorem Words.invalidationComplete (x0) : Words.Statement (.invalidationComplete x0) := Words.any _
theorem Words.invTimeout (x0 x1) : Words.Statement (.invTimeout x0 x1) := Words.any _
theorem Words.faultTake (x0) : Words.Statement (.faultTake x0) := Words.any _
theorem Words.trapFrameFree (x0) : Words.Statement (.trapFrameFree x0) := Words.any _
theorem Words.recordFoldExpiry (x0 x1) : Words.Statement (.recordFoldExpiry x0 x1) := Words.any _
theorem Words.logWrap : Words.Statement .logWrap := Words.any _
theorem Words.watchdogExpiry (x0 x1) : Words.Statement (.watchdogExpiry x0 x1) := Words.any _
theorem Words.coldTextLoad (x0 x1 x2) : Words.Statement (.coldTextLoad x0 x1 x2) := Words.any _
theorem Words.engineNoProgress (x0 x1) : Words.Statement (.engineNoProgress x0 x1) := Words.any _
theorem Words.mcWaiting (x0 x1) : Words.Statement (.mcWaiting x0 x1) := Words.any _
theorem Words.squTimeout (x0) : Words.Statement (.squTimeout x0) := Words.any _
theorem Words.sliceEvacuation (x0) : Words.Statement (.sliceEvacuation x0) := Words.any _
theorem Words.evacuationTimeout (x0) : Words.Statement (.evacuationTimeout x0) := Words.any _
theorem Words.collapseTimeout (x0 x1) : Words.Statement (.collapseTimeout x0 x1) := Words.any _
theorem Words.ylRequestTimeout (x0) : Words.Statement (.ylRequestTimeout x0) := Words.any _
theorem Words.routingVerdictTimeout : Words.Statement .routingVerdictTimeout := Words.any _
theorem Words.routingCommit : Words.Statement .routingCommit := Words.any _
theorem Words.routingOldDrain : Words.Statement .routingOldDrain := Words.any _
theorem Words.attestationRequest : Words.Statement .attestationRequest := Words.any _
theorem Words.reticleReset (x0 x1) : Words.Statement (.reticleReset x0 x1) := Words.any _
theorem Words.coreReset (x0 x1) : Words.Statement (.coreReset x0 x1) := Words.any _
theorem Words.dbgStepEnd (x0) : Words.Statement (.dbgStepEnd x0) := Words.any _
theorem Words.redMerge (x0 x1) : Words.Statement (.redMerge x0 x1) := Words.any _
theorem Words.doorbell (x0 x1 x2) : Words.Statement (.doorbell x0 x1 x2) := Words.any _
theorem Words.queueSkip (x0 x1 x2) : Words.Statement (.queueSkip x0 x1 x2) := Words.any _
theorem Words.queueEnable (x0 x1 x2) : Words.Statement (.queueEnable x0 x1 x2) := Words.any _
theorem Words.pwcControlInterval (x0 x1 x2 x3) : Words.Statement (.pwcControlInterval x0 x1 x2 x3) := Words.any _
theorem Words.energyUpdate (x0 x1 x2) : Words.Statement (.energyUpdate x0 x1 x2) := Words.any _
theorem Words.frequencyStepChange (x0 x1) : Words.Statement (.frequencyStepChange x0 x1) := Words.any _
theorem Words.droopStretch (x0) : Words.Statement (.droopStretch x0) := Words.any _
theorem Words.boostGrant (x0 x1) : Words.Statement (.boostGrant x0 x1) := Words.any _
theorem Words.hotspotMigration (x0 x1) : Words.Statement (.hotspotMigration x0 x1) := Words.any _
theorem Words.thermalShutdown (x0 x1) : Words.Statement (.thermalShutdown x0 x1) := Words.any _
theorem Words.railGap (x0 x1) : Words.Statement (.railGap x0 x1) := Words.any _
theorem Words.powerLimit (x0) : Words.Statement (.powerLimit x0) := Words.any _
theorem Words.contextSwitch (x0) : Words.Statement (.contextSwitch x0) := Words.any _
theorem Words.contextRestore (x0) : Words.Statement (.contextRestore x0) := Words.any _
theorem Words.timeExchange (x0) : Words.Statement (.timeExchange x0) := Words.any _
theorem Words.dthostWrite (x0) : Words.Statement (.dthostWrite x0) := Words.any _
theorem Words.lineEvict (x0) : Words.Statement (.lineEvict x0) := Words.any _
theorem Words.placementMapChange (x0 x1) : Words.Statement (.placementMapChange x0 x1) := Words.any _
theorem Words.repgo (x0 x1) : Words.Statement (.repgo x0 x1) := Words.any _
theorem Words.invgo (x0 x1) : Words.Statement (.invgo x0 x1) := Words.any _
theorem Words.softErrorDetect (x0 x1 x2 x3 x4 x5) : Words.Statement (.softErrorDetect x0 x1 x2 x3 x4 x5) := Words.any _
theorem Words.l2Scrub (x0 x1 x2) : Words.Statement (.l2Scrub x0 x1 x2) := Words.any _
theorem Words.hbmPatrolScrub (x0) : Words.Statement (.hbmPatrolScrub x0) := Words.any _
theorem Words.sliceFailure (x0) : Words.Statement (.sliceFailure x0) := Words.any _
theorem Words.sliceSilent (x0) : Words.Statement (.sliceSilent x0) := Words.any _
theorem Words.dirRebuild (x0 x1) : Words.Statement (.dirRebuild x0 x1) := Words.any _
theorem Words.hbmRowRemap (x0 x1 x2) : Words.Statement (.hbmRowRemap x0 x1 x2) := Words.any _
theorem Words.hbmThermal (x0 x1 x2) : Words.Statement (.hbmThermal x0 x1 x2) := Words.any _
theorem Words.hbmStackFailure (x0 x1) : Words.Statement (.hbmStackFailure x0 x1) := Words.any _
theorem Words.routerFailure (x0 x1 x2 x3) : Words.Statement (.routerFailure x0 x1 x2 x3) := Words.any _
theorem Words.stitchedLinkFailure (x0 x1) : Words.Statement (.stitchedLinkFailure x0 x1) := Words.any _
theorem Words.fabricStall (x0 x1) : Words.Statement (.fabricStall x0 x1) := Words.any _
theorem Words.ylFlitReceive (x0 x1 x2) : Words.Statement (.ylFlitReceive x0 x1 x2) := Words.any _
theorem Words.ylRequestArrival (x0 x1 x2 x3 x4 x5 x6 x7) : Words.Statement (.ylRequestArrival x0 x1 x2 x3 x4 x5 x6 x7) := Words.any _
theorem Words.ylCompletionArrival (x0 x1 x2 x3) : Words.Statement (.ylCompletionArrival x0 x1 x2 x3) := Words.any _
theorem Words.ylLinkDeath (x0) : Words.Statement (.ylLinkDeath x0) := Words.any _
theorem Words.hostWrite (x0 x1) : Words.Statement (.hostWrite x0 x1) := Words.any _
theorem Words.hostAtomicop (x0 x1 x2 x3 x4) : Words.Statement (.hostAtomicop x0 x1 x2 x3 x4) := Words.any _
theorem Words.cxlBackInvalidate (x0) : Words.Statement (.cxlBackInvalidate x0) := Words.any _
theorem Words.cxlSnoop (x0 x1) : Words.Statement (.cxlSnoop x0 x1) := Words.any _
theorem Words.hostLinkUp (x0 x1 x2) : Words.Statement (.hostLinkUp x0 x1 x2) := Words.any _
theorem Words.hostLinkDown (x0) : Words.Statement (.hostLinkDown x0) := Words.any _
theorem Words.deviceNumberAssign (x0 x1) : Words.Statement (.deviceNumberAssign x0 x1) := Words.any _
theorem Words.routingUpdateStage (x0 x1 x2 x3) : Words.Statement (.routingUpdateStage x0 x1 x2 x3) := Words.any _
theorem Words.firmwareUpdate (x0 x1) : Words.Statement (.firmwareUpdate x0 x1) := Words.any _
theorem Words.bringUp (x0 x1 x2) : Words.Statement (.bringUp x0 x1 x2) := Words.any _
theorem Words.deviceReset (x0 x1) : Words.Statement (.deviceReset x0 x1) := Words.any _
theorem Words.functionLevelReset (x0) : Words.Statement (.functionLevelReset x0) := Words.any _
theorem Words.dbgHalt (x0) : Words.Statement (.dbgHalt x0) := Words.any _
theorem Words.dbgResume (x0) : Words.Statement (.dbgResume x0) := Words.any _
theorem Words.dbgStep (x0) : Words.Statement (.dbgStep x0) := Words.any _
theorem Words.dbgBack (x0) : Words.Statement (.dbgBack x0) := Words.any _
theorem Words.registerWrite (x0 x1 x2) : Words.Statement (.registerWrite x0 x1 x2) := Words.any _
theorem Words.droopRecovery (x0) : Words.Statement (.droopRecovery x0) := Words.any _
theorem Words.fwException (x0) : Words.Statement (.fwException x0) := Words.any _
theorem Words.linkDegraded (x0 x1 x2) : Words.Statement (.linkDegraded x0 x1 x2) := Words.any _
theorem Words.ylDegraded (x0 x1) : Words.Statement (.ylDegraded x0 x1) := Words.any _
theorem Words.poolPathDown (x0) : Words.Statement (.poolPathDown x0) := Words.any _
theorem Words.hostPortError (x0 x1 x2) : Words.Statement (.hostPortError x0 x1 x2) := Words.any _

end Sys2Proof.Laws
end

