-- ==== Sys2Proof/Tests/Slice0.lean ====
section
/-!
SUPPORT. The model's own tests: ill-formed terms refused, words of the spec decoded, a witness for the hypotheses of every
statement, and one step of each kind with the result that the spec gives.
-/
namespace Sys2Proof.Tests
set_option Elab.async false
open Sys2Proof Sys2Proof.Machine

/-! ### Small states -/

/-- Every test of a list holds. -/
def all (xs : List Bool) : Bool := xs.all id
/-- Every lane. -/
def allL : Word := BitVec.allOnes 64
/-- A warp of 64 lanes with one run at the first slot of address 0. -/
def tw : Warp :=
  { lanes := allL, blocks := 15, launched := 15, ql := List.replicate 8 {}, fs := List.replicate 8 0#64
    pcs := [{ pc := 4#64, mask := allL }] }
/-- Page tables at 1 MiB that map page 0 to itself, page 1 uncached to itself, and page 2 to itself (R115, R116). -/
def ptab : Mem :=
  [ (0x100000, 1#8), (0x100001, 0x10#8), (0x100002, 0x10#8), (0x101000, 1#8), (0x101001, 0x20#8), (0x101002, 0x10#8)
  , (0x102000, 1#8), (0x102001, 0x30#8), (0x102002, 0x10#8), (0x103000, 1#8), (0x103001, 0x40#8), (0x103002, 0x10#8)
  , (0x104000, 0x1F#8), (0x104008, 0x5F#8), (0x10400A, 1#8), (0x104010, 0x1F#8), (0x104012, 2#8) ]
/-- A context under those tables. -/
def cx0 : Ctx := { enabled := true, resident := true, root := 0x100000 }
/-- An entry of the TLB of core 0. -/
def tlb0 (page : Nat) (leaf : Word) : TlbEntry := { unit := coreTlb 0, ctx := 0, page := page, leaf := leaf }
/-- Warp 0, of a team of context 0 on core 0, about to issue the instruction of slot 0; page 0 is mapped, and page 1 uncached. -/
def ts : State :=
  { State.reset with
    mem := ptab, ctxs := [(0, cx0)]
    teams := [(0, { tileb := 4096, bars := List.replicate 2 {} })], warps := [(0, tw)]
    cores := [(0, { free := 237 })], clusters := [(0, { aclk := 100 })], time := 1000, devstat := 1, stage := 4
    tlb := [tlb0 0 0x1F#64, tlb0 1 0x1005F#64], cur := { mask := allL, slots := [1#32, 0#32, 0#32] } }
/-- The same with another warp. -/
def ws (w : Warp) : State := { ts with warps := [(0, w)] }
/-- A step answers a next state of which p holds. -/
def nx (o : Host.Outcome State Fault Refusal) (p : State → Bool) : Bool :=
  match o with
  | .next t => p t
  | _ => false
/-- An instruction at a state answers a next state of which p holds. -/
def go (i : Instr) (s : State) (p : State → Bool) : Bool := nx (exec i s) p
/-- The pending writes of the issuing warp stand in order. -/
def pendB (s : State) : Bool := decide ((me s).pend.Pairwise fun a b => a.due ≤ b.due)
/-- Stages 1 to 3 let the instruction through, and the pending writes stand in order. -/
def ready (s : State) (ban : Ban) (causes : List (Nat × Word)) : Bool := clear s ban causes && pendB s
/-- The lanes of the run stand at an address, parked and held as given. -/
def stands (t : State) (pc : Word) (park : Option Park := none) (hold : Option Nat := none) : Bool :=
  (runsOf (me t)).any (fun e => bit e.mask 0) && (runsOf (me t)).all fun e => !bit e.mask 0 || (e.pc = pc && e.park = park && heldBy (me t) 0 = hold)

theorem test_pend_ready (s : State) (b : Ban) (cs : List (Nat × Word)) (h : ready s b cs = true) :
    clear s b cs = true ∧ pendOk (me s) := by simpa [ready, pendB, pendOk] using h

/-! ### Lane instructions -/

/-- Operands: D v8, A v0, B v4, and what else the form needs. -/
def la0 : LaOp := ⟨8, 0, 4, none⟩
def la1 : LaOp := ⟨8, 0, 4, some (.op ⟨false, 0⟩ false 12 false .none 0 0 false)⟩
def laP : LaOp := ⟨8, 0, 4, some (.op ⟨false, 0⟩ false 2 false .none 0 0 false)⟩
def laQ : LaOp := ⟨2, 0, 4, some (.op ⟨false, 0⟩ false 0 false .none 0 0 false)⟩
def laI : LaOp := ⟨8, 0, 0, some (.imm ⟨false, 0⟩ false 1)⟩
def laC : LaOp := ⟨8, 0, 0, some (.conv ⟨false, 0⟩ false .i32 (.ef .fp32) 0 false)⟩

/-- One of each lane instruction of fixed latency. -/
def laneInstrs : List Instr :=
  List.flatten
    [ [.vadd .i32 la0, .vsub .n32 la0, .vmul .i64 la0, .vmulh .n64 la0, .vmad .i16x2 la1, .vmin .n16x2 la0, .vmax .i32 la0, .vabs .i32 la0]
    , [.vand .i32 la0, .vor .i32 la0, .vxor .i32 la0, .vnot .i32 la0, .vshl .i32 la0, .vshr .i32 la0, .vbfx .i32 la0, .vbfi .i32 la0]
    , [.vclz .i32 la0, .vpopc .i32 la0, .vmov la0, .vmovImm laI, .vmovh laI, .vsel laP, .vcmp .lt laQ, .fcmp .lt laQ]
    , [.pand laQ, .por laQ, .pxor laQ, .pmov laQ, .fadd .fp32 la0, .fsub .fp16x2 la0, .fmul .bf16x2 la0, .ffma .fp32 la1]
    , [.fmin .fp32 la0, .fmax .fp32 la0, .fneg .fp32 la0, .fabs .fp32 la0, .smxStep la1, .cvt laC, .qntDiv la0, .qntMul la0]
    , [.pack .w8 laI, .unpk .w8 laI, .xrd .up la0, .xred .addI32 la0, .voteAny laQ, .voteAll laQ, .voteBallot la0]
    , [.vsrd 8 0x01 none, .vget 8 3 false none] ]

/-- The hypotheses of LaneCompletes and LatchesPushed, which are the same, at a state. -/
def laneOk (s : State) (i : Instr) : Bool :=
  match laneForm s i with
  | some (_, x) => ready s {} (regCauses s (laneVops x) ++ x.more (me s)) && badLanes (issuing s) x (activeLanes s x) = []
  | none => false

theorem test_lanes_ready : all [ laneInstrs.length = 49, laneInstrs.all (laneOk ts) ] = true := by decide +kernel

/-- v0 holds lane + 5 and v4 holds 7 in every lane; p1 holds in lanes 0 to 31. -/
def lw : Warp :=
  { tw with v := [(0, (List.range 64).map fun l => w32 (l + 5)), (4, List.replicate 64 7#32)], p := [(1, 0xFFFFFFFF#64)] }
/-- What a lane instruction of latency 2 leaves in lanes 0 and 63 of v8 when its latency has passed. -/
def lands (i : Instr) (a b : W32) : Bool := go i (ws lw) fun t => vAt (me t) 102 8 0 = a && vAt (me t) 102 8 63 = b

/-- Expected values by hand from Table 10-2. -/
theorem test_lanes_values :
    all [ lands (.vadd .i32 la0) 12 75, lands (.vsub .n32 la0) 0xFFFFFFFE 61, lands (.vmin .i32 la0) 5 7, lands (.vmax .i32 la0) 7 68
        , lands (.vand .i32 la0) 5 4, lands (.vor .i32 la0) 7 71, lands (.vxor .i32 la0) 2 67, lands (.vshl .i32 la0) 640 8704
        , lands (.vmov la0) 5 68, lands (.voteBallot la0) 0xFFFFFFFF 0xFFFFFFFF ] = true := by decide +kernel

/-- With p1 as predicate only lanes 0 to 31 are written, and the write lands at its latency, not before (R79, R437). -/
theorem test_lanes_predicate :
    all [ go (.vadd .i32 ⟨8, 0, 4, some (.op ⟨false, 1⟩ false 0 false .none 0 0 false)⟩) (ws lw) fun t =>
            vAt (me t) 102 8 31 = 43 && vAt (me t) 102 8 32 = 0 && vAt (me t) 101 8 31 = 0 && stands t 20#64 ] = true := by decide +kernel

/-- The special-function instructions. -/
def sfuInstrs : List Instr := [.vrcp la0, .vrsq la0, .vsqrt la0, .vexp2 la0, .vlog2 la0, .vsin la0, .vcos la0, .vtanh la0]
/-- The hypotheses of the second clause of SpecialFunctions. -/
def sfuOk (s : State) (i : Instr) : Bool :=
  match sfuForm i with
  | some (_, x) => !sfuBusy s && ready s {} (regCauses s (laneVops x))
  | none => false

/-- 1.0 in v0: its reciprocal and its square root are 1.0, and it lands 10 aclk after the issue (R215). -/
theorem test_sfu :
    all [ sfuInstrs.all (sfuOk ts)
        , sfuBusy (putCore ts 0 { sfuUntil := 101 }) && (sfuForm (.vsin la0)).isSome
        , [Instr.vrcp la0, .vsqrt la0].all fun i => go i (ws { tw with v := [(0, List.replicate 64 0x3F800000#32)] }) fun t =>
            vAt (me t) 110 8 63 = 0x3F800000#32 && vAt (me t) 109 8 63 = 0 ] = true := by decide +kernel

/-- Slot 0 holds int8, and v0 and v4 hold the bytes 1 to 4. -/
def dotS : State :=
  ws { tw with v := [(0, List.replicate 64 0x04030201#32), (4, List.replicate 64 0x04030201#32)], fs := 8#64 :: List.replicate 7 0#64 }
/-- DOT.F32 and DOT.I32 of v0 and v4, added to v12, into v8. -/
def dotOk (b : Bool) : Bool :=
  let x := dotOp b la1
  let f := slotReg (issuing dotS) (laRm la1).toNat
  let e := (slotEf f).getD .fp32
  ready dotS {} (regCauses dotS (laneVops x)) && dotAccepts e && decide (slotZpm f ≠ 1) && (!b || intFmt e)

/-- The hypotheses of DotCompletes; 1 + 4 + 9 + 16 = 30, in all 64 lanes after 6 aclk (R220). -/
theorem test_dot :
    all [ dotOk true, dotOk false, go (.dot true la1) dotS fun t => vAt (me t) 106 8 63 = 30 && vAt (me t) 105 8 63 = 0 ] = true := by decide +kernel

/-- A packet of REP and a lane instruction: REP.3 with stride 1 on D, A and B, before VADD. -/
def repS : State := { ts with cur := { ts.cur with slots := [0x2C0C9200#32, 0x41061448#32, 0x080048C0#32] } }

/-- The hypotheses of RepCompletes, and the four iterations in v3 to v6. -/
theorem test_rep :
    all [ match decode (slotWord repS.cur 1) (some (slotWord repS.cur 2)) with
          | .ok i =>
            match repTarget (fun o => o) repS i with
            | some (_, x) => ready repS {} (repCauses repS i x 3 1 1 1 0)
                && badLanes (issuing (spendMe repS)) x (activeLanes (spendMe repS) x) = []
            | none => false
          | .error _ => false ] = true := by decide +kernel

/-! ### Uniform instructions, branches, waits, blocks, gangs, the end of threads -/

/-- Operands: D g8, A g2, B g3; and an immediate. -/
def ua0 : UaOp := ⟨8, 2, 3, none⟩
def uaI : UaOp := ⟨8, 2, 0, some ⟨none, true, 5⟩⟩

/-- One of each uniform instruction of fixed latency. -/
def uniInstrs : List Instr :=
  List.flatten
    [ [.uadd .n64 ua0, .usub .n64 ua0, .umul .i64 ua0, .umulh .n64 ua0, .udiv .n32 ua0, .urem .i32 ua0, .umin .i64 ua0, .umax .i64 ua0]
    , [.uand .n64 ua0, .uor .n64 ua0, .uxor .n64 ua0, .uandn .n64 ua0, .unot .n64 ua0, .uclz .n64 ua0, .upopc .n64 ua0]
    , [.ushl .n64 ua0, .ushr .n64 ua0, .usar .i64 ua0, .urot .n32 ua0, .ubfx .n64 ua0] ]
/-- The uniform instructions of uniForm. -/
def uniMore : List Instr :=
  List.flatten
    [ [.ubfi .n64 uaI, .umov ua0, .umovi .n64 uaI, .umovk uaI, .usel uaI, .uadr uaI, .ucmp .lt .n64 ua0, .qand 1 2 3 none, .qor 1 2 3 none]
    , [.qxor 1 2 3 none, .qmov 1 2 0 none, .qany 1 2 0 none, .qall 1 2 0 none, .qset 1 1 0 none, .srd 8 0x01 none, .ugetl 8 3 0 none] ]

/-- The hypotheses of UniformsComplete. -/
theorem test_uniform_ready :
    all [ ready ts {} [], uniInstrs.all fun i => (uniFn i).isSome
        , uniMore.all fun i => match uniForm ts i with | some u => ready ts {} u.causes | none => false ] = true := by decide +kernel

/-- g2 = 7, g3 = 2, q3 holds. -/
def uw : Warp := { tw with g := [(2, 7#64), (3, 2#64), (4, 1#64)], q := 8 }
/-- What a uniform instruction of latency 2 leaves in g8. -/
def gives (i : Instr) (v : Word) : Bool := go i (ws uw) fun t => gAt (me t) 102 8 = v && gAt (me t) 101 8 = 0

/-- Expected values by hand from Table 9-2; the latency of division is 36. -/
theorem test_uniform_values :
    all [ gives (.uadd .n64 ua0) 9, gives (.usub .n64 ua0) 5, gives (.umin .i64 ua0) 2, gives (.umax .i64 ua0) 7, gives (.uand .n64 ua0) 2
        , gives (.uor .n64 ua0) 7, gives (.uxor .n64 ua0) 5, gives (.ushl .n64 ua0) 28, gives (.ushr .n64 ua0) 1, gives (.umovi .n64 uaI) 5
        , go (.udiv .n64 ua0) (ws uw) (fun t => gAt (me t) 136 8 = 3 && gAt (me t) 135 8 = 0)
        , go (.ucmp .lt .n64 ⟨1, 3, 2, none⟩) (ws uw) (fun t => qAt (me t) 102 1 && !qAt (me t) 101 1) ] = true := by decide +kernel

/-- A table of two entries at 0x40, whose second leads to a PAD with its label 0xC3 at 0x90. -/
def tabMem : Mem :=
  memBlock (memBlock ptab 64 (bytesOf 4 2 ++ bytesOf 4 0xC3 ++ List.replicate 8 0#8 ++ bytesOf 4 100 ++ bytesOf 4 5)) 148 (bytesOf 4 0x8D0000C3)
/-- The same words in memory, g3 the index 1. -/
def brxS : State := { ws { tw with g := [(3, 1#64)] } with mem := tabMem }

/-- The branches: the hypotheses of LanesBranch, taken and not taken, and where the lanes go (R193 to R196, R225). -/
theorem test_branches :
    all [ go (.bra 3 none) (ws uw) (stands · 0x34#64), go (.bra 3 (some (some ⟨true, 3⟩))) (ws uw) (stands · 20#64)
        , go (.call 3 none) (ws uw) (fun t => stands t 0x34#64 && gAt (me t) 102 63 = 16#64)
        , go (.ret 9 none) (ws { uw with g := [(9, 0x50#64)] }) (stands · 0x54#64)
        , go (.loop 2 3 none) (ws uw) (fun t => stands t 0x34#64 && gAt (me t) 102 2 = 6#64)
        , go (.loop 4 3 none) (ws uw) (fun t => stands t 20#64 && gAt (me t) 102 4 = 0)
        , go (.br false 1 3) (ws lw) (fun t => stands t 0x34#64 && ((me t).pcs.any fun e => bit e.mask 63 && e.pc = 20#64))
        , match codeBytes brxS 64 6, codeBytes brxS 84 4, codeBytes brxS 148 4 with
          | some hd, some en, some p => 1 < leVal (hd.take 4) && leVal en = 5 && leVal p = 0x8D000000 + leVal (hd.drop 4)
          | _, _, _ => false
        , go (.brx 3 ⟨none, 4⟩) brxS (stands · 148#64)
        , !qgovHolds (issuing (ws uw)) (some ⟨true, 3⟩) && go (.brx 3 ⟨some ⟨true, 3⟩, 4⟩) (ws uw) (stands · 20#64) ] = true := by decide +kernel

/-- The hypotheses of RunsWait; the slot boundary and the wake time (R202, R203). -/
theorem test_waits :
    all [ ready ts ⟨true, true⟩ [], ready ts ⟨true, false⟩ (swrCauses 0x30)
        , go (.tsync none) ts (stands · 20#64 (some (.tsync 2000))), go (.sleep 500 none) ts (stands · 20#64 (some (.sleep 1500)))
        , go (.yield none) { ts with cores := [(0, { ports := [{ bound := some 0, nbound := 2 }, {}] })] }
            fun t => (portAt t 0 0).yielded = some 0 && (portAt t 0 0).bound = none
        , go (.swr 2 0x30 none) (ws uw) fun t => (me t).seed = 7#64
        , go (.swr 2 0x31 none) (ws uw) fun t => (me t).detected.length = 1 ] = true := by decide +kernel

/-- Blocks: 15 held, of a core with 2 free blocks (one for RFREE), a request pending, none. -/
def blkS (blocks free : Nat) (as : List AllocReq) : State :=
  { ws { tw with blocks := blocks, launched := 1 } with cores := [(0, { free := free, emerg := 3, allocs := as })] }

/-- The hypotheses of BlocksMove, each clause at its boundary. -/
theorem test_blocks :
    all [ ready (blkS 1 2 []) ⟨true, false⟩ (rallocCauses (me (blkS 1 2 [])) 2), ready (blkS 3 2 []) ⟨true, false⟩ (rfreeCauses (me (blkS 3 2 [])) 2)
        , go (.ralloc 2 none) (blkS 1 2 []) (fun t => (me t).blocks = 3 && (coreAt t 0).free = 0)
        , go (.ralloc 2 (some (some ⟨false, 3⟩))) (blkS 1 2 []) (fun t => (me t).blocks = 1 && (coreAt t 0).free = 2)
        , 3 ≤ everFree (settleMe (blkS 1 2 [])) 0 0 + 4
        , go (.ralloc 3 none) (blkS 1 2 []) (fun t => (coreAt t 0).allocs.length = 1 && stands t 20#64 (some .ralloc))
        , go (.ralloc 1 none) (blkS 1 2 [⟨9, 1, 1#64, 0⟩]) (fun t => (coreAt t 0).allocs.length = 2 && stands t 20#64 (some .ralloc))
        , go (.rfree 2 none) (blkS 3 2 []) (fun t => (me t).blocks = 1 && (coreAt t 0).emerg = 4 && (coreAt t 0).free = 3)
        , go (.rfree 2 (some (some ⟨false, 3⟩))) (blkS 3 2 []) (fun t => (me t).blocks = 3) ] = true := by decide +kernel

/-- Warps 0 and 1 of a team of two; g2 names the gang of both, g3 a list that leaves the warp out. -/
def gangS : State :=
  { ws { tw with g := [(2, 0x02000010#64), (3, 0x02000021#64)] } with
    teams := [(0, { nwarps := 3, tileb := 4096 })], warps := [(0, { tw with g := [(2, 0x02000010#64), (3, 0x02000021#64)] }), (1, { tw with wid := 1 })] }

/-- The hypotheses of GangWrites: a proper list and one that leaves the warp out (R200). -/
theorem test_gang :
    all [ ready gangS ⟨true, true⟩ [] && qpredHolds (issuing gangS) none
        , !gangBad 3 0 (greg (issuing gangS) 2) && go (.gang 2 none) gangS fun t => (me t).gang = 0x02000010#32
        , gangBad 3 0 (greg (issuing gangS) 3) && go (.gang 3 none) gangS fun t =>
            (me t).gang = 0 && (me t).detected.length = 1 ] = true := by decide +kernel

/-- EXIT and TRAP: their hypotheses, with the predicate true and false (R196, R204). -/
theorem test_exit_trap :
    all [ go (.exit none) ts (fun t => (me t).exited && (me t).pcs = []), go (.exit (some (some ⟨false, 3⟩))) ts (stands · 20#64)
        , go (.exit none) { ts with cur := { ts.cur with mask := 1#64 } } (fun t => !(me t).exited && !((me t).pcs.any fun e => bit e.mask 0))
        , go (.trap 9 none) ts (fun t => (me t).detected.map (fun d => (d.pc, d.resume, d.lanes.length)) = [(4#64, 20#64, 64)])
        , go (.trap 9 (some (some ⟨false, 3⟩))) ts (fun t => (me t).detected = [] && stands t 20#64) ] = true := by decide +kernel

/-- CausesStopTheRun: of two causes the lower strikes (R363). -/
theorem test_causes :
    all [ lowest (stage1 ts ++ [(0x10, 8#64), (0x0C, 5#64)]) = some (0x0C, 5#64), pendB ts && !ts.cur.inHandler ] = true := by decide +kernel

/-! ### Trap handlers -/

/-- A write of n bytes succeeds where every page of it can be written, and leaves every other place alone. -/
theorem writeVa_ok (s : State) (ctx : Nat) (va : Word) (bs : List Byte) (p : Nat → Prop)
    (h : ∀ k, k < bs.length → ∃ pa e, xlate s ctx .write (va + w64 k) = .ok pa e ∧ p pa) :
    ∃ m, writeVa s ctx va bs = .ok { s with mem := m } ∧ ∀ a, ¬ p a → memByte m a = memByte s.mem a := by
  unfold writeVa
  suffices ∀ (ks : List Nat) (m : Mem), (∀ k ∈ ks, k < bs.length) → ∃ m', ks.foldl (fun acc k =>
      match acc with
      | .error e => .error e
      | .ok t =>
        match xlate s ctx .write (va + w64 k) with
        | .ok pa _ => .ok { t with mem := memPut t.mem pa (bs.getD k 0#8) }
        | .wait l => .error (0x30, w64 l)
        | .bad c y => .error (c, y)) (Except.ok (ε := Nat × Word) { s with mem := m }) = .ok { s with mem := m' }
      ∧ ∀ a, ¬ p a → memByte m' a = memByte m a by
    exact this _ s.mem fun k hk => List.mem_range.mp hk
  intro ks
  induction ks with
  | nil => exact fun m _ => ⟨m, rfl, fun _ _ => rfl⟩
  | cons k ks ih =>
    intro m hk
    obtain ⟨pa, e, hx, hp⟩ := h k (hk k (by simp))
    obtain ⟨m', hm, ho⟩ := ih (memPut m pa (bs.getD k 0#8)) fun j hj => hk j (by simp [hj])
    refine ⟨m', by simp only [List.foldl_cons, hx]; exact hm, fun a ha => ?_⟩
    rw [ho a ha, memByte_memPut, if_neg]
    rintro rfl
    exact ha hp

/-- With no waiter registered and no line placed a store of n bytes succeeds where every page of it can be written. -/
theorem storeVa_ok (s : State) (ctx : Nat) (va : Word) (bs : List Byte) (p : Nat → Prop) (hw : s.watches = []) (hl : s.lines = [])
    (h : ∀ k, k < bs.length → ∃ pa e, xlate s ctx .write (va + w64 k) = .ok pa e ∧ p pa) :
    ∃ m, storeVa s ctx va bs = .ok { s with mem := m } ∧ ∀ a, ¬ p a → memByte m a = memByte s.mem a := by
  obtain ⟨m, hm, ho⟩ := writeVa_ok s ctx va bs p h
  refine ⟨m, ?_, ho⟩
  have hf (u : State) (hu : u.lines = []) : freshVa u ctx va bs.length = u := by
    unfold freshVa
    suffices ∀ ks : List Nat, ks.foldl (fun t k =>
        match xlate u ctx .write (va + w64 k) with
        | .ok pa _ => dropReplicas t (lineOf pa)
        | _ => t) u = u by exact this _
    intro ks
    induction ks with
    | nil => rfl
    | cons k ks ih =>
      simp only [List.foldl_cons]
      split
      · simp only [dropReplicas, lineAt, hu, afind]; exact ih
      · exact ih
  have ht : evalWatches (freshVa { s with mem := m } ctx va bs.length) = { s with mem := m } := by
    rw [hf { s with mem := m } hl]
    simp only [evalWatches, hw, List.filter_nil, List.foldl_nil]
  simp only [storeVa, hm, ht]

/-- The page tables of the small states stand in a memory. -/
def holdsPtab (m : Mem) : Prop := ∀ a, 65536 ≤ a → memByte m a = memByte ptab a

/-- Translation in page 0 of the small states. -/
theorem xlate_page0 (s : State) (va : Word) (hm : holdsPtab s.mem) (hr : (aget ({} : Ctx) s.ctxs 0).root = 0x100000) (hp : s.poison = [])
    (hd : s.devnum = 0) (hb : s.dtbytes = 0) (hv : va.toNat < 65536) :
    xlate s 0 .read va = .ok va.toNat 0x1F#64 ∧ xlate s 0 .write va = .ok va.toNat 0x1F#64 := by
  have hc : canonical va = true := by simp [canonical]; omega
  have h0 : levelIndex 0 va.toNat = 0 := by simp [levelIndex]; omega
  have h1 : levelIndex 1 va.toNat = 0 := by simp [levelIndex]; omega
  have h2 : levelIndex 2 va.toNat = 0 := by simp [levelIndex]; omega
  have h3 : levelIndex 3 va.toNat = 0 := by simp [levelIndex]; omega
  have h4 : levelIndex 4 va.toNat = 0 := by simp [levelIndex]; omega
  have hz (a : Nat) (ha : 65536 ≤ a) : memVal s.mem a 8 = memVal ptab a 8 := by
    simp only [memVal, memBytes]
    congr 1
    exact List.map_congr_left fun k _ => hm _ (by omega)
  have hw : walk s.mem s.poison (aget ({} : Ctx) s.ctxs 0).root va.toNat = .leaf 0x1F#64 16 := by
    have e0 : memVal ptab 0x100000 8 = 0x101001 := by decide
    have e1 : memVal ptab 0x101000 8 = 0x102001 := by decide
    have e2 : memVal ptab 0x102000 8 = 0x103001 := by decide
    have e3 : memVal ptab 0x103000 8 = 0x104001 := by decide
    have e4 : memVal ptab 0x104000 8 = 0x1F := by decide
    have f0 : (fld (w64 0x101001) 12 39).toNat * 4096 = 0x101000 := by decide
    have f1 : (fld (w64 0x102001) 12 39).toNat * 4096 = 0x102000 := by decide
    have f2 : (fld (w64 0x103001) 12 39).toNat * 4096 = 0x103000 := by decide
    have f3 : (fld (w64 0x104001) 12 39).toNat * 4096 = 0x104000 := by decide
    have g : leafMalformed 4 (w64 0x1F) (w64 (memVal s.mem (0x104000 + 8 * (0 ^^^ 1)) 8)) = false := by
      rw [hz _ (by decide)]; decide
    simp only [walk, hr, hp, walkFrom, h0, h1, h2, h3, h4, Nat.mul_zero, Nat.add_zero, hz _ (by decide : 65536 ≤ 0x100000), e0, f0,
      hz _ (by decide : 65536 ≤ 0x101000), e1, f1, hz _ (by decide : 65536 ≤ 0x102000), e2, f2, hz _ (by decide : 65536 ≤ 0x103000), e3, f3,
      hz _ (by decide : 65536 ≤ 0x104000), e4, g,
      hz _ (by decide : 65536 ≤ 0x100000 + 8 * (0 ^^^ 1)), hz _ (by decide : 65536 ≤ 0x101000 + 8 * (0 ^^^ 1)),
      hz _ (by decide : 65536 ≤ 0x102000 + 8 * (0 ^^^ 1)), hz _ (by decide : 65536 ≤ 0x103000 + 8 * (0 ^^^ 1))]
    decide
  have hs : smallLeaf 0x1F#64 va.toNat 16 = 0x1F#64 := by
    have : va.toNat % 2 ^ 16 / 65536 = 0 := by omega
    simp only [smallLeaf, this]; decide
  have hq : leafPa 0x1F#64 va = va.toNat := by
    have : (fld 0x1F#64 16 35).toNat = 0 := by decide
    simp [leafPa, this]; omega
  have ht : tierOf va.toNat = .hbm := by simp [tierOf]; omega
  have d0 : leafDev 0x1F#64 = 0 := by decide
  have hR : leafR 0x1F#64 = true := by decide
  have hW : leafW 0x1F#64 = true := by decide
  have hi : inTree s va.toNat = false := by simp [inTree, hb]
  constructor <;> simp [xlate, hc, hw, hs, leafCauses, hq, ht, d0, hd, hR, hW, hi, routed, lowest]

/-- A read of n bytes succeeds where every page of it can be read and nothing is poisoned. -/
theorem readVa_ok (s : State) (ctx : Nat) (va : Word) (n : Nat) (hp : s.poison = [])
    (h : ∀ k, k < n → ∃ pa e, xlate s ctx .read (va + w64 k) = .ok pa e) : ∃ bs, readVa s ctx va n = .ok bs := by
  unfold readVa
  suffices ∀ ks : List Nat, (∀ k ∈ ks, k < n) → ∃ bs, ks.foldr (fun k acc =>
      match acc with
      | .error e => .error e
      | .ok bs =>
        match xlate s ctx .read (va + w64 k) with
        | .ok pa _ => if s.poison.contains (lineOf pa) then .error (0x24, w64 (domainAddr s.devnum pa))
                      else .ok (memByte s.mem pa :: bs)
        | .wait l => .error (0x30, w64 l)
        | .bad c y => .error (c, y)) (Except.ok (ε := Nat × Word) []) = .ok bs by
    exact this _ fun k hk => List.mem_range.mp hk
  intro ks
  induction ks with
  | nil => exact fun _ => ⟨[], rfl⟩
  | cons k ks ih =>
    intro hk
    obtain ⟨bs, hb⟩ := ih fun j hj => hk j (by simp [hj])
    obtain ⟨pa, e, hx⟩ := h k (hk k (by simp))
    exact ⟨memByte s.mem pa :: bs, by simp only [List.foldr_cons, hb, hx]; simp [hp]⟩

/-- A context with a trap area of two frames at 0x8000 and a handler at 0x2000; lane 3 has met a TRAP at 0x44. -/
def trapDet : Detected := { pc := 0x44#64, lanes := [⟨3, 0x00, none, 7#64⟩], resume := 0x48#64, seq := 1, time := 900 }
def trapS : State :=
  { ws { tw with detected := [trapDet], g := [(60, 5#64)] } with
    ctxs := [(0, { cx0 with tarea := 0x8000, tasize := 16384, hentry := 0x2000, hmask := 0xFFF })] }
/-- The same context with the warp in handler mode for lane 3, its frame the first, about to issue the handler's instruction. -/
def eretS : State :=
  { trapS with
    ctxs := [(0, { ctxAt trapS 0 with frames := [0] })]
    warps := [(0, { tw with handler := some { f := 8#64, runs := [{ pc := 0x2004#64, mask := 8#64 }], frame := 0, depth := 0, held := false, pix := 0#32 } })]
    cur := { ts.cur with inHandler := true, pkt := 0x2000#64, mask := 8#64 } }

theorem test_fault_taken :
    all [ (me trapS).detected = [trapDet], entersHandler (ctxAt trapS 0) trapDet.lanes, loadsDone trapS 0, freeFrame (ctxAt trapS 0) = some 0
        , frameVa (ctxAt trapS 0) 0 = 0x8000#64, (lowestLane trapDet.lanes).cause = 0 ] = true := by decide +kernel

/-- The stores of FaultEntersHandler succeed at that state. -/
theorem test_fault_frame : ∃ s1 s2,
    storeVa (putWarp trapS 0 (forgetWalks (me trapS))) 0 (frameVa (ctxAt trapS 0) 0)
      (frameBytes (faultRecord trapS 0 trapDet 1 0 false true) { trapDet with pix := pixAt (settleAll (me trapS)) trapDet }
        (settleAll (me trapS)) false 0) = .ok s1
    ∧ storeVa s1 0 (frameVa (ctxAt trapS 0) 0 + 0x1000#64) (frameLatches (settleAll (me trapS))) = .ok s2 := by
  have hv : frameVa (ctxAt trapS 0) 0 = 0x8000#64 := by decide +kernel
  have h1 : (frameBytes (faultRecord trapS 0 trapDet 1 0 false true) { trapDet with pix := pixAt (settleAll (me trapS)) trapDet }
      (settleAll (me trapS)) false 0).length = 832 := by decide +kernel
  have h2 : (frameLatches (settleAll (me trapS))).length = 4096 := by decide +kernel
  rw [hv]
  have key (u : State) (va : Word) (bs : List Byte) (hm : holdsPtab u.mem) (hw : u.watches = []) (hl : u.lines = [])
      (hc : (aget ({} : Ctx) u.ctxs 0).root = 0x100000) (hp : u.poison = []) (hd : u.devnum = 0) (hb : u.dtbytes = 0)
      (hn : va.toNat + bs.length ≤ 65536) :
      ∃ m, storeVa u 0 va bs = .ok { u with mem := m } ∧ holdsPtab m := by
    obtain ⟨m, h, ho⟩ := storeVa_ok u 0 va bs (· < 65536) hw hl fun k hk => by
      have hv : (va + w64 k).toNat = va.toNat + k := by simp [w64]; omega
      exact ⟨_, _, (xlate_page0 u _ hm hc hp hd hb (by omega)).2, by omega⟩
    exact ⟨m, h, fun a ha => (ho a (by omega)).trans (hm a ha)⟩
  obtain ⟨m1, e1, hm1⟩ := key (putWarp trapS 0 (forgetWalks (me trapS))) 0x8000#64 _ (fun _ _ => rfl) rfl rfl rfl rfl rfl rfl
    (by rw [h1]; decide)
  obtain ⟨m2, e2, -⟩ := key { putWarp trapS 0 (forgetWalks (me trapS)) with mem := m1 } (0x8000#64 + 0x1000#64)
    (frameLatches (settleAll (me trapS))) hm1 rfl rfl rfl rfl rfl rfl (by rw [h2]; decide)
  exact ⟨_, _, e1, e2⟩

/-- The hypotheses of EretReturns; outside a handler ERET meets cause 0x0D. -/
theorem test_eret :
    all [ ready eretS {} [], (me eretS).handler.isSome, !storesPending (settleMe eretS) 0 8#64
        , go .eret ts fun t => (me t).detected.map (fun d => (d.lanes.headD ⟨0, 0, none, 0⟩).cause) = [0x0D] ] = true := by decide +kernel

/-- The frame of EretReturns can be read at that state. -/
theorem test_eret_frame : ∃ bs ls, readVa eretS (myTeam eretS).ctx (frameVa (myCtx eretS) 0) 0x100 = .ok bs
    ∧ readVa eretS (myTeam eretS).ctx (frameVa (myCtx eretS) 0 + 0x1000#64) 4096 = .ok ls := by
  have hv : frameVa (myCtx eretS) 0 = 0x8000#64 := by decide +kernel
  have hc : (myTeam eretS).ctx = 0 := by decide +kernel
  rw [hv, hc]
  obtain ⟨bs, hb⟩ := readVa_ok eretS 0 0x8000#64 0x100 rfl
    (fun k hk => ⟨_, _, (xlate_page0 _ _ (fun _ _ => rfl) rfl rfl rfl rfl (by simp [w64]; omega)).1⟩)
  obtain ⟨ls, hl⟩ := readVa_ok eretS 0 (0x8000#64 + 0x1000#64) 4096 rfl
    (fun k hk => ⟨_, _, (xlate_page0 _ _ (fun _ _ => rfl) rfl rfl rfl rfl (by simp [w64]; omega)).1⟩)
  exact ⟨bs, ls, hb, hl⟩

/-- A launch record at 0x200: one team of 64 threads. -/
def launchRec (v : Nat) : List Byte :=
  bytesOf 1 v ++ bytesOf 1 0 ++ bytesOf 2 256 ++ bytesOf 1 4 ++ bytesOf 1 1 ++ bytesOf 2 0 ++ bytesOf 4 1 ++ bytesOf 2 1 ++ bytesOf 2 1 ++ bytesOf 2 64 ++ bytesOf 2 1 ++ bytesOf 2 1
    ++ bytesOf 2 0 ++ List.replicate 8 0#8 ++ bytesOf 8 0x100
def launchS (v : Nat) (full : Bool) : State :=
  { ws { tw with g := [(3, 0x200#64)] } with
    mem := memBlock ptab 0x200 (launchRec v)
    ctxs := [(0, { cx0 with
                   grids := (List.range (if full then gridEntries else 1)).map fun k => { entry := k, serial := 7, record := [], started := true } })] }

/-- The hypotheses of LaunchCreates, and the first two statuses (R201). -/
theorem test_launch :
    all [ ready (launchS 1 false) ⟨true, true⟩ [] && (me (launchS 1 false)).wid = 0
            && translate (launchS 1 false) 0 .read 0x200 = .ok 0x200 0x1F#64 && translate (launchS 1 false) 0 .read 0x2FF = .ok 0x2FF 0x1F#64
            && (gridOf (ctxAt (launchS 1 false) 0) 0).isSome
        , go (.launch 7 3 none) (launchS 1 false) fun t => gAt (me t) 100 7 = 0 && (ctxAt t 0).grids.map (·.children) = [1, 0]
        , go (.launch 7 3 none) (launchS 2 false) fun t => gAt (me t) 100 7 = 1 && (ctxAt t 0).grids.length = 1 ] = true := by decide +kernel

/-- Every grid entry of that context is in use: the third status. -/
theorem test_launch_full : freeEntry (ctxAt (launchS 1 true) 0) = none ∧ recordBad (launchS 1 true) (ctxAt (launchS 1 true) 0) (launchRec 1) = none := by
  constructor
  · simp only [freeEntry, List.find?_eq_none, List.mem_range]
    intro e he
    have : (gridOf (ctxAt (launchS 1 true) 0) e).isSome = true := by
      simp only [gridOf, List.find?_isSome]
      exact ⟨{ entry := e, serial := 7, record := [], started := true }, by simp [launchS, ws, ctxAt, aget, he], by simp⟩
    simp [Option.isNone_iff_eq_none, Option.isSome_iff_ne_none] at this ⊢
    exact this
  · decide +kernel

/-! ### The issue of memory accesses -/

/-- D v8, address g4 (0x100), flag 1; in memory and in the tile store. -/
def lm0 : LmOp := ⟨8, 0, 0, ⟨false, 0⟩, false, 4, false, .none, 0, .plain, 1, 0⟩
def lmB : LmOp := { lm0 with b := 16 }
def lmT : LmOp := { lm0 with d := 0, ts := true, b := 16 }
/-- The same with a governing predicate that no lane meets. -/
def lmN : LmOp := { lm0 with gov := ⟨true, 0⟩ }
def um0 : UmExt := ⟨none, 0, .plain, 1, 0⟩

/-- One of each memory instruction that leaves one access. -/
def memInstrs : List Instr :=
  List.flatten
    [ [.ld .n32 lm0, .ld .i8 lmN, .st .n64 lm0, .ldg 1 lm0, .stg 1 lm0, .atom .add .n32 lmB, .atom .cas .n64 lmB, .red .add .n32 { lmB with d := 0 }]
    , [.waitadd .n32 lmB, .waitw .eq .n32 { lmB with d := 0 }, .cctlUnpin { lm0 with d := 0 }, .cctlPin { lm0 with d := 0 }]
    , [.cctlEvict { lm0 with d := 0 }, .cctlPrefetch { lm0 with d := 0 }, .mbarInit lmT, .mbarExp lmT, .mbarArv lmT]
    , [.uld .n32 8 4 um0, .ust .n32 8 4 um0] ]
/-- g4 holds 0x100. -/
def mS : State := ws { tw with g := [(4, 0x100#64)] }
/-- Every lane of a memory instruction passes the checks of stage 4. -/
def reachB (s : State) (x : MemInstr) (inTx : Bool) : Bool :=
  (x.lanes (settleMe s)).all fun l => match reachLane (settleMe s) s.cur.warp x.form inTx l (x.addr (settleMe s) l) with | .ok _ => true | _ => false
/-- The hypotheses of MemoryIssues. -/
def memOk (s : State) (i : Instr) : Bool :=
  match memForm s i with
  | some x => ready s x.ban x.causes && !crowded (settleMe s) x.acc.flag && (me s).tx = none && reachB s x false
  | none => false
/-- A memory instruction leaves one access of n lanes, its flag counts one, and the run goes on. -/
def leaves (i : Instr) (n : Nat) : Bool :=
  go i mS fun t => t.accs.map (fun a => a.2.lanes.length) = [n] && flagCount (me t) 1 = 1 && stands t 20#64

theorem test_memory_ready : all [ memInstrs.all (memOk mS) ] = true := by decide +kernel

/-- Each leaves its access; with no active lane none is left; WAITADD holds its run; a relaxed RED counts on no flag (R229, R237). -/
theorem test_memory_issue :
    all [ leaves (.ld .n32 lm0) 64, leaves (.st .n64 lm0) 64, leaves (.mbarArv lmT) 64, leaves (.uld .n32 8 4 um0) 1
        , go (.ld .n32 lmN) mS fun t => t.accs = [] && stands t 20#64
        , go (.waitadd .n32 lmB) mS fun t => stands t 20#64 none (some 1)
        , go (.red .add .n32 { lmB with d := 0 }) mS fun t => t.accs.length = 1 && flagCount (me t) 1 = 0
        , go (.ld .n32 { lm0 with b := 1, d := 8 }) { mS with tlb := [] } fun t => t.cur.held && (me t).walks.length = 1
        , go (.ld .n32 lm0) { mS with tlb := [tlb0 0 0x1B#64] } fun t => (me t).detected.map (fun d => (d.lanes.headD ⟨0, 0, none, 0⟩).cause) = [0x31] ] = true := by decide +kernel

/-- An open instance over every lane at a depth, and one entry of its store buffer. -/
def tx0 (g : Bool) (d : Nat) : Tx :=
  { global := g, tt := false, ww := false, target := 0x80#64, depth := (List.range 64).map fun l => (l, d), ckV := [(8, List.replicate 64 5#32)], ckP := [],
    ckG := [], ckQ := 0, ckQl := List.replicate 8 {}, opened := 0
    stores := [{ slot := 0, lane := 3, ts := false, addr := 0x100, pa := 0x100, mask := 1, data := 9#8 :: List.replicate 15 0#8, order := 0 }] }
/-- The same state in the instance. -/
def txS (g : Bool) (d : Nat) : State := setMe mS { me mS with tx := some (tx0 g d) }

/-- The hypotheses of RegionBuffers: a store that every lane's entry takes, and a load that sees the buffered byte (R244, R151). -/
theorem test_region_buffers :
    all [ let s := txS true 1
          let x := stInstr s .n32 lm0
          ready s x.ban x.causes && reachB s x true && (x.lanes (settleMe s)).all (fun l => (afind (tx0 true 1).depth l).isSome)
            && (bufferStores (tx0 true 1) false ((List.range 64).map fun l => { lane := l, va := 0x100#64, data := [1#8, 2#8, 3#8, 4#8] })).2 = 0#64
        , let s := txS true 1
          let x := ldInstr s .n32 lm0
          ready s x.ban x.causes && reachB s x true
        , go (.st .n32 lm0) (txS true 1) fun t => t.accs = [] && ((me t).tx.map fun x => (x.stores.length, x.reads.length)) = some (64, 0)
        , go (.ld .n32 lm0) (txS true 1) fun t => (t.accs.map fun a => a.2.lanes.map fun l => l.data.headD 0#8) = [(List.range 64).map fun l => if l = 3 then 9#8 else 0#8]
            && ((me t).tx.map fun x => x.reads.length) = some 64
        , let s := { txS true 1 with tlb := [], fqueue := [{ ctx := 0, page := 0, seq := 1, since := 0 }] }
          let s := setMe s { me s with walkBad := [(0, 0x30, 4)] }
          reachB s (stInstr s .n32 lm0) true && go (.st .n32 lm0) s fun t => t.cur.held && t.accs = [] && ((me t).tx.map fun x => x.stores.length) = some 1 ] = true := by decide +kernel

/-- A sequence at 0x400: ESZ 16, NHEAD 1, its map at 0x800 with one resident chunk at 0x900, its data at 0x20000, CLEN = RLEN = n. -/
def seqMem (n : Nat) : Mem :=
  let put := fun (m : Mem) (a : Nat) (xs : List (Nat × Nat)) => memBlock m a (xs.flatMap fun x => bytesOf x.1 x.2)
  put (put (put (put ptab 0x400 [(1, 1), (1, 4), (2, 1), (4, 0), (8, 0x800), (8, 2), (8, n), (8, n)]) 0x800 [(8, 0x901)])
    0x900 [(8, 0x20000), (4, 1), (1, 0), (1, 1)]) 0x20000 [(4, 11), (4, 12), (4, 13), (4, 14), (4, 21)]
/-- g3 names the sequence, v8 counts 1, v10 asks for element 1 and v12 for head 0; two lanes run. -/
def seqS (n : Nat) : State :=
  { ws { tw with g := [(3, 0x400#64)], v := [(8, List.replicate 64 1#32), (10, List.replicate 64 1#32)] } with
    mem := seqMem n, lines := [8, 16, 18, 0x400].map fun l => (l, {}), tlb := ts.tlb ++ [tlb0 2 0x2001F#64], cur := { ts.cur with mask := 3#64 } }
def lmS : LmOp := ⟨20, 0, 8, ⟨false, 0⟩, false, 3, false, .none, 0, .plain, 1, 0⟩
def lmC : LmOp := ⟨0, 12, 8, ⟨false, 0⟩, false, 3, false, .none, 4, .release, 1, 0⟩
def lmL : LmOp := ⟨20, 10, 12, ⟨false, 0⟩, false, 3, false, .none, 0, .plain, 1, 0⟩
/-- The hypotheses of the first clause of SequencesIssue. -/
def seqOk (i : Instr) : Bool :=
  match seqForm (seqS 4) i with
  | some x => ready (seqS 4) x.ban x.causes && reachB (seqS 4) x false && !crowded (settleMe (seqS 4)) x.acc.flag
  | none => false

/-- The sequence instructions send their requests; BIND of address 0 needs none (R251 to R258). -/
theorem test_sequences_issue :
    all [ [Instr.seqRes lmS, .seqCmt lmC].all seqOk
        , go (.seqRes lmS) (seqS 4) fun t => t.squ.map (fun r => (r.desc, r.lane, r.count)) = [(0x400, some 0, 1), (0x400, some 1, 1)]
        , [Instr.seqBind 1 3 um0, .seqLen 8 3 um0, .seqFork 8 3 3 um0, .seqDrop 8 3 um0].all fun i => (seqUniForm (seqS 4) i).isSome
            && go i (seqS 4) fun t => t.squ.length = 1 && stands t 20#64 none (some 1)
        , translate (settleMe (seqS 4)) 0 .read 0x400#64 = .ok 0x400 0x1F#64
        , go (.seqBind 1 9 um0) (seqS 4) fun t => t.squ = [] && stands t 20#64
        , go (.seqLen 8 3 { um0 with gov := some ⟨false, 3⟩ }) (seqS 4) fun t => t.squ = [] && stands t 20#64 ] = true := by decide +kernel

/-- The same, the reticle knowing the homes of the lines. -/
def knownS (n : Nat) : State := { seqS n with retics := [(0, { hints := [8, 16, 18, 0x400].map fun l => (l, 0) })] }

/-- The hypotheses of LdsIssues: with lanes that are resolved, to an element and to a status, and with none (R132, R234). -/
theorem test_lds :
    all [ let s := seqS 2
          ready s {} (regCauses s [vdst lmL.d 1, vgroup (ldsStat lmL 4) 1, vsrc lmL.a 2, vsrc lmL.b 1]) && accsOf s 0 = [] && regionLanes s = 0#64 && !acqPending s 0 3#64
            && translate (settleMe s) 0 .read 0x400#64 = .ok 0x400 0x1F#64
            && (match attached (settleMe s) 0 0x400#64 with
                | .ok (_, u) => [0, 1].all fun l => ldsWhole (ldsOf u lmL 4 0x400#64 l).2
                | .error _ => false)
        , go (.lds .n32 lmL) { knownS 2 with seqs := [(0x400, { clen := 2, rlen := 2 })] } fun t => t.accs.map (fun a => a.2.lanes.map fun l => (l.pas, l.done)) = [[([0x20010], false), ([0x20010], false)]]
        , go (.lds .n32 lmL) { knownS 1 with seqs := [(0x400, { clen := 1, rlen := 1 })] } fun t => t.accs.map (fun a => a.2.lanes.map fun l => (l.stat, l.done)) = [[(1, true), (1, true)]]
        , go (.lds .n32 { lmL with gov := ⟨true, 0⟩ }) (seqS 2) fun t => t.accs = [] && stands t 20#64 ] = true := by decide +kernel

/-- A store of lane 0 outstanding. -/
def pendS : State := { mS with accs := [(9, { id := 9, warp := 0, kind := .store, lanes := [{ lane := 0, pas := [0x100], va := 0x100#64 }] })] }
def lmW : LmOp := ⟨0, 0, 16, ⟨false, 0⟩, true, 4, false, .none, 0, .plain, 0, 0⟩

/-- The hypotheses of OrderWaits: fences with nothing and with a store outstanding; MBAR.WAIT of a round over and one that runs. -/
theorem test_order :
    all [ [Instr.fenceAcq 4, .fenceRel 4, .fenceAr 4, .fenceFull 4].all fun i => (fenceForm i).isSome && go i mS (stands · 20#64)
        , go (.fenceRel 4) pendS fun t => t.cur.held && stands t 4#64, go (.fenceAcq 4) pendS (stands · 20#64)
        , go (.fenceRel 4) { mS with lines := [(3, { state := .collapsing, acks := [1] })] } fun t => t.cur.held
        , ready mS ⟨true, false⟩ (regCauses mS [vsrc 16 1])
        , go (.mbarWait lmW) mS fun t => (me t).pcs.any fun e => match e.park with | some (.mbar ls) => ls.length = 64 | _ => false
        , go (.mbarWait lmW) (setMe mS { me mS with v := [(16, List.replicate 64 1#32)] }) (stands · 20#64) ] = true := by decide +kernel

/-! ### Rendezvous and TRY regions -/

/-- Warp 0 of a team of two; warp 1 stands parked at point 1 or not; the point's count. -/
def barS (parked : Bool) (n : Option (Nat × Bool)) : State :=
  { ts with
    teams := [(0, { nwarps := 2, tileb := 4096, bars := [{}, { phase := 4, count := n }] })]
    warps := [(0, { tw with v := [(2, List.replicate 64 2#32)] })
             , (1, { tw with wid := 1, pcs := [{ pc := 0x94#64, mask := allL, park := if parked then some (.bar 1 0x44#64) else none }] })] }

/-- The hypotheses of BarsArrive; the first to arrive parks, the second completes the phase (R45, R46, R240). -/
theorem test_bars :
    all [ ready (barS true none) ⟨true, true⟩ (barCauses (barS true none) 1), ready (barS true none) ⟨true, true⟩ (barCauses (barS true none) 1 ++ regCauses (barS true none) [vsrc 2 1])
        , accsDone (barS true none) 0 allL fun _ => true
        , go (.bar 1) (barS false none) fun t => (me t).pcs.any (fun e => e.park = some (.bar 1 4#64)) && (barPoint (teamAt t 0) 1).phase = 4
        , go (.bar 1) (barS true none) fun t => (me t).pcs.all (fun e => e.park = none) && (barPoint (teamAt t 0) 1).phase = 5
        , go (.barCnt 1 2) (barS true none) fun t => (barPoint (teamAt t 0) 1).phase = 5, fixedCount (barS true none) 1 = 0
        , go (.barArv 1) (barS true none) fun t => stands t 20#64 && (barPoint (teamAt t 0) 1).phase = 5 && (warpAt t 1).pcs.all fun e => e.park = none ] = true := by decide +kernel

/-- The hypotheses of RendezvousCompletes: as many arrived as the count says, and fewer. -/
theorem test_rendezvous :
    all [ (barPoint (teamAt (checkPoint (barS true (some (1, false))) 0 1) 0) 1) = { phase := 5, count := none, marked := [] }
        , checkPoint (barS true (some (2, false))) 0 1 = barS true (some (2, false)), 1 < (teamAt (barS true none) 0).bars.length
        , warpArrived (warpAt (barS true none) 1) (barPoint (teamAt (barS true (some (1, false))) 0) 1) 1 ] = true := by decide +kernel

/-- The hypotheses of RegionsOpen: no instance, one over the run, one over other lanes; an inner and an ending COMMIT (R243, R247). -/
theorem test_regions_open :
    all [ ready mS ⟨false, true⟩ [], ready (txS true 2) ⟨false, true⟩ (commitCauses (txS true 2) 4), ready (txS false 1) ⟨false, true⟩ (commitCauses (txS false 1) 2)
        , go (.tryG false false 4) mS fun t => ((me t).tx.map fun x => (x.global, x.depth.length)) = some (true, 64) && stands t 20#64
        , go (.tryL false 4) mS fun t => ((me t).tx.map fun x => x.global) = some false
        , (tx0 true 6).depth.all (fun d => d.2 < 7) && go (.tryG false false 4) (txS true 6) fun t => ((me t).tx.map fun x => aget 0 x.depth 3) = some 7
        , let s := setMe mS { me mS with tx := some { tx0 true 1 with depth := [] } }
          go (.tryG false false 4) s fun t => stands t 0x44#64 && aget 0#32 (me t).tstat 5 = tstatVal 8 0 0 && (me t).latches = []
        , go (.commitG 4) (txS true 2) fun t => ((me t).tx.map fun x => aget 0 x.depth 3) = some 1 && stands t 20#64
        , go (.commitG 4) (txS true 1) (stands · 20#64 (some (.commit true 4))), go (.commitL 2) (txS false 1) (stands · 20#64 (some (.commit false 2))) ] = true := by decide +kernel

/-- The hypotheses of RegionsAbort: in an instance, in none, and the reads of TSTAT and of an entry of the store buffer (R246 to R250). -/
theorem test_regions_abort :
    all [ ready (txS true 1) {} [] && (me (txS true 1)).handler = none && (tx0 true 1).depth.all fun d => d.1 < 64
        , go (.abort 0x55) (txS true 1) fun t => (me t).tx = none && stands t 0x80#64 && vAt (me t) 100 8 63 = 5 && aget 0#32 (me t).tstat 63 = tstatVal 1 0x55 1
        , go (.abort 0x55) mS (stands · 20#64), ready mS {} (regCauses mS [vdst 8 1]), ready mS {} (regCauses mS [vdst 8 4, vsrc 0 1])
        , go (.tstat 8) (setMe mS { me mS with tstat := [(63, 7#32)] }) fun t => vAt (me t) 100 8 63 = 7 && vAt (me t) 100 8 0 = 0
        , go (.tbufRead 8 0) (txS true 1) fun t => vAt (me t) 100 8 63 = 0x100 && vAt (me t) 100 10 63 = 0x80030001 ] = true := by decide +kernel

/-! ### Tiles, requests, the matrix unit and chains -/

/-- A team of 64 KiB with a ready tile at entry 3 (tag 5, offset 0, 20 KiB), one that fills at 4 and one with a reader at 5; g2 to g9
name tags, entries and a place; slot formats int8; accumulators 0 to 2 bound. -/
def tile3 : TileEntry := setState (newTile 5 0 0 19) 2
def tileS : State :=
  { ws { tw with
      g := [(2, 5#64), (4, 6#64), (6, 0x0000_0000_0001_0014#64), (7, 3#64), (8, 4#64), (9, 5#64), (10, 64#64), (11, 1#64), (12, 9#64)]
      fs := List.replicate 8 8#64 } with
    teams := [(0, { nwarps := 2, tileb := 65536, accs := [0, 1, 2], tile := memBlock [] 64 (bytesOf 4 0x05000000) })]
    cores := [(0, { free := 237, accTeam := [(0, 0), (1, 0), (2, 0)]
                    table := [(3, tile3), (4, setState (newTile 7 0 30 0) 1), (5, setPendR (setState (newTile 8 0 32 0) 2) 1)] })] }
/-- A TILE instruction answers v in g20 four aclk later. -/
def answers (i : Instr) (s : State) (v : Word) : Bool := go i s fun t => gAt (me t) 104 20 = v && gAt (me t) 103 20 = 0 && stands t 20#64

/-- TILE.ALLOC fails: it answers with a free value for its entry, and takes no entry (log 5). -/
def fails (i : Instr) (s : State) : Bool :=
  go i s fun t => t.freeCtr = s.freeCtr + 1 && (coreAt t 0).table = (coreAt s 0).table && stands t 20#64

/-- The hypotheses of TilesAnswer, and the answers of Table 12-3 (R273). -/
theorem test_tiles :
    all [ ready tileS {} (gpairCauses 2), ready tileS {} (gpairCauses 20)
        , answers (.tileFind 20 2 none) tileS 0x20003#64, answers (.tileFind 20 4 none) tileS 0x500#64
        , answers (.tileAlloc 20 2 6 none) tileS 0x203#64
        , answers (.tileAlloc 20 4 6 none) tileS 0#64, fails (.tileAlloc 20 4 4 none) tileS
        , fails (.tileAlloc 20 4 6 none) { tileS with teams := [(0, { tileb := 22527 })] }
        , fails (.tileAlloc 20 4 6 none) { tileS with cores := [(0, { table := (List.range 256).map fun k => (k, newTile 9 1 0 0) })] }
        , answers (.tileInv 20 7 none) tileS 3#64, answers (.tileInv 20 12 none) tileS 0x709#64, answers (.tileInv 20 9 none) tileS 0x605#64
        , go (.tileInv 20 8 none) tileS fun t => t.cur.held
        , answers (.tileRel 20 7 none) tileS 3#64, answers (.tileRel 20 12 none) tileS 0x709#64, answers (.tileRel 20 9 none) tileS 0x605#64
        , go (.tileStat 20 7 none) tileS fun t => gAt (me t) 104 20 = fld tile3 0 64 && gAt (me t) 104 21 = fld tile3 64 64
        , go (.tileRel 20 7 (some (some ⟨false, 3⟩))) tileS fun t => gAt (me t) 104 20 = 0 && stands t 20#64 ] = true := by decide +kernel

/-- The hypotheses of KickQueues: one record at 64, in the engine with its flag 5 counted (R274). -/
theorem test_kick :
    all [ ready tileS {} [], kickOverflow (me tileS) (kickReqs (settleMe tileS) 64 1) = false, !drainPending tileS 0, accsDone tileS 0 allL fun _ => true
        , go (.rqKick 10 11 none) tileS fun t => (coreAt t 0).reqs.map (fun r => (r.off, r.state, r.flag)) = [(64, 0, some 5)]
            && flagCount (me t) 5 = 1 && stands t 20#64
        , go (.rqKick 10 11 (some (some ⟨false, 3⟩))) tileS fun t => (coreAt t 0).reqs = [] && stands t 20#64 ] = true := by decide +kernel

/-- An MMA and a DRAIN over tile entry 3, without a gang and with one of two. -/
def mma0 : MmaOp := { a := 16, tg := 7, sa := 1, sb := 2, acc := 2, reu := false, gs := 0, flag := 1, kw := 2, shp := 0 }
def mma2 : MmaOp := { mma0 with gs := 2 }
def gangT : State := setMe tileS { me tileS with gang := 0x02000010#32 }
def drain0 : DrainOp := { row0 := 0, units := 1, tg := 7, sg := 12, slot := 1, acc := 2, mode := 0, flag := 1 }

/-- The hypotheses of MatrixQueues (R262, R266, R271). -/
theorem test_matrix_queues :
    all [ ready tileS ⟨true, true⟩ (mmaHeld tileS mma0 ++ mxCause (mmaUse tileS mma0)), ready gangT ⟨true, true⟩ (mmaHeld gangT mma2 ++ mxCause (mmaUse gangT mma2))
        , tileOwned (tileAt tileS 0 3) 0 && tileState (tileAt tileS 0 3) = 2, mmaBytes mma0 8#64 ≤ tileSize (tileAt tileS 0 3), mxRoom (coreAt tileS 0)
        , !crowded tileS (flagOf 1) && tileStoresDone tileS 0 allL, gangHeld gangT 0 (me gangT).gang = []
        , go (.mma mma0) tileS fun t => (coreAt t 0).queue.length = 1 && tilePendR (tileAt t 0 3) = 1 && flagCount (me t) 1 = 1 && stands t 20#64
        , go (.mma mma2) gangT fun t => (coreAt t 0).queue = [] && (teamAt t 0).latch.length = 1 && tilePendR (tileAt t 0 3) = 1
        , ready tileS ⟨true, true⟩ (mxCause (aclrUse tileS 3)) && afind (coreAt tileS 0).accTeam 3 = none
        , go (.aclr 3) tileS fun t => (coreAt t 0).queue.length = 1 && (teamAt t 0).accs = [0, 1, 2, 3] && stands t 20#64
        , ready tileS ⟨true, true⟩ (mxCause (drainUse tileS drain0)) && drainScales drain0 8#64 = 0 && 32 * drainRow drain0 8#64 ≤ tileSize (tileAt tileS 0 3)
            && tilePendR (tileAt tileS 0 3) = 0 && !mxNames tileS 0 0 3
        , go (.drain drain0) tileS fun t => (coreAt t 0).queue.length = 1 && flagCount (me t) 1 = 1 && stands t 20#64 ] = true := by decide +kernel

/-- A chain record at 128: fp32 from 0x100 to 0x200 in memory, ADDK of 0; in g10 its address, in g11 a count of 1. -/
def chainRec : List Byte :=
  bytesOf 8 0x100 ++ bytesOf 8 0 ++ bytesOf 8 0x200 ++ bytesOf 4 0 ++ bytesOf 1 1 ++ bytesOf 1 4 ++ bytesOf 1 0 ++ bytesOf 1 0xFF ++ bytesOf 4 0x01000000
    ++ List.replicate 28 0#8
def chainS : State :=
  { ws { tw with g := [(10, 128#64), (11, 1#64)] } with teams := [(0, { tileb := 4096, tile := memBlock [] 128 chainRec })] }

/-- The hypotheses of ChainStarts (R281). -/
theorem test_chain :
    all [ ready chainS ⟨true, true⟩ [], chainBad chainS chainRec = none, memBytes (myTeam chainS).tile 128 64 = chainRec, !drainPending chainS 0
        , !crowded chainS (flagOf 1)
        , go (.chain ⟨10, 11, 1⟩) chainS fun t => (coreAt t 0).chains.map (fun c => (c.count, c.next, c.flag)) = [(1, 0, some 1)]
            && flagCount (me t) 1 = 1 && stands t 20#64 ] = true := by decide +kernel

/-! ### Accesses taking effect -/

/-- Lane 5 of warp 0 with an access of a kind at an address. -/
def laneA (pa : Nat) (data : List Byte) : LaneAcc := { lane := 5, va := w64 pa, pas := [pa], data := data }
def acc (kind : AccKind) (l : LaneAcc) : Acc :=
  { id := 9, warp := 0, kind := kind, bytes := 4, flag := some 1, dst := 8, issued := 90, lanes := [l], run := laneBit l.lane }
/-- The state in which that access is outstanding; memory holds 1, 2, 3, 4 at 0x100, the tile store 5, 6, 7, 8. -/
def accS (a : Acc) : State :=
  { ws { tw with flags := [(1, 1)], v := [(8, List.replicate 64 0xAAAA#32)] } with
    mem := memBlock ptab 0x100 [1#8, 2#8, 3#8, 4#8], nextId := 20, accs := [(9, a)], lines := [(2, {})]
    teams := [(0, { tileb := 4096, tile := memBlock [] 0x100 [5#8, 6#8, 7#8, 0x88#8] })] }
/-- servesOne. -/
def serves (s : State) : Bool :=
  match accAt s 9 with
  | some a => a.id = 9 && a.lanes.length = 1 && accReady s a && a.lanes.all (·.ok) && s.accs.all (fun x => !x.2.merged)
      && (ctxAt s (warpCtx s a.warp)).dbg = []
  | none => false
/-- The result of lane 5 of the access. -/
def resultOf (t : State) : Option (List Byte) := (accAt t 9).bind fun a => (a.lanes.head?).map (·.res)
def ld5 : Acc := acc (.load false) (laneA 0x100 [])
def waitw5 (c : WaitCond) : Acc := acc (.waitw c .n32) (laneA 0x100 (bytesOf 4 0x04030201))

/-- The hypotheses of LoadsTakeEffect: memory, the tile store, poison, WAITW met and not, and the return of the data (R139, R229, R239). -/
theorem test_loads :
    all [ serves (accS ld5) && go (.loadServe 9) (accS ld5) fun t => resultOf t = some [1#8, 2#8, 3#8, 4#8] && t.mem = (accS ld5).mem
        , serves (accS { ld5 with ts := true }) && go (.loadServe 9) (accS { ld5 with ts := true }) fun t => resultOf t = some [5#8, 6#8, 7#8, 0x88#8]
        , let s := { accS ld5 with poison := [2] }
          serves s && poisonCause s 0x100 false = some 0x24
            && go (.loadServe 9) s fun t => accAt t 9 = none && (me t).detected.map (fun d => d.lanes.map fun l => (l.lane, l.cause)) = [[(5, 0x24)]]
        , serves (accS (waitw5 .eq)) && go (.loadServe 9) (accS (waitw5 .eq)) fun t => accAt t 9 = none && t.watches = []
        , serves (accS (waitw5 .ne)) && go (.loadServe 9) (accS (waitw5 .ne)) fun t => accAt t 9 = none && t.watches.map (fun w => (w.id, w.pa, w.value)) = [(20, 0x100, 0x04030201)]
        , let a := { acc (.load true) { laneA 0x100 [] with done := true, res := [5#8, 0x88#8] } with bytes := 2 }
          go (.loadDataReturn 9) (accS a) fun t => accAt t 9 = none && vreg (me t) 8 5 = 0xFFFF8805 && vreg (me t) 8 6 = 0xAAAA && flagCount (me t) 1 = 0 ] = true := by decide +kernel

def st5 : Acc := acc .store (laneA 0x100 [9#8, 8#8, 7#8, 6#8])
/-- REDs of two lanes, of one operation on one location. -/
def redS : State :=
  { accS { acc (.red .add .n32) (laneA 0x100 (bytesOf 4 5)) with flag := none, counted := false } with
    accs := [(9, { acc (.red .add .n32) (laneA 0x100 (bytesOf 4 5)) with flag := none, counted := false })
            , (10, { acc (.red .add .n32) { laneA 0x100 (bytesOf 4 7) with lane := 6 } with id := 10, flag := none, counted := false })] }

/-- The hypotheses of StoresPerform: a store to the tile store and to an uncached and a cached place, ATOM, RED, and a merge (R139, R149, R236). -/
theorem test_stores :
    all [ serves (accS { st5 with ts := true }) && go (.storePerform 9) (accS { st5 with ts := true }) fun t =>
            memBytes (teamAt t 0).tile 0x100 4 = [9#8, 8#8, 7#8, 6#8] && accAt t 9 = none && flagCount (me t) 1 = 0
        , let s := accS { st5 with lanes := [{ laneA 0x100 [9#8, 8#8, 7#8, 6#8] with uc := true }] }
          serves s && uncached s true 0x100 && storeRejected s 0x100 = none && tierFails s 0x100 = none
            && go (.storePerform 9) s fun t => memBytes t.mem 0xFE 8 = [0#8, 0#8, 9#8, 8#8, 7#8, 6#8, 0#8, 0#8] && accAt t 9 = none
        , let s := { accS st5 with lines := [(2, {})] }
          writable s 2 false && go (.storePerform 9) s fun t => memBytes t.mem 0x100 4 = [9#8, 8#8, 7#8, 6#8]
        , let s := { accS (acc (.atom .add .n32) (laneA 0x100 (bytesOf 4 2))) with lines := [(2, {})] }
          serves s && go (.storePerform 9) s fun t => memBytes t.mem 0x100 4 = [3#8, 2#8, 3#8, 4#8] && resultOf t = some [1#8, 2#8, 3#8, 4#8]
        , let s := { accS (acc (.red .max .n32) (laneA 0x100 (bytesOf 4 0x05000000))) with lines := [(2, {})] }
          serves s && go (.storePerform 9) s fun t => memBytes t.mem 0x100 4 = [0#8, 0#8, 0#8, 5#8] && accAt t 9 = none
        , (match accAt redS 9, accAt redS 10 with | some a, some b => mayMerge redS a b && a.lanes.length = 1 && b.lanes.length = 1 | _, _ => false)
            && go (.redMerge 9 10) redS fun t => (accAt t 10).map (fun a => a.lanes.map (·.data)) = some [bytesOf 4 12]
                 && (accAt t 9).map (·.merged) = some true ] = true := by decide +kernel

/-- One parked warp at a time of the core's clock of 1000. -/
def parkS (p : Park) : State := ws { tw with pcs := [{ pc := 20#64, mask := allL, park := some p }] }
/-- A core with a port bound to, and holding for, the warp that it last issued from. -/
def portS (b : Nat) (h : Nat) : State :=
  { ws { tw with latches := [⟨[], 0, 0⟩] } with cores := [(0, { ports := [{ last := some 0, bound := some 0, boundAt := b, nbound := 2, hold := some 0, holdAt := h }, {}] })] }
/-- One request for 3 blocks on a core with some free and some in the emergency set. -/
def allocS (free emerg : Nat) : State :=
  { parkS .ralloc with cores := [(0, { free := free, emerg := emerg, allocs := [⟨0, 3, allL, 0⟩] })] }
/-- A waiter of lane 5 that is re-read at 1000. -/
def watchS (v : Nat) : State :=
  { parkS (.watch (laneBit 5)) with
    mem := memBlock ptab 0x100 (bytesOf 4 7), watches := [{ id := 3, warp := 0, lane := 5, pa := 0x100, bytes := 4, cond := .eq, ty := .n32, value := v, poll := some 1000 }] }

/-- The hypotheses of WaitsEnd but the last (R202, R203, R67, R68, R69, R72, R239). -/
theorem test_waits_end :
    all [ go (.sleepWake 0) (parkS (.sleep 1000)) fun t => (me t).pcs.map (·.park) = [none]
        , go (.sleepWake 0) (parkS (.sleep 1001)) fun t => (me t).pcs.map (·.park) = [some (.sleep 1001)]
        , go (.tsyncWake 0) (parkS (.tsync 1000)) fun t => (me t).pcs.map (·.park) = [none]
        , (portS 83 0).cores.length = 1 && go (.bindLapse 0 0) (portS 83 0) fun t => (portAt t 0 0).bound = none && (me t).latches = []
        , go (.packetHoldEnd 0 0) (portS 100 84) fun t => (portAt t 0 0).hold = none && (me t).latches = []
        , go (.rallocGrant 0) (allocS 2 0) fun t => t = allocS 2 0
        , go (.rallocGrant 0) (allocS 3 0) fun t => (me t).blocks = 18 && (coreAt t 0).allocs = [] && (me t).pcs.map (·.park) = [none]
        , deadlocked (allocS 1 4) 0 && go (.emergencyGrant 0) (allocS 1 4) fun t => (me t).blocks = 18 && (coreAt t 0).emerg = 2 && (coreAt t 0).free = 0
        , watchMet ((watchS 7).watches.headD ⟨0, 0, 0, 0, 0, .eq, .n32, 0, none, none, 0⟩) (bytesOf 4 7)
            && go (.watchReread 3) (watchS 7) fun t => t.watches = [] && (me t).pcs.all fun e => match e.park with | some (.watch m) => !bit m 5 | _ => true
        , go (.watchReread 3) (watchS 8) fun t => t.watches.map (·.poll) = [some 2000] ] = true := by decide +kernel

/-- A context with breakpoint 2 at the warp's next instruction. -/
def bpS : State := { ts with ctxs := [(0, { cx0 with dbg := [(0x60, 1), (0x90, 5)] })] }

/-- The last clause of WaitsEnd (R429). -/
theorem test_breakpoint :
    all [ warpsAtBp bpS 0 = [(0, 4#64, 2)]
        , go (.breakpointHit 0 2) bpS fun t => t.agenda = [.event (.preemptRequest 0)] && (ctxAt t 0).dbgBusy && (ctxAt t 0).dbgIndex = 2 ] = true := by decide +kernel

/-- One lane's SEQ.RES of n slots at the sequence unit, of a sequence with CLEN c and RLEN r. -/
def squS (c r n : Nat) (dropped : Bool) : State :=
  { seqS 0 with
    nextId := 20, seqs := [(0x400, { clen := c, rlen := r, dropped := dropped })]
    accs := [(9, { id := 9, warp := 0, kind := .seqRes, lanes := [{ lane := 0, va := 0x400#64, pas := [0x400], sent := true }], run := 1#64 })]
    squ := [{ id := 10, op := .res, desc := 0x400, va := 0x400#64, warp := 0, lane := some 0, acc := some 9, count := n }] }
/-- The status that SEQ.RES gets, and RLEN after it. -/
def resOf (s : State) : Option (Nat × Nat) :=
  match exec (.squServeRequest 10) s with
  | .next t => (accAt t 9).bind fun a => a.lanes.head?.map fun l => (l.stat, (seqAt t 0x400).rlen)
  | _ => none
/-- SEQ.LEN of the whole run. -/
def lenS : State :=
  { squS 3 5 0 false with
    warps := [(0, { tw with pcs := [{ pc := 20#64, mask := allL }], holds := [(10, allL)] })], accs := []
    squ := [{ id := 10, op := .len, desc := 0x400, va := 0x400#64, warp := 0, dst := 8 }] }

/-- The hypotheses of the first clause of SequencesAndRegionsEnd, each status at its boundary (R252, R253, R256). -/
theorem test_sequence_unit :
    all [ [squS 0 0 1 true, squS 0 4095 2 false, squS 4097 8191 2 false, squS 0 0 1 false].all fun s =>
            (s.squ.all fun r => squTurn s r) && (match attached s 0 0x400#64 with | .ok (d, _) => d = 0x400 | .error _ => false)
        , resOf (squS 0 0 1 true) = some (4, 0), resOf (squS 0 4095 2 false) = some (1, 4095), resOf (squS 4097 8191 2 false) = some (2, 8191)
        , let s := squS 0 4095 1 false
          (match squChunks s 0 0x400 (chunkSpan (slotsPerChunk s 0x400) 4095 1) with
           | .ok cs => cs.all fun c => match c.2 with | some x => x.res | none => false
           | .error _ => false) && resOf s = some (0, 4096)
        , (lenS.squ.all fun r => squTurn lenS r && squHeld lenS r)
            && go (.squServeRequest 10) lenS fun t => greg (me t) 8 = 3 && t.squ = [] && (me t).holds = [] ] = true := by decide +kernel

/-- An instance all of whose lanes have reached its COMMIT, with one buffered byte. -/
def endS (g : Bool) (lease : Nat) (lines : List (Nat × Line)) : State :=
  { setMe mS { me mS with
      tx := some { tx0 g 1 with reached := allL, scope := 2, leaseAt := some lease, byG := g }
      pcs := [{ pc := 20#64, mask := allL, park := some (.commit g 2) }], tstat := [(3, 9#32)] } with
    lines := lines, clusters := [(0, { aclk := 3000 })] }

/-- The hypotheses of the second clause: leases held, and not held for 2,048 aclk (R247, R151). -/
theorem test_region_ends :
    all [ commitReady (endS true 951 [(2, {})]) 0 && leasesFree (endS true 951 [(2, {})]) 0 (tx0 true 1) && !unseen (endS true 951 [(2, {})]) 0 2 && (tx0 true 1).reads = []
            && storeRejected (endS true 951 [(2, {})]) 0x100 = none && !stackDead (endS true 951 [(2, {})]) 0x100
        , go (.commitLeasesHeld 0) (endS true 951 [(2, {})]) fun t => (me t).tx = none && t.mem = memBlock ptab 0x100 [9#8] && aget 0#32 (me t).tstat 3 = 0
        , let s := endS true 951 [(2, { home := 1, state := .moving })]
          !leasesFree s 0 (tx0 true 1) && commitReady s 0
            && go (.leaseTimeout 0) s fun t => (me t).tx = none && t.mem = ptab && aget 0#32 (me t).tstat 3 = tstatVal 10 0 1 ] = true := by decide +kernel

/-! ### The matrix unit and the engines at work -/

/-- The matrix unit of tileS with one instruction at the head of its queue; the tile holds 2.0 in its first byte, and A 3.0 in lane 0. -/
def mxS (w : MxWork) : State :=
  let s := tileS
  { s with
    cores := [(0, { coreAt s 0 with queue := [{ team := 0, warp := 0, pc := 4#64, run := allL, work := w, flag := some 1 }]
                                    table := [(3, setPendR tile3 1)], accs := [(2, [(0, 0x3F800000#32)])] })]
    teams := [(0, { teamAt s 0 with tile := [(0, 2#8)] })], warps := [(0, { me s with flags := [(1, 1)] })] }
def heldRow : Held := { wid := 0, op := mma0, tile := 3, rows := [(3#32 :: List.replicate 63 0#32)], at_ := 5, pc := 4#64, run := allL }
/-- A complete latch of two warps whose claim is granted. -/
def latchS : State :=
  let h := { heldRow with op := mma2 }
  { gangT with
    teams := [(0, { teamAt tileS 0 with latch := [h, { h with wid := 1 }] })]
    warps := [(0, { me gangT with standing := true }), (1, { tw with wid := 1, gang := 0x0A000010#32, standing := true })] }

/-- The hypotheses of MatrixWorks: element (0, 0) of the accumulator was 1, the product is 6 (R267, R270, R271). -/
theorem test_matrix_works :
    all [ (match latchReady latchS 0 with
           | some (h :: ms) => (warpAt latchS (gangClaimant 0 (h :: ms))).standing && ms.length = 1
           | _ => false)
        , go (.gangLatchOpen 0) latchS fun t => (coreAt t 0).queue.length = 1 && (teamAt t 0).latch = []
        , go (.matrixAclrExecute 0) (mxS (.aclr 2)) fun t => (coreAt t 0).queue = [] && accElem (accOf (coreAt t 0) 2) 0 0 = 0
        , (coreAt (mxS (.drain drain0 3 0)) 0).queue.length = 1 && (coreAt (mxS (.mma mma0 [heldRow] 3 0)) 0).waiting = [] ] = true := by decide +kernel

/-- A request of the engine: KIND, RFLAGS, tiles D 4 and E 3, source, destination, length in the tile store; no mbar. -/
def rqBytes (kind flags len : Nat) : List Byte :=
  bytesOf 1 kind ++ bytesOf 1 flags ++ bytesOf 1 0 ++ bytesOf 1 1 ++ bytesOf 4 0xFFFFFFFF ++ bytesOf 1 4 ++ bytesOf 1 3 ++ bytesOf 6 0 ++ bytesOf 8 0x100
    ++ bytesOf 8 0x200 ++ bytesOf 4 len ++ bytesOf 2 0x0101 ++ List.replicate 26 0#8
def rq (kind flags len state : Nat) : Req :=
  { id := 7, team := 0, warp := 0, pc := 4#64, run := allL, bytes := rqBytes kind flags len, state := state, flag := some 1 }
def rqS (r : Req) : State :=
  { tileS with
    warps := [(0, { me tileS with flags := [(1, 1)] })]
    cores := [(0, { coreAt tileS 0 with reqs := [r], table := [(3, tile3), (4, newTile 7 0 30 0)] })]
    teams := [(0, { teamAt tileS 0 with tile := [(0x100, 9#8)] })] }
/-- A chunk move that has copied its 64 KiB: its header at 0x10100 on the uncached page, its new data in page 2. -/
def moveR : Req :=
  { rq 7 0 0 2 with
    bytes := (rqBytes 7 0 0).take 16 ++ bytesOf 8 0x10100 ++ bytesOf 8 0x20000 ++ List.replicate 32 0#8, next := 65536 / pieceBytes }
def moveS : State := { rqS moveR with tlb := ts.tlb ++ [tlb0 2 0x2001F#64], mem := memBlock ptab 0x10100 (bytesOf 8 0x30000 ++ bytesOf 4 1) }

/-- The hypotheses of EngineWorks (R274, R275, R277, R121, R279). -/
theorem test_engine :
    all [ reqReserved (rq 8 0 4 0) && startTurn (rqS (rq 8 0 4 0)) 0 (rq 8 0 4 0)
            && go (.rqRequestStart 0 7) (rqS (rq 8 0 4 0)) fun t => reqAt t 0 7 = none && (me t).detected.map (fun d => d.lanes.map (·.cause)) = [List.replicate 64 0x60]
        , let r := rq 0 0 4 0
          !reqReserved r && !reqMisuse (rqS r) 0 r && reqLimit r = none && badName r = none && tileLimit (rqS r) 0 r = none
            && go (.rqRequestStart 0 7) (rqS r) fun t => (reqAt t 0 7).map (·.state) = some 2
        , let r := rq 3 8 0 1
          reqDtile r && !reqStile r && !behind (rqS r) 0 r && mayWrite (tileAt (rqS r) 0 4) && !mxNames (rqS r) 0 0 4
            && go (.tileRequestAccept 0 7) (rqS r) fun t => (reqAt t 0 7).map (·.state) = some 2 && tilePendW (tileAt t 0 4) = 1 && tileState (tileAt t 0 4) = 1
        , let r := rq 4 20 0 1
          reqStile r && !reqDtile r && reqEvict r && !behind (rqS r) 0 r && mayRead (tileAt (rqS r) 0 3)
            && go (.tileRequestAccept 0 7) (rqS r) fun t => (reqAt t 0 7).map (·.state) = some 2 && tilePendR (tileAt t 0 3) = 1 && tileState (tileAt t 0 3) = 3
        , let r := rq 0 0 4 2
          reqSides r = (true, true) && pieces r = 1
            && go (.rqRequestComplete 0 7) (rqS r) fun t => memBytes (teamAt t 0).tile 0x200 2 = [9#8, 0#8] && (reqAt t 0 7).map (·.next) = some 1
        , let r := { rq 0 0 4 2 with next := 1 }
          pieces r = 1 && go (.rqRequestComplete 0 7) (rqS r) fun t => reqAt t 0 7 = none && flagCount (me t) 1 = 0
        , (match moveOk moveS moveR with | .ok b => b | _ => false) && pieces moveR = moveR.next
            && (match agPa moveS 0 .write 0x10100 with | .ok (pa, e) => pa = 0x10100 && leafUc e | _ => false)
            && go (.chunkMove 0 7) moveS fun t => reqAt t 0 7 = none && memVal t.mem 0x10100 8 = 0x20000 && memVal t.mem 0x10108 8 = 0x0000010000000001 ] = true := by decide +kernel

/-- A delivery of two bytes for the tile of tag 7 of team 0, with its request done but for it. -/
def delivS (told : Bool) : State :=
  let r := { rq 6 0 0 3 with cores := [0] }
  { rqS r with
    cores := [(0, { coreAt (rqS r) 0 with delivs := [{ id := 11, req := 7, ctx := 0, grid := 0, tag := 7, doff := 4, data := [1#8, 2#8], home := 0, since := 1000, told := told }] })] }
/-- A chain at its element n of m, of which p elements are paid for, with t free tokens. -/
def chS (n m p t : Nat) : State :=
  { chainS with
    warps := [(0, { me chainS with flags := [(1, 1)] })], clusters := [(0, { aclk := 100, pocket := [(0, t)] })], tlb := [tlb0 0 0x1F#64]
    mem := memBlock ptab 0x100 (bytesOf 4 0x40000000), lines := [(2, {}), (4, {})]
    cores := [(0, { chains := [{ id := 5, team := 0, warp := 0, pc := 4#64, run := allL, port := 0, bytes := chainRec, count := m, next := n, flag := some 1, paid := p }] })] }

/-- The hypotheses of DeliveriesAndChains (R278, R282, R283): 2.0 + 0 is copied to 0x200. -/
theorem test_deliveries_chains :
    all [ mcTarget (delivS false) 0 (((coreAt (delivS false) 0).delivs).headD ⟨0, 0, 0, 0, 0, 0, [], 0, 0, false⟩) = some (0, 4)
            && mayWrite (tileAt (delivS false) 0 4) && !mxNames (delivS false) 0 0 4 && !tileBehind (delivS false) 0 0 4 11
        , (chS 0 1 1024 0).cores.all fun x => x.2.chains.all fun c => match chainElem (chS 0 1 1024 0) c 0 0 with | .ok _ => true | _ => false
        , (reqAt (delivS false) 0 7).isSome && 6 ≤ tileSize (tileAt (delivS false) 0 4)
            && go (.multicastDelivery 0 11) (delivS false) fun t => memBytes (teamAt t 0).tile (30 * 1024 + 4) 2 = [1#8, 2#8] && tileState (tileAt t 0 4) = 2
                 && (coreAt t 0).delivs = []
        , go (.mcWaiting 0 11) { delivS false with time := 10001000 } fun t => t.log.map (·.cause) = [0x67] && (coreAt t 0).delivs.map (·.told) = [true]
        , go (.chainUnit 0 5) (chS 1 1 1024 0) fun t => (coreAt t 0).chains = [] && flagCount (me t) 1 = 0
        , go (.chainUnit 0 5) (chS 0 1 0 2) fun t => t = chS 0 1 0 2
        , go (.chainUnit 0 5) (chS 0 1 1024 0) fun t => (coreAt t 0).chains.map (fun c => (c.next, c.paid)) = [(1, 1024)]
            && memVal t.mem 0x200 4 = 0x40000000 ] = true := by decide +kernel

/-! ### The dispatcher -/

/-- A context with queue 2: ring of 16 records at 0x1000, WRITE w and READ r, a record at position 0; grids as given. -/
def qS (x : Queue) (v : Nat) : State :=
  { ts with
    ctxs := [(0, { cx0 with queues := [(2, x)] })], teams := [], warps := []
    mem := memBlock (memBlock ptab 0x1000 (launchRec v)) 0x3000 (bytesOf 8 5), embed := [(0, 0)], placed := true
    lines := [32, 33, 34, 96].map fun l => (l, {}) }
def q0 : Queue := { ring := 0x1000#64, enable := true, write := 1, prio := 3 }
/-- A record that waits for a word at 0x3000 to reach v. -/
def depRec (v : Nat) : List Byte := launchRec 1 ++ List.replicate (64 - (launchRec 1).length) 0#8 ++ bytesOf 8 0x3000 ++ bytesOf 8 v ++ List.replicate 176 0#8
def outCtx (f : Ctx → Ctx) : State := let s := qS q0 1; putCtx s 0 (f (ctxAt s 0))
/-- Queue 2 after a step. -/
def q2 (t : State) : Queue := queueAt (ctxAt t 0) 2

/-- The hypotheses of QueuesServe: doorbells at both ends of the ring and beyond, CTL, SKIP (R320, Table 15-3). -/
theorem test_doorbells :
    all [ go (.doorbell 0 2 4) (outCtx fun c => { c with resident := false }) fun t => (ctxAt t 0).held = [(2, 4)]
        , go (.doorbell 0 2 16) (qS q0 1) fun t => (q2 t).write = 16, go (.doorbell 0 2 1) (qS q0 1) fun t => (q2 t).write = 1
        , go (.doorbell 0 2 17) (qS q0 1) fun t => (q2 t).write = 1 && t.log.map (fun r => (r.cause, r.sev)) = [(0xAD, 1)]
        , go (.doorbell 0 2 0) (qS q0 1) fun t => (q2 t).write = 1 && t.log.map (·.cause) = [0xAD]
        , go (.queueEnable 0 2 0) (qS { q0 with stopped := true } 1) fun t => !(q2 t).enable && !(q2 t).stopped
        , go (.queueSkip 0 2 1) (qS { q0 with stopped := true } 1) fun t => (q2 t).read = 1 && !(q2 t).stopped ] = true := by decide +kernel

/-- A read of the dispatcher that succeeds. -/
def reads (s : State) (va : Word) (n : Nat) : Bool := match dispRead s 0 va n with | .ok _ => true | _ => false

/-- Records, dependences and grids that start (R51, R52, R56, R58). -/
theorem test_dispatch :
    all [ dispatchable (qS q0 1) (ctxAt (qS q0 1) 0), reads (qS q0 1) 0x1000 256
        , go (.queueRecordCopy 0 2) (qS q0 1) fun t => (q2 t).read = 1 && (q2 t).pending.map (·.2) = [3]
        , go (.queueRecordCopy 0 2) (qS q0 2) fun t => (q2 t).stopped && t.log.map (·.cause) = [0xA0]
        , go (.gridDispatchStart 0 2) (qS { q0 with pending := [(launchRec 1, 2)] } 1) fun t => t = qS { q0 with pending := [(launchRec 1, 2)] } 1
        , go (.gridDispatchStart 0 2) (qS { q0 with pending := [(launchRec 1, 3)] } 1) fun t => (q2 t).pending = [] && (q2 t).lastGrid = some 1
            && (ctxAt t 0).grids.map (fun g => (g.entry, g.src, g.prio, g.started)) = [(0, 2, 3, true)]
        , go (.gridDispatchStart 0 32) (outCtx fun c => { c with grids := [{ entry := 0, serial := 7, record := launchRec 1, src := 32, deps := [true, true] }] })
            fun t => (ctxAt t 0).grids.map (·.started) = [true]
        , reads (qS q0 1) 0x3000 8 && recField (depRec 5) 0x40 8 = 0x3000
        , go (.dependenceReread 0 2 0) (qS { q0 with pending := [(depRec 5, 2)] } 1) fun t => (q2 t).pending.map (·.2) = [3]
        , go (.dependenceReread 0 2 0) (qS { q0 with pending := [(depRec 6, 2)] } 1) fun t => (q2 t).pending.map (·.2) = [2] ] = true := by decide +kernel

/-- A grid of one team that has started, and one that has its team out; a child of it. -/
def grid0 : Grid := { entry := 0, serial := 7, record := launchRec 1 ++ List.replicate (256 - (launchRec 1).length) 0#8, started := true, deps := [true, true] }
def gridS (gs : List Grid) : State :=
  { ts with
    ctxs := [(0, { cx0 with grids := gs })], teams := [], warps := [], embed := [(0, 0)], placed := true, nextId := 20 }
/-- A parked team of the context, and one that has exited. -/
def parkedS : State :=
  { gridS [{ grid0 with parent := some 3, depth := 2 }] with
    ctxs := [(0, { cx0 with share := 1#64, grids := [{ grid0 with parent := some 3, depth := 2 }] })]
    teams := [(0, { nwarps := 1, age := 4 })], warps := [(0, { tw with pcs := [{ pc := 4#64, mask := allL, park := some .ralloc }] })]
    cores := (0, { free := 0 }) :: (List.range 119).map fun k => (k + 1, { failed := true }) }
def exitedS : State :=
  { gridS [{ grid0 with cores := [(0, 1)] }] with
    teams := [(0, { status := .exited, tileb := 1024, bars := [{}, {}] })], warps := [(0, { tw with exited := true, pcs := [] })]
    cores := [(0, { free := 200, bars := 60, tileFree := 1000, counts := [(0, 1, 1)], table := [(3, newTile 1 0 0 0)] })] }
/-- A grid that is over, with a signal word at 0x10100 on the uncached page, and its parent. -/
def overS (sig : Nat) : State :=
  gridS [{ grid0 with entry := 3, children := 1 }
        , { grid0 with next := 1, parent := some 3, record := (grid0.record.take 0x30) ++ bytesOf 8 sig ++ bytesOf 8 6 ++ grid0.record.drop 0x40 }]

/-- The hypotheses of GridsRun (R59, R35, R62, R33). -/
theorem test_grids :
    all [ let s := gridS [grid0]
          hasTeams grid0 && dispatchable s (ctxAt s 0) && inShare s (ctxAt s 0) 0 && fitsTeam s 0 grid0.record && !outranked s 0 grid0
            && !recCor grid0.record && !corHolds (ctxAt s 0) grid0 && freePlace s 0 = some 0
        , go (.teamPlace 0 0 0) (gridS [grid0]) fun t => t.teams.map (fun x => (x.1, x.2.nwarps, x.2.place)) = [(20, 1, 0)]
            && (warpAt t 320).pcs = [{ pc := 0x104#64, mask := allL }] && (coreAt t 0).free = 236 && (ctxAt t 0).grids.map (·.next) = [1]
        , youngestParked parkedS 0 = some 0 && dispatchable parkedS (ctxAt parkedS 0) && !recCor (recordOf parkedS (teamAt parkedS 0)) && !savesForChild parkedS 0
            && parkedHold parkedS 0 { grid0 with parent := some 3, depth := 2 }
        , !engineWork exitedS 0 && !teamAccs exitedS 0
            && go (.teamRelease 0) exitedS fun t => t.teams = [] && t.warps = [] && (coreAt t 0).bars = 62 && (coreAt t 0).tileFree = 2024 && (coreAt t 0).table = []
                 && t.agenda = [.event (.drainedReport 0 0 0 1)]
        , go (.drainedReport 0 0 0 1) exitedS fun t => (ctxAt t 0).grids.map (·.cores) = [[]], go (.drainedReport 0 0 0 2) exitedS fun t => t = exitedS
        , (gridOf (ctxAt (overS 0) 0) 0).map gridOver = some true
            && go (.gridRetire 0 0) (overS 0) fun t => (ctxAt t 0).grids.map (fun g => (g.entry, g.children)) = [(3, 0)] && t.mem = ptab
        , (match agPa (overS 0x10100) 0 .write 0x10100 with | .ok (pa, e) => pa = 0x10100 && leafUc e | _ => false)
            && poisonCause (overS 0x10100) 0x10100 true = none && storeRejected (overS 0x10100) 0x10100 = none
            && go (.gridRetire 0 0) (overS 0x10100) fun t => memVal t.mem 0x10100 8 = 6 && (ctxAt t 0).grids.length = 1 ] = true := by decide +kernel

/-- The share of that context is reticle 0, of which one core is in service and full: the second clause of GridsRun (R35). -/
theorem test_no_place : hasPlace parkedS 0 { grid0 with parent := some 3, depth := 2 } = false := by
  have hm : shareMask parkedS (ctxAt parkedS 0) = 1#64 := by decide +kernel
  have h0 : ((List.range 120).all fun k => !(inShare parkedS (ctxAt parkedS 0) k && fitsTeam parkedS k grid0.record)) = true := by
    decide +kernel
  have hc : recCor ({ grid0 with parent := some 3, depth := 2 } : Grid).record = false := by decide +kernel
  simp only [hasPlace, hc, Bool.false_eq_true, if_false, List.any_eq_false, List.mem_range]
  intro k _
  by_cases hk : k < 120
  · simpa [Classical.or_iff_not_imp_left] using List.all_eq_true.mp h0 k (List.mem_range.mpr hk)
  · have : inShare parkedS (ctxAt parkedS 0) k = false := by
      have hr : bit (1#64) (reticleOf k) = false := by
        have : 0 < k / 120 := Nat.div_pos (by omega) (by decide)
        simp [bit, reticleOf, Config.coresPerReticle, BitVec.getLsbD_one]
        omega
      simp [inShare, hm, hr]
    simp [this]


/-! ### Tokens, power, teams that move -/

/-- Warp 0 stands at a VEXP2, and its cluster's pocket holds n tokens of lap 0. -/
def wideS (n : Nat) : State :=
  { ts with
    mem := memBlock ptab 4 (bytesOf 4 0x60061403 ++ bytesOf 4 0x08001940)
    clusters := [(0, { aclk := 100, pocket := [(0, n)] })], time := 0 }

/-- The hypotheses of the first half of TokensAndPower: a claim that is paid, passed over and reserved; laps (R285 to R287). -/
theorem test_tokens :
    all [ (claims (wideS 1) 0).map (fun c => (c.kind, c.price, c.warp)) = [(.wide, 1, 0)]
        , go (.tokenGrant 0) (wideS 1) fun t => (me t).standing && freeTokens (clusterAt t 0) = 0
        , go (.tokenGrant 0) (wideS 0) fun t => !(me t).standing && (me t).wpass = 1
        , let s := { wideS 0 with warps := [(0, { tw with wpass := 7 })] }
          (claims s 0).map (·.price) = [1] && go (.tokenGrant 0) s fun t => (clusterAt t 0).resv = [0]
        , (claims (chS 0 1 0 2) 0).map (fun c => (c.kind, c.price)) = [(.chain 0 5, 2)]
            && go (.tokenGrant 0) (chS 0 1 0 2) fun t => (coreAt t 0).chains.map (·.paid) = [1024] && freeTokens (clusterAt t 0) = 0
        , go (.ringLap 0 false) (wideS 0) fun t => (reticleAt t 0).lapInj = 1600
        , go (.ringLap 0 true) { wideS 0 with retics := [(0, { lapInj := 5 })] } fun t => (reticleAt t 0).lapInj = 0
        , go (.ringStationVisit 0 9) { wideS 0 with time := 20, retics := [(0, { lapInj := 2550 })] } fun t => pocketCount (clusterAt t 9) = 255 && (reticleAt t 0).spares = []
        , go (.ringStationVisit 0 0) { wideS 200 with time := 2, retics := [(0, { lapInj := 2550 })] } fun t => pocketCount (clusterAt t 0) = 255 && (reticleAt t 0).spares = [(0, 200)]
        , go (.tokenEvaporation 0) { wideS 200 with time := 2 * lapNs } fun t => pocketCount (clusterAt t 0) = 0
        , go (.tokenEvaporation 0) { wideS 200 with time := 2 * lapNs - 1 } fun t => pocketCount (clusterAt t 0) = 200 ] = true := by decide +kernel

/-- A state at a time, with reticle 0 and cluster 0 as given. -/
def powS (time : Nat) (r : Reticle) (c : Cluster) : State := { ts with time := time, retics := [(0, r)], clusters := [(0, c)] }

/-- The controller, power limits and clocks at their limits (R291 to R295, Tables 23-2, 23-3). -/
theorem test_power :
    all [ go (.pwcControlInterval 0 39 2550 0) (powS 10000 {} {}) fun t => (reticleAt t 0).inj = 39 && (reticleAt t 0).tripAt = some 10000
        , go (.pwcControlInterval 0 2551 39 0) (powS 10000 { tripAt := some 5 } {}) fun t => (reticleAt t 0).inj = 40 && (reticleAt t 0).tripAt = none
        , go (.pwcControlInterval 0 40 2550 0) (powS 10000 {} {}) fun t => (reticleAt t 0).inj = 40 && (reticleAt t 0).tripAt = none
        , go (.pwcControlInterval 0 2550 2550 0) (powS 10000 { boost := 3000 } {}) fun t => (reticleAt t 0).inj = 2550
        , go (.throttled 0) (powS 1000000 { belowAt := some 0 } {}) fun t => (reticleAt t 0).belowAt = some 1000000
        , go (.boostGrant 0 2000) (powS 5 {} {}) fun t => (reticleAt t 0).boost = 2000
        , go (.boostGrant 0 2000) { powS 5 {} {} with boostStop := 6 } fun t => (reticleAt t 0).boost = 0
        , go (.powerLimit 24000) { powS 5 {} {} with powerAt := some 1 } fun t => t.powerAt = none
        , go (.powerLimit 24001) (powS 5 {} {}) fun t => t.powerAt = some 5
        , go (.powerLimit 24001) { powS 1000005 { boost := 9 } {} with powerAt := some 5 } fun t => t.boostStop = 1001000005 && (reticleAt t 0).boost = 0
        , go (.thermalShutdown 0 1) (powS 10000000 { tripAt := some 0 } {}) fun t => t.agenda = [.event (.reticleReset 0 0xB4)]
        , go (.railGap 0 151) (powS 5 {} {}) fun t => t.agenda = [.event (.reticleReset 0 0xB6)], go (.railGap 0 150) (powS 5 {} {}) fun t => t.agenda = []
        , go (.frequencyStepChange 0 15) (powS 5 {} {}) fun t => (clusterAt t 0).freq = 15 && (clusterAt t 0).stopEnd = some 1505
        , go (.frequencyStepChange 0 9) (powS 5 {} { permit := 8 }) fun t => (clusterAt t 0).freq = 8 && (clusterAt t 0).stopEnd = none
        , go (.frequencyStepChange 0 8) (powS 5 {} { stopEnd := some 9 }) fun t => (clusterAt t 0).stopEnd = none
        , go (.stepRelockTimeout 0) (powS 1500 {} { freq := 9, stopEnd := some 1500 }) fun t => (clusterAt t 0).freq = 8 && t.log.map (·.cause) = [0xB5]
        , go (.droopStretch 0) (powS 5 {} {}) fun t => (clusterAt t 0).stretch, go (.droopRecovery 0) (powS 5 {} { stretch := true }) fun t => !(clusterAt t 0).stretch
        , go (.energyUpdate [(0, 3000000)] [(0, 1500000)] true) { powS 100000 { spent := [(0, 1), (1, 2)], resided := [(0, 5)] } {} with time := 100000 } fun t =>
            (ctxAt t 0).energy = 2 && (ctxAt t 0).remainder = 500000 && (reticleAt t 0).spent = [] ] = true := by decide +kernel

/-- A context that has a shed and one team in a status. -/
def teamS (x : Team) : State :=
  { ts with
    ctxs := [(0, { cx0 with shed := 0x200000, shedsz := 0x10000000 })], teams := [(0, { x with tileb := 4096 })]
    cores := [(0, { free := 200, chains := [{ id := 5, team := 0, warp := 0, pc := 4#64, run := allL, port := 0, bytes := [], count := 1 }], accs := [(2, [(0, 7#32)])]
                    tileFree := 100000, counts := [(0, 1, 1)], table := [(3, newTile 1 0 0 0)] })] }

/-- The hypotheses of the first half of TeamsMove (R298, R299, R308, R309). -/
theorem test_team_moves :
    all [ !recCor (recordOf (teamS {}) (teamAt (teamS {}) 0))
            && go (.preemptRequest 0) (teamS {}) fun t => (teamAt t 0).status = .saving && (teamAt t 0).chImage.length = 1 && (coreAt t 0).chains = []
        , let s := teamS { status := .saving, accs := [2] }
          drained s 0 && shedOk (ctxAt s 0) && shedNeed (takeImage s 0) 0 0 ≤ 0x10000000
            && go (.teamSaveWrite 0) s fun t => (teamAt t 0).status = .saved && (teamAt t 0).accImage = [(2, [(0, 7#32)])] && (teamAt t 0).tabImage.length = 1
                 && (teamAt t 0).savedAt = 1000 && (coreAt t 0).tileFree = 104096
        , let s := teamS { status := .saved, tabImage := [(9, newTile 1 0 0 0)] }
          restorable s 0 && fitsImage s 0 0 && (freePlace s 0).isSome && !recCor (recordOf s (teamAt s 0))
            && go (.teamRestore 0 0) s fun t => (teamAt t 0).status = .restoring && tileAlloc (tileAt t 0 9)
        , go (.restoreFirstIssue 0) (teamS { status := .restoring, savedAt := 991 }) fun t => (teamAt t 0).status = .resident
        , go (.restoreFirstIssue 0) (teamS { status := .restoring, savedAt := 992 }) fun t => (teamAt t 0).status = .restoring ] = true := by decide +kernel

/-- A context as given, with or without a team. -/
def cxS (c : Ctx) (with_ : Bool) : State := let s := teamS {}; { s with ctxs := [(0, c)], teams := if with_ then s.teams else [] }

/-- The hypotheses of the second half of TeamsMove (R297, R311, R313). -/
theorem test_contexts_move :
    all [ let s := { teamS {} with time := 5000000, retics := [(0, { hot := 2 })], placed := true, embed := [(0, 0)] }
          inShare s (ctxAt s 0) 0 && shedOk (ctxAt s 0) && shedNeed s 0 0 ≤ 0x10000000
            && go (.hotspotMigration 0 0) s fun t => (teamAt t 0).reason = 2 && t.agenda = [.event (.preemptRequest 0)]
        , go (.contextSwitch 0) (cxS cx0 true) fun t => t.agenda = [.event (.preemptRequest 0)] && (ctxAt t 0).inSwitch
        , go (.contextSwitch 0) (cxS cx0 false) fun t => !(ctxAt t 0).resident && (ctxAt t 0).savedAt = 1000
        , go (.contextRestore 0) (cxS { enabled := true, held := [(2, 16)] } false) fun t => (ctxAt t 0).resident && (queueAt (ctxAt t 0) 2).write = 16
        , go (.timeExchange [3, -9, 2]) ts fun t => t.regionAim.take 3 = [0, 4, -2] ] = true := by decide +kernel

/-! ### The wafer cache -/

/-- Line 2 in a state. -/
def lnS (x : Line) : State := { ts with lines := [(2, x)] }
/-- That line after a step. -/
def ln (t : State) : Option Line := lineAt t 2

/-- The hypotheses of LinesMove: each event in the state that it waits for, and one that it does not (R125 to R129). -/
theorem test_lines_move :
    all [ lineAt ts 2 = none && tierOf 256 ≠ .reserved && !uncached ts false 256 && ts.closing = [] && wayFree ts (anchorOf ts 2) 2
            && go (.lineFill 2) ts fun t => (ln t).map (·.state) = some .home
        , go (.lineFill 2) (lnS { home := 7 }) fun t => (ln t).map (·.home) = some 7
        , go (.migrationAck 2) (lnS { state := .moving, moveTo := 9, uses := [(1, 3)] }) fun t => ln t = some { home := 9, moveTo := 9 }
        , mobile 2 && (sliceIn ts 3 2).any (fun k => wayFree (lnS {}) k 2) && go (.replicaPlace 2 3) (lnS { defer := [3] }) fun t =>
            (ln t).map (fun x => (x.state, x.defer, x.replicas.length)) = some (.shared, [], 1)
        , let s := lnS { state := .collapsing, replicas := [(3, 400, []), (4, 500, [])], acks := [3, 4] }
          go (.invalidationAck 2 3) s fun t => (ln t).map (fun x => (x.state, x.acks)) = some (.collapsing, [4])
        , go (.invalidationAck 2 4) (lnS { state := .collapsing, replicas := [(4, 500, [])], acks := [4] }) fun t => (ln t).map (·.state) = some .home
        , go (.lineEvict 2) (lnS { pin := true }) fun t => (ln t).isSome, go (.lineEvict 2) (lnS {}) fun t => ln t = none
        , go (.lineEvict 2) (lnS { state := .shared, replicas := [(3, 400, [])] }) fun t => (ln t).map (fun x => (x.state, x.acks)) = some (.collapsing, [3])
        , go (.collapseTimeout 2 3) { lnS { acks := [3], since := 5 } with time := 100005 } fun t => t.agenda = [.event (.reticleReset 3 0x78)]
        , go .yardmasterWindow { lnS { uses := [(1, 3)] } with time := 8192 } fun t => (ln t).map (·.uses) = some [] ] = true := by decide +kernel

/-- The hypotheses of LinesFail (R124, R373, R391, R396, R405). -/
theorem test_lines_fail :
    all [ go (.placementMapChange 7 false) { ts with slicesOut := [7] } fun t => t.slicesOut = [], !outOfUse (partStatus ts 6 7)
        , !heldIn 7 {} && go (.placementMapChange 7 true) (lnS {}) fun t => t.slicesOut = [7]
        , go (.l2Scrub 7 2 false) (lnS { home := 7 }) fun t => t = lnS { home := 7 }
        , go (.l2Scrub 7 2 true) (lnS { home := 7 }) fun t => t.poison = [2] && t.log.map (fun r => (r.cause, r.sev)) = [(0x72, 1)]
        , go (.l2Scrub 7 2 true) (lnS { state := .shared, replicas := [(0, 7, [])], home := 300 }) fun t => ln t = some { home := 300 } && t.poison = []
        , tierOf 256 = .hbm && go (.hbmPatrolScrub 2) ts fun t => t.poison = [2] && t.log.map (·.cause) = [0x97]
        , go (.dirRebuild 2 [7]) ts fun t => (ln t).map (·.home) = some 7, go (.dirRebuild 2 [7, 8]) ts fun t => t.log.map (fun r => (r.cause, r.sev)) = [(0x7F, 4)]
        , tierOf 0x1000000000100 = .pool && go (.cxlBackInvalidate 0x20000000002) { ts with lines := [(0x20000000002, {})] } fun t => t.lines = []
        , let s := { ts with lines := [(0x40000000002, {})], hostPorts := [(0, { up := true, cxl := true })] }
          tierOf 0x2000000000100 = .host && !hostPcie s 0x2000000000100 && go (.cxlSnoop 0x40000000002 none) s fun t => t.lines = []
        , let s := { ts with lines := [(0x40000000002, {})], hostPorts := [(0, { up := true, cxl := true })] }
          go (.cxlSnoop 0x40000000002 (some (List.replicate 128 3#8))) s fun t => t.lines = [] && memVal t.mem 0x2000000000100 1 = 3 ] = true := by decide +kernel

/-! ### Pages, records and limits -/

/-- A root at 0x200000 under which page 5 has a leaf, page 6 a malformed leaf, and page 7 nothing; page 5 is not in the TLB. -/
def tabS : State :=
  { ts with
    ctxs := [(0, { enabled := true, resident := true, root := 0x200000 })], lines := [0x4000, 0x4020, 0x4040, 0x4060, 0x4080].map fun l => (l, {})
    mem := memBlock (memBlock (memBlock (memBlock (memBlock [] 0x200000 (bytesOf 8 0x201001)) 0x201000 (bytesOf 8 0x202001))
      0x202000 (bytesOf 8 0x203001)) 0x203000 (bytesOf 8 0x204001)) 0x204028 (bytesOf 8 0x5001F ++ bytesOf 8 0x6041F) }
/-- The warp waits for a walk of a page. -/
def walkS (page : Nat) (g : Bool) : State :=
  { tabS with warps := [(0, { tw with walks := [{ page := page, va := w64 (65536 * page), lane := 0, pc := 4#64, guarded := g }] })] }
/-- The fault queue with n pages. -/
def fqS (n : Nat) : State := { tabS with fqueue := List.replicate n { ctx := 1, page := 9, seq := 1, since := 0 }, fqWait := [(0, 7, {})] }
/-- A load of lane 5 that waits for page 1, which is pending with SEQ 3. -/
def pgS (stat : Nat) : State :=
  { accS { ld5 with lanes := [{ laneA 0x10100 [] with wait := true, pas := [] }] } with
    ctxs := [(0, { cx0 with repseq := 3, repstat := stat })], fqueue := [{ ctx := 0, page := 1, seq := 3, since := 0 }], cores := [(0, {})] }

/-- The hypotheses of PagesAreServed: each end of a walk, a full queue, each status of a replay, a page pending at the limit and past it
(R117, R398 to R400, R425). -/
theorem test_pages :
    all [ walk tabS.mem [] 0x200000 0x50000 = .leaf 0x5001F#64 16 && walkTurn (walkS 5 false) 0 { page := 5, va := 0x50000, lane := 0, pc := 4#64 }
            && go (.pageWalk 0) (walkS 5 false) fun t => (me t).walked = [(5, 0x5001F)] && leafOf t (coreTlb 0) 0 0x50008 = some 0x5001F && (me t).walks = []
        , go (.pageWalk 0) { walkS 5 false with tlb := [{ unit := reticleTlb 0, ctx := 0, page := 0, bits := 21, leaf := 0x1F#64 }] } fun t =>
            (me t).walked = [(5, 0x5001F)] && (me t).walks = []
        , let s := { walkS 5 false with walkersOut := [(0, 64)] }
          !walkTurn s 0 { page := 5, va := 0x50000, lane := 0, pc := 4#64 } && go (.pageWalk 0) s fun t => t = s
        , walk tabS.mem [] 0x200000 0x60000 = .bad 0x34 0x6041F04#64 && go (.pageWalk 0) (walkS 6 false) fun t => (me t).walkBad = [(6, 0x34, 0x6041F04)]
        , walk tabS.mem [] 0x200000 0x70000 = .absent 4 && go (.pageWalk 0) (walkS 7 true) fun t => (me t).walkBad = [(7, 0x30, 0x104)] && t.fqueue = []
        , !pagePending (walkS 7 false) 0 7 && go (.pageWalk 0) (walkS 7 false) fun t => (me t).walkBad = [(7, 0x30, 4)] && t.log.map (fun r => (r.cause, r.sev)) = [(0x30, 1)]
            && t.fqueue = [{ ctx := 0, page := 7, seq := 1, since := 1000 }]
        , !pagePending (fqS 40) 0 7 && go .faultQueueAdmit (fqS 40) fun t => t.fqueue.length = 41 && t.fqWait = []
        , go (.repgo 0 1) { pgS 0 with fqueue := [], ctxs := [(0, { cx0 with crbase := 2 ^ 60 })] } fun t => t.log.map (·.cause) = [0x3E]
        , (waitingAccs (pgS 0) 0).map (·.id) = [9] && (match xlate (pgS 0) 0 .read 0x10100#64 with | .ok pa e => pa = 0x10100 && e = 0x1005F#64 | _ => false)
            && go (.repgo 0 1) (pgS 0) fun t => t.fqueue = [] && (accAt t 9).map (fun a => a.lanes.map fun l => (l.wait, l.pas)) = some [(false, [0x10100])]
        , go (.repgo 0 1) (pgS 1) fun t => accAt t 9 = none && (me t).detected.map (fun d => d.lanes.map fun l => (l.lane, l.cause)) = [[(5, 0x36)]]
        , let s := { pgS 0 with time := 0x989680 * 1000 }
          go (.faultServiceLimit 0) s fun t => t = s
        , go (.faultServiceLimit 0) { pgS 0 with time := 0x989680 * 1000 + 1 } fun t => (ctxAt t 0).faulted = some 0x37 && (ctxAt t 0).stopped ] = true := by decide +kernel

/-- A full queue admits nothing: the hypothesis holds of 4,096 pages. -/
theorem test_full_queue (n : Nat) (h : 4096 ≤ n) : 4096 ≤ (fqS n).fqueue.length ∧ exec .faultQueueAdmit (fqS n) = .next (fqS n) := by
  refine ⟨by simpa [fqS] using h, ?_⟩
  show Host.Outcome.next _ = Host.Outcome.next _
  simp [fqS, fqueueSize, h]

/-- Context 0 as given. -/
def cS (c : Ctx) : State := { ts with ctxs := [(0, c)] }
def dogCtx (d : Nat) : Ctx := { cx0 with wdlimit := 100, grids := [{ entry := 3, serial := 1, record := [], dog := d, started := true }] }
/-- A grid with a cold text whose source is 0x8000, code object at 0x3000; its text begins at 0x20000, on page 2. -/
def coldS : State :=
  { ts with
    ctxs := [(0, { cx0 with grids := [{ entry := 0, serial := 7, record := List.replicate 40 0#8 ++ bytesOf 8 0x3000 }] })]
    tlb := ts.tlb ++ [tlb0 2 0x2001F#64], mem := memBlock (memBlock ptab 0x3018 (bytesOf 8 0x20000 ++ bytesOf 8 0x1000 ++ bytesOf 8 0x8000)) 0x8004 [9#8] }
def rec1 : Record := { seq := 1, cause := 0x74, sev := 3, syn := 5#64 }

/-- Its source can be read. -/
theorem test_cold_source : ∃ bs, readVa coldS 0 0x8000#64 4096 = .ok bs := by
  have hm : holdsPtab coldS.mem := by
    intro a ha
    simp only [coldS]
    rw [memByte_memBlock, if_neg (by simp; omega), memByte_memBlock, if_neg (by simp [bytesOf]; omega)]
  exact readVa_ok coldS 0 0x8000#64 4096 rfl fun k hk => ⟨_, _, (xlate_page0 _ _ hm rfl rfl rfl rfl (by simp [w64]; omega)).1⟩

/-- The hypotheses of LimitsAndRecordsAct, each limit at its boundary (R118, R319, R353, R365, R377, R413). -/
theorem test_limits :
    all [ let s := cS { enabled := true, invva := 0x10000, invlen := 0x10000 }
          go (.invgo 0 1) s fun t => (ctxAt t 0).invBusy && t.tlb = [tlb0 0 0x1F#64]
        , go (.invgo 0 1) (cS { enabled := true, invBusy := true }) fun t => t = cS { enabled := true, invBusy := true }
        , let s := cS { invBusy := true, invCount := 2 ^ 31 - 1 }
          oldAccsDone s 0 0 && go (.invalidationComplete 0) s fun t => (ctxAt t 0).invCount = 0 && !(ctxAt t 0).invBusy
        , let s := { cS { invBusy := true, invMark := 10 } with accs := [(9, ld5)] }
          !oldAccsDone s 0 10 && go (.invalidationComplete 0) s fun t => t = s
        , go (.invTimeout 0 0) { cS { invBusy := true } with time := 1000000 } fun t => t.agenda = [.event (.reticleReset 0 0x3A)]
        , let s := { ts with folds := [{ engine := 1, cause := 0x74, last := 1 }] }
          go (.recordFoldExpiry 1 0x74) { s with time := 1000000 } (fun t => t.folds.length = 1) && go (.recordFoldExpiry 1 0x74) { s with time := 1000001 } fun t => t.folds = []
        , go (.recordFoldExpiry 1 0x74) { ts with time := 1000001, folds := [{ engine := 1, cause := 0x74, last := 1, first := some rec1, count := 7 }] } fun t =>
            t.log.map (fun r => (r.seq, r.cause, r.syn)) = [(1, 0x74, foldSyn 7 5#64)] && t.folds.map (fun f => (f.count, f.last)) = [(0, 1000001)]
        , go .logWrap { ts with logLost := 3 } fun t => t.logLost = 0 && t.log.map (·.cause) = [0xBE], go .logWrap ts fun t => t = ts
        , go .logWrap { ts with logLost := 3, logTold := some 1 } fun t => t.logLost = 3
        , go (.watchdogExpiry 0 3) (cS (dogCtx 99)) fun t => t = cS (dogCtx 99)
        , go (.watchdogExpiry 0 3) (cS (dogCtx 100)) fun t => (ctxAt t 0).faulted = some 0xB8
        , go (.watchdogExpiry 0 3) { cS (dogCtx 100) with teams := [(0, { status := .saving })] } fun t => (ctxAt t 0).faulted = some 0xB9
        , coldObject coldS 0 0x20 = some (0x20000, 0x8000) && (match xlate coldS 0 .exec 0x20000#64 with | .ok pa _ => pa = 0x20000 | _ => false)
        , let s := cS { enabled := true, tasize := 8192, frames := [0] }
          let u := setMe s { tw with detected := [{ pc := 4#64, lanes := [{ lane := 3, cause := 1 }] }] }
          freeFrame (ctxAt u 0) = none && go (.trapFrameFree 0) u fun t => t = u ] = true := by decide +kernel

/-! ### Parts that fail -/

/-- The causes and severities of the records that a step has written, and its agenda. -/
def logs (t : State) : List (Nat × Nat) := t.log.map fun r => (r.cause, r.sev)
/-- The causes of the faults that the lanes of warp 0 have met. -/
def strikes (t : State) : List (List (Nat × Nat)) := (me t).detected.map fun d => d.lanes.map fun l => (l.lane, l.cause)

/-- The hypotheses of PartsFail on soft errors and slices (R372, R390, R392 to R395). -/
theorem test_parts_slices :
    all [ go (.softErrorDetect 0 true 0 2 3 4) ts fun t => t.warps = ts.warps && t.log.length = 1
        , bit (liveLanes (warpAt ts 0).pcs) 4 && go (.softErrorDetect 0 false 0 2 3 4) ts fun t => strikes t = [[(4, 0x1A)]]
        , go (.softErrorDetect 1 false 0 2 3 4) ts fun t => (ctxAt t 0).faulted = some 0x1B
        , go (.softErrorDetect 9 false 0 2 3 4) ts fun t => t.poison = [3] && logs t = [(0x91, 1)]
        , go (.sliceFailure 7) ts fun t => t.closing = [(7, 1000, 0x73)] && t.agenda = [.event (.sliceEvacuation 7)]
        , groupOf 8 = groupOf 7 && go (.sliceFailure 7) { lnS { home := 9 } with closing := [(8, 5, 0x73)] } fun t =>
            t.agenda = [.event (.reticleReset 0 0x75)] && t.poison = [2]
        , go (.sliceSilent 7) ts fun t => t.slicesOut = [7] && partStatus t 6 7 = 4 && (logs t).contains (0x7D, 3)
        , go (.sliceEvacuation 7) ts fun t => t.slicesOut = [7] && partStatus t 6 7 = 4 && (logs t).contains (0x74, 3)
        , !immutable (lnS { home := 7, dirty := true }) 256 && (lnS { home := 7, dirty := true }).promised = []
        , go (.evacuationTimeout 7) { ts with time := 50000005, closing := [(7, 5, 0x74)] } fun t => t.agenda = [.event (.reticleReset 0 0x74)] ] = true := by decide +kernel

/-- A slice that evacuates, some slice near its reticle having a free way: the hypothesis of that clause. -/
theorem test_near_slice : ∃ j, nearFree (closeSlice (lnS { home := 7 }) 7 0x74) (reticleOfSlice 7) 2 = some j := by
  have h0 : nearReticles (reticleOfSlice 7) = 0 :: (nearReticles (reticleOfSlice 7)).tail := by decide +kernel
  have hs : shutSlices (closeSlice (lnS { home := 7 }) 7 0x74) = [7] := by decide +kernel
  have hw (c : Nat) : wayFree (closeSlice (lnS { home := 7 }) 7 0x74) c 2 = true := by
    have h1 : (closeSlice (lnS { home := 7 }) 7 0x74).lines.length < 16 := by decide +kernel
    have h2 : waysIn (closeSlice (lnS { home := 7 }) 7 0x74) c = 16 := rfl
    simp [wayFree, h2, h1]
  have : (sliceFree (closeSlice (lnS { home := 7 }) 7 0x74) 0 2).isSome = true := by
    simp only [sliceFree, hs, hw, List.find?_isSome, List.mem_map, List.mem_range]
    by_cases h : (Config.anchorHash 2 % Config.slicesPerReticle + 0) % Config.slicesPerReticle = 7
    · refine ⟨_, ⟨1, by decide, rfl⟩, ?_⟩
      simp [Config.slicesPerReticle] at h ⊢
      omega
    · refine ⟨_, ⟨0, by decide, rfl⟩, ?_⟩
      simpa using h
  obtain ⟨j, hj⟩ := Option.isSome_iff_exists.mp this
  exact ⟨j, by rw [nearFree, h0, List.findSome?_cons, hj]⟩

/-- Stale requests of an engine, of a chain and of a sequence unit. -/
def staleS (t : Nat) : State :=
  let s := rqS { rq 0 0 4 2 with since := t }
  { s with cores := [(0, { coreAt s 0 with chains := [{ id := 5, team := 0, warp := 0, pc := 4#64, run := allL, port := 0, bytes := [], count := 1, since := t }] })], time := 1000000 }

/-- The other hypotheses of PartsFail (R400, R404 to R406). -/
theorem test_parts :
    all [ go (.hbmRowRemap 3 4 5) { ts with spares := [(3 * 2 ^ 20 + 4, 0)] } fun t => t.log = []
        , go (.hbmThermal 3 90 true) ts fun t => t.hbmHot = [3] && logs t = [(0x99, 4)], go (.hbmThermal 3 90 false) ts fun t => logs t = [(0x98, 1)]
        , go (.hbmStackFailure 47 none) ts fun t => t.hbmOut = [47] && partStatus t 10 47 = 3 && logs t = [(0x9B, 4)]
        , partStatus ts 10 47 = 0 && go (.hbmStackFailure 47 (some 1)) ts fun t => t.hbmOut = [175] && partStatus t 10 47 = 5
        , go (.engineNoProgress 0 false) (staleS 0) fun t => t.agenda = [.event (.coreReset 0 0x6E)]
        , go (.engineNoProgress 0 false) (staleS 1) fun t => t = staleS 1, go (.engineNoProgress 0 true) (staleS 0) fun t => t.agenda = [.event (.coreReset 0 0x6E)]
        , let s := squS 0 0 1 false
          s.squ.all (fun r => !r.told && !squWaits s r && r.since = 0) && go (.squTimeout 10) { s with time := 9999999 } fun t => t.agenda = []
        , go (.squTimeout 10) { squS 0 0 1 false with time := 10000000 } fun t => t.agenda.length = 1
        , logOfCore { ts with embed := [(0, 9)] } 0 = none
            && go (.routerFailure 0 [] [] true) { ts with embed := [(0, 9)] } fun t => (coreAt t 0).failed && partStatus t 4 0 = 3 && logs t = [(0x84, 3)]
        , logOfCore ts 4860 = some 2688 && go (.routerFailure 4860 [(2688, 4872)] [] true) ts fun t =>
            (coreAt t 4860).failed && t.agenda = [.event (.reembed ⟨[(2688, 4872)], []⟩)]
        , go (.routerFailure 4860 [(2688, 9)] [] true) ts fun t => (coreAt t 4860).failed && t.devstat = 4 && (logs t).contains (0x86, 4)
        , farReticle 7 0 = none && farReticle 47 2 = some 39
            && go (.stitchedLinkFailure 47 2) ts fun t => partStatus t 9 190 = 3 && partStatus t 9 159 = 3 && logs t = [(0x82, 3)]
        , go (.linkDegraded 47 2 0xF0) ts fun t => partStatus t 9 190 = 5 && afind t.linkLanes 190 = some 0xF0 && logs t = [(0x81, 1)]
        , go (.fabricStall 3 2) ts fun t => logs t = [(0x8C, 4)] ] = true := by decide +kernel

/-! ### Fabric, tree and routes -/

/-- A routing update. -/
def rtS (r : Routing) : State := { ts with routing := r, stage := 4 }

/-- An image of the defect tree at 0x300000, of generation 6, in a phase of its replacement; the same with a copy in host memory. -/
def treeS (phase : Nat) (dirty : Bool) : State := { ts with dtaddr := 0x300000, dtbytes := 4096, treeGen := 6, treePhase := phase, treeDirty := dirty }
def hostTreeS : State := { treeS 0 false with dthost := 0x5000, hostPorts := [(0, { up := true })] }

/-- The hypotheses of FabricChanges (R21, R22, R25, R410, R411). -/
theorem test_fabric :
    all [ ctxsOn { ts with teams := [] } [0] = [] && (coreAt ts 0).delivs = []
        , !embedOk (moved ts [(0, 9)] []) && go (.reembed ⟨[(0, 9)], []⟩) ts fun t => t = ts
        , let s := { ts with teams := [] }
          embedOk (moved s [(2688, 4872)] []) && !towards s [4860] && ctxsOn s [40] = [] && go (.reembed ⟨[(2688, 4872)], []⟩) s fun t => t.embed = [(2688, 4872)]
        , let s := { ts with teams := [(0, { core := 4860 })] }
          ctxsOn s [40] = [0] && go (.reembed ⟨[(2688, 4872)], []⟩) s fun t =>
            t.embed = [] && t.inbox = [(1001, .reembed ⟨[(2688, 4872)], []⟩)] && (ctxAt t 0).inSwitch
        , go .defectTreeUpdate ts fun t => t = ts, go .defectTreeHostCopy ts fun t => t = ts
        , [(0, true), (1, true), (2, false)].all fun x => go .defectTreeUpdate (treeS x.1 x.2) fun t => t.treePhase = x.1 + 1
        , go .defectTreeUpdate (treeS 0 true) fun t => memVal t.mem 0x30000C 4 = 7
        , go .defectTreeUpdate (treeS 2 false) fun t => t.treeGen = 8 && memVal t.mem 0x30000C 4 = 8
        , go .defectTreeUpdate { treeS 3 false with lines := [(3, { state := .collapsing, acks := [1] })] } fun t => t.treePhase = 3
        , go .defectTreeUpdate { treeS 3 false with promised := [(treeKey, rec1)] } fun t => t.treePhase = 0 && t.promised = [] && t.log = [rec1]
        , hostReady hostTreeS && go .defectTreeUpdate { hostTreeS with treePhase := 3 } fun t => t.treePhase = 4 && memVal t.hostMem 0x500C 4 = 5
        , go .defectTreeUpdate { hostTreeS with treePhase := 4 } fun t => t.treePhase = 5
        , go .defectTreeUpdate { hostTreeS with treePhase := 5 } fun t => t.treePhase = 0 && memVal t.hostMem 0x500C 4 = 6
        , !anyCollapsing hostTreeS && go .defectTreeHostCopy { hostTreeS with dtDue := some 900 } fun t => t.treePhase = 4
        , outPort { ts with hostPorts := [(1, { up := true })] } = some 1
        , go (.dthostWrite 4095) ts fun t => t = ts, go (.dthostWrite 0) { ts with dthost := 4096, dtDue := some 5 } fun t => t.dthost = 0 && t.dtDue = none
        , go (.dthostWrite 4096) ts fun t => t.dthost = 4096 && t.dtDue = some 1001000
        , go (.routingUpdateStage 1 true true [7]) (rtS {}) fun t => t.routing.staged = some (1, [7]) && t.routing.gen = 0
        , go (.routingUpdateStage 1 false true [7]) (rtS {}) fun t => t.routing.staged = none && logs t = [(0x88, 1)]
        , go (.routingUpdateStage 1 true false [7]) (rtS {}) fun t => t.routing.staged = none && logs t = [(0x87, 1)]
        , go (.routingUpdateStage 2 true true [7]) (rtS {}) fun t => t = rtS {}
        , let s := rtS { staged := some (1, [7]), since := 0 }
          go .routingVerdictTimeout { s with time := 1000000 } fun t => t.routing.staged = none && logs t = [(0x89, 1)]
        , commitAt ts 500 = 3000 && commitAt ts 1000 = 3000 && commitAt ts 1001 = 4000
        , let s := rtS { staged := some (1, [7]), accepted := some 500 }
          go .routingCommit { s with time := 2999 } fun t => t.routing.gen = 0
        , let s := rtS { staged := some (1, [7]), accepted := some 500 }
          go .routingCommit { s with time := 3000 } fun t => t.routing = { gen := 1, routes := [7], oldGen := some 0, since := 3000 }
        , let s := rtS { oldGen := some 4 }
          go .routingOldDrain { s with time := 100000 } fun t => t.routing.oldGen = none ] = true := by decide +kernel

/-! ### Agents outside the device -/

/-- Port 3 of the domain is trained and expects number q, which has failed n times. -/
def ylS (q n : Nat) : State := { ts with ylPorts := [(3, { trained := true, lanes := 8, rxSeq := q, fails := n })] }
/-- plainPlace. -/
def plain (s : State) (a : Nat) : Bool :=
  tierOf a ≠ .reserved && !inTree s a && !stackDead s a && tierFails s a = none && storeRejected s a = none && lineAt s (lineOf a) = none
/-- A load of lane 5 sent to device 4 by port 3 with tag 8, at time 0. -/
def remS (time : Nat) (routes : List Nat) : State :=
  { accS { ld5 with lanes := [{ laneA 0x100 [] with dev := 4, sent := true }] } with
    time := time, ylPorts := [(3, { trained := true, lanes := 8 })], routing := { gen := 1, routes := routes }
    remotes := [{ tag := 8, acc := 9, lane := 5, dev := 4, port := 3, idemp := true, since := 0 }] }

/-- The hypotheses of the first half of OutsideAgentsAct (R322, R323, R407 to R409, Table 15-4). -/
theorem test_yilesh :
    all [ go (.ylFlitReceive 3 6 true) (ylS 5 2) fun t => t = ylS 5 2, go (.ylFlitReceive 3 4095 true) (ylS 4095 2) fun t => (ylAt t 3).rxSeq = 0 && (ylAt t 3).ackSeq = 4095
        , go (.ylFlitReceive 3 5 false) (ylS 5 6) fun t => (ylAt t 3).fails = 7, go (.ylFlitReceive 3 5 false) (ylS 5 7) fun t => !(ylAt t 3).trained
        , go (.ylLinkDeath 3) (ylS 5 7) fun t => !(ylAt t 3).trained && (logs t).contains (0xA8, 3), go (.ylLinkDeath 3) ts fun t => t = ts
        , go (.ylDegraded 3 6) (ylS 5 7) fun t => (ylAt t 3).lanes = 6 && partStatus t 11 3 = 5 && logs t = [(0xAB, 1)]
        , plain (ylS 5 0) 0x17E && go (.ylRequestArrival 3 4 9 1 0x17E [1#8, 2#8] 0 0) (ylS 5 0) fun t => memBytes t.mem 0x17E 2 = [1#8, 2#8] && t.tags.length = 1
        , let s := { ylS 5 0 with tags := [(4, 9, [])] }
          go (.ylRequestArrival 3 4 9 1 0x17E [1#8, 2#8] 0 0) s fun t => t = s
        , let s := { ylS 5 0 with mem := memBlock ptab 0x100 [5#8] }
          atyAllowed (opOfFn 2) (tyOfAty 1) && plain s 0x100 && poisonCause s 0x100 true = none
            && go (.ylRequestArrival 3 4 9 2 0x100 [9#8, 0#8, 0#8, 0#8] 2 1) s fun t => memVal t.mem 0x100 4 = 9
        , plain (ylS 5 0) 0x100 && !uncached (ylS 5 0) false 0x100 && wayFree (ylS 5 0) (anchorOf (ylS 5 0) 2) 2 && go (.ylRequestArrival 3 4 9 0 0x100 [] 0 0) (ylS 5 0) fun t => t.lines.length = 1
        , go (.ylRequestArrival 3 4 9 7 0x100 [] 0 0) (ylS 5 0) fun t => logs t = [(0xAC, 1)] && t.mem = ptab
        , go (.ylRequestTimeout 8) ts fun t => t = ts, go (.ylCompletionArrival 8 false 0 []) ts fun t => t = ts
        , (remS 0 []).accs.all (fun x => !x.2.merged)
            && go (.ylCompletionArrival 8 false 0 [1#8, 2#8, 3#8, 4#8]) (remS 0 []) fun t => resultOf t = some [1#8, 2#8, 3#8, 4#8] && t.remotes = []
        , go (.ylCompletionArrival 8 false 7 []) (remS 0 []) fun t => strikes t = [[(5, 0x28)]] && accAt t 9 = none
        , go (.ylCompletionArrival 8 true 7 []) (remS 0 []) fun t => strikes t = [[(5, 0xA9)]], !routed (remS 0 []) 4
        , go (.ylRequestTimeout 8) (remS 999999 []) fun t => t = remS 999999 [], go (.ylRequestTimeout 8) (remS 1000000 []) fun t => strikes t = [[(5, 0xAA)]]
        , routed (remS 1000000 [4]) 4 && go (.ylRequestTimeout 8) (remS 1000000 [4]) fun t => t = remS 1000000 [4] ] = true := by decide +kernel

/-- The hypotheses of the second half (R154, R316, R317, R376). -/
theorem test_host :
    all [ go (.hostWrite 0x1000000000000 [1#8]) ts fun t => t = ts, go (.hostAtomicop 0x1000000000000 0 4 1 1) ts fun t => t = ts
        , plain ts 0x17F && go (.hostWrite 0x17F [1#8]) ts fun t => t.mem = memBlock ptab 0x17F [1#8]
        , poisonCause ts 0x100 true = none && plain ts 0x100 && go (.hostAtomicop 0x100 0 4 7 0) ts fun t => t.mem = memBlock ptab 0x100 [7#8]
        , go (.hostAtomicop 0x100 1 8 7 0) ts fun t => t.mem = memBlock ptab 0x100 [7#8], go (.hostAtomicop 0x100 2 16 0 7) ts fun t => t.mem = memBlock ptab 0x100 [7#8]
        , go (.hostLinkUp 1 true 8) ts fun t => portOfHost t 1 = { up := true, cxl := true, width := 8 } && t.treeDirty
        , go (.hostLinkDown 1) { ts with hostPorts := [(1, { up := true })] } fun t => !(portOfHost t 1).up && logs t = [(0xA4, 3)], go (.hostLinkDown 1) ts fun t => t = ts
        , go (.poolPathDown 1) ts fun t => !(portOfHost t 1).pool && logs t = [(0xA6, 3)], go (.hostPortError 1 1 5) ts fun t => logs t = [(0xA3, 1)]
        , go (.hostPortError 1 2 5) ts fun t => logs t = [(0xA5, 4)] ] = true := by decide +kernel

/-! ### Registers, resets, the debugger -/

/-- Bring-up has reached a stage. -/
def stS (n : Nat) : State := { State.reset with stage := n }

/-- The hypotheses of BringUpCompletes: each step in its turn and out of it, a wafer with a defective core, and one whose embedding
does not hold (R321, R328, R420). -/
theorem test_bring_up :
    all [ go (.bringUp { step := 1 } true true) (stS 0) fun t => t.stage = 1 && t.identity
        , go (.bringUp { step := 1 } false true) (stS 0) fun t => t.devstat = 2 && logs t = [(0xBB, 4)]
        , embedOk (moved (markDefective (stS 1) (4, 4860)) [(2688, 4872)] [])
            && go (.bringUp ⟨2, [(4, 4860)], ⟨[(2688, 4872)], []⟩, none⟩ true true) (stS 1) fun t =>
                 t.stage = 2 && t.placed && t.dtbytes ≠ 0 && partStatus t 4 4860 = 2 && logOfCore t 4860 = none && logOfCore t 4872 = some 2688
        , !embedOk (moved (markDefective (stS 1) (4, 4860)) [] []) && go (.bringUp ⟨2, [(4, 4860)], ⟨[], []⟩, none⟩ true true) (stS 1) fun t => t = stS 1
        , (stS 1).embed = [] && (stS 1).detours = [] && (stS 1).tree = [] && (stS 1).cores = []
            && go (.bringUp { step := 2 } true true) (stS 1) fun t => t.stage = 2 && t.placed
        , go (.bringUp { step := 0, yard := some (255, 65536) } true true) (stS 4) fun t => t.yardThr = 255 && t.yardWin = 65536 && t.stage = 4
        , go (.bringUp { step := 2, yard := some (9, 1024) } true true) { stS 1 with devstat := 2 } fun t => t.yardThr = 8 && t.stage = 1
        , go (.bringUp { step := 3 } true true) (stS 2) fun t => t.stage = 3, go (.bringUp { step := 4 } true true) (stS 3) fun t => t.stage = 4 && t.devstat = 1
        , go (.bringUp { step := 5 + 63 } true true) { stS 4 with devstat := 1 } fun t => (ctxAt t 63).enabled && (ctxAt t 63).resident
        , go (.bringUp { step := 2 } true true) (stS 0) fun t => t = stS 0, go (.bringUp { step := 1 } true true) { stS 0 with devstat := 2 } fun t => t.stage = 0
        , go (.deviceNumberAssign 0x2005 [7]) (stS 3) fun t =>
            t.devnum = 5 && t.routing = { gen := 1, routes := [7] } && ylAt t 71 = { trained := true, lanes := 8 }
        , !outOfUse (partStatus (stS 3) 11 71) && go (.deviceNumberAssign 5 [7]) (stS 2) fun t => t = stS 2
        , go (.firmwareUpdate 9 true) (stS 1) fun t => t.fwVersion = 9
        , go (.firmwareUpdate 9 false) (stS 1) fun t => t.fwVersion = 0 && logs t = [(0xBA, 1)], go (.firmwareUpdate 9 true) (stS 0) fun t => t = stS 0
        , go .attestationRequest { stS 1 with identity := true } fun t => t.attests = 1
        , go .attestationRequest { stS 1 with identity := false } fun t => t.attests = 0 ] = true := by decide +kernel

/-- The hypotheses of RegistersTake, with the registers of each page, and what the host reads (R5, R318, R423, Tables 15-2, 23-4). -/
theorem test_registers :
    all [ go (.registerWrite 0 0x064 250) { ts with ctxs := [] } fun t => t.tslot = 250, go (.registerWrite 0 0x064 16000) { ts with ctxs := [] } fun t => t.tslot = 16000
        , go (.registerWrite 0 0x064 250) (gridS [grid0]) fun t => t.tslot = 1000, go (.registerWrite 0 0x028 16) ts fun t => t.drlog2 = 16
        , ctxIdle (stS 4) 3 && go (.registerWrite 0 0x1318 0x1FFF) (stS 4) fun t => (ctxAt t 3).hmask = 0xFFF
        , !ctxIdle ts 0 && go (.registerWrite 0 0x1000 8) ts fun t => t = ts, go (.registerWrite 4 0x018 8) (stS 4) fun t => t = stS 4
        , let s := { stS 4 with ctxs := [(3, { enabled := true })] }
          ctxIdle s 3 && go (.registerWrite 4 0 0x5000) s fun t => (ctxAt t 3).root = 0x5000
        , go (.registerWrite 1 0 0x5000) ts fun t => (ctxAt t 0).root = 0x100000
        , go (.registerWrite 0 0x018 5) ts fun t => t = ts, go (.registerWrite 65 0 5) ts fun t => t = ts
        , go (.registerWrite 1 0x3010 16) (qS q0 1) fun t => (q2 t).write = 16
        , go (.registerWrite 1 0x3000 0x7000) (qS { q0 with enable := false, write := 0, lastGrid := some 4 } 1) fun t =>
            (q2 t).ring = 0x7000 && (q2 t).lastGrid = none
        , go (.registerWrite 1 0x3000 0x7000) (qS q0 1) fun t => (q2 t).ring = 0x1000
        , registerRead ts 0 0 = 0x5A48 && registerRead ts 0 0x018 = 1 && registerRead ts 0 0x1058 = 1 && registerRead ts 1 0 = 0x100000
        , registerRead ts 0 0x010 = 0 && registerRead ts 2 0 = 0 && registerRead (qS q0 1) 1 0x3010 = 1 ] = true := by decide +kernel

/-- The hypotheses of ResetsAct (R360, R419, R421, R422, Table 23-5). -/
theorem test_resets :
    all [ go (.deviceReset 1 0x52534554) { ts with mem := [(4, 1#8), (0x1000000000000, 2#8)] } fun t =>
            t.devstat = 3 && t.mem = [(0x1000000000000, 2#8)] && t.rstcause = 0x10001#32 && t.ctxs = []
        , go (.deviceReset 0 0) { ts with rstcause := 0x50001#32 } fun t => t.rstcause = 0#32, go (.deviceReset 2 0) ts fun t => t.rstcause = 0x10002#32
        , go (.deviceReset 1 0x52534555) ts fun t => t = ts, go (.deviceReset 1 0x52534554) { ts with devstat := 3 } fun t => t.time = 1000
        , go (.fwException 7) ts fun t => t.devstat = 3 && logs t = [(0xBC, 4)], go (.functionLevelReset 3) ts fun t => t = ts
        , go (.functionLevelReset 0) ts fun t => ctxAt t 0 = {} && t.teams = [] && t.tlb = [] && (logs t).contains (0xAE, 2)
        , go (.reticleReset 1 0x78) { ts with clusters := [(10, { pocket := [(0, 9)], resv := [160], held := 5 })] } fun t =>
            t.retResets = 1 && (clusterAt t 10).pocket = [] && (clusterAt t 10).resv = [] && t.resetting = []
        , go (.reticleReset 0 0x78) ts fun t => t.retResets = 0 && t.resetting.map (·.1) = [reticleKey 0]
        , (recentResets ts 5).length < 15 && go (.coreReset 5 0x6E) ts fun t => t.coreResets = 1 && (coreAt t 5).resets = [1000]
        , go (.coreReset 0 0x6E) ts fun t => t.agenda = [.event (.preemptRequest 0)] && t.coreResets = 0 ] = true := by decide +kernel

/-- A context whose debug interface is enabled. -/
def dc (f : Ctx → Ctx) : Ctx := f { cx0 with dbg := [(0x60, 1)] }
/-- A halted context whose target is warp 0. -/
def haltS (us : List Undo) : State :=
  let s := setMe ts { tw with undo := us }
  { s with ctxs := [(0, { enabled := true, dbg := [(0x60, 1)], halted := true })], teams := [(0, { status := .saved })] }
def undo0 : Undo := { pc := 4#64, regs := [.v 8 1#64 [7#32]], latch := none, pcs := [{ pc := 4#64, mask := allL }], seed := 0#64 }
/-- A team steps, its target's instruction having issued at a time. -/
def stepS (issued : Nat) (accs : List (Nat × Acc)) : State :=
  { ts with ctxs := [(0, dc fun c => { c with stepping := some (0, issued) })], accs := accs }

/-- The hypotheses of DebugCommandsAct (R427, R428, R431, R434). -/
theorem test_debug_commands :
    all [ !dbgReady (ctxAt ts 0) && go (.dbgHalt 0) ts fun t => t = ts
        , dbgReady (dc id) && go (.dbgHalt 0) (cS (dc fun c => { c with faulted := some 3 })) fun t => (ctxAt t 0).halted && (ctxAt t 0).dbgWhy = 1
        , go (.dbgHalt 0) (cS (dc id)) fun t => (ctxAt t 0).dbgBusy && t.agenda = [.event (.preemptRequest 0)]
        , go (.dbgHalt 0) { cS (dc id) with teams := [] } fun t => (ctxAt t 0).halted && !(ctxAt t 0).resident
        , go (.dbgStep 0) (cS (dc id)) fun t => t = cS (dc id), go (.dbgResume 0) (haltS []) fun t => !(ctxAt t 0).halted && (ctxAt t 0).resident
        , let s := { haltS [] with teams := [], warps := [] }
          dbgTarget s 0 = none && go (.dbgStep 0) s fun t => (ctxAt t 0).dbgWhy = 7
        , dbgTarget (haltS []) 0 = some 0 && go (.dbgStep 0) (haltS []) fun t => (ctxAt t 0).stepping = some (0, 0)
        , go (.dbgBack 0) (haltS []) fun t => (ctxAt t 0).dbgWhy = 6
        , go (.dbgBack 0) (haltS [undo0]) fun t => (ctxAt t 0).dbgWhy = 5 && (me t).undo = [] && vreg (me t) 8 0 = 7
        , go (.dbgStepEnd 0) ts fun t => t = ts, go (.dbgStepEnd 0) { stepS 5 [] with teams := [] } fun t => (ctxAt t 0).dbgWhy = 4
        , stepSettled (stepS 5 []) 0 && go (.dbgStepEnd 0) (stepS 5 []) fun t => t.agenda = [.event (.preemptRequest 0)]
        , !stepSettled (stepS 5 [(9, ld5)]) 0 && go (.dbgStepEnd 0) (stepS 5 [(9, ld5)]) fun t => t.agenda = [] ] = true := by decide +kernel

/-! ### Encodings -/

/-- Destination 8, A 0, and no B. -/
def lb0 : LaOp := ⟨8, 0, 0, none⟩
/-- An operand extension of destination 8: C, pattern on B, pattern, its value, RM, SAT. -/
def lx (c : BitVec 7) (onB : Bool) (p : Pat) (pv : BitVec 5) (rm : BitVec 3) (sat : Bool) (b : BitVec 7 := 0) : LaOp :=
  ⟨8, 0, b, some (.op ⟨false, 0⟩ false c onB p pv rm sat)⟩
/-- The same with NOWB. -/
def lnw : LaOp := ⟨8, 0, 0, some (.op ⟨false, 0⟩ true 0 false .none 0 0 false)⟩
/-- An immediate. -/
def li (imm : BitVec 22) (b : BitVec 7 := 0) : LaOp := ⟨8, 0, b, some (.imm ⟨false, 0⟩ false imm)⟩
/-- A conversion's extension. -/
def lcv (rm : BitVec 3) : LaOp := ⟨8, 0, 0, some (.conv ⟨false, 0⟩ false .i32 (.ef .fp32) rm false)⟩
/-- Well-formed fields of a store, and one of them changed. -/
def lm1 : LmOp := ⟨0, 0, 4, ⟨false, 0⟩, false, 8, false, .none, 0, .plain, 1, 0⟩

/-- Ill-formed terms that the check refuses, one for each check, each beside a well-formed neighbour. -/
theorem test_ill_formed_lanes :
    all [ wellFormed (.vcmp .lt ⟨63, 0, 4, none⟩), !wellFormed (.vcmp .lt ⟨64, 0, 4, none⟩), wellFormed (.vabs .i32 lb0), !wellFormed (.vabs .i32 la0)
        , wellFormed (.vmovImm (li 7)), !wellFormed (.vmovImm ⟨8, 1, 0, (li 7).ext⟩), !wellFormed (.vmovImm (li 7 1)), !wellFormed (.vmovImm lb0)
        , !wellFormed (.vmovImm (lx 0 false .none 0 0 false)), !wellFormed (.vmad .i32 lb0), wellFormed (.vmad .i32 (lx 4 false .none 0 0 false)), !wellFormed (.vmad .i32 (li 7))
        , !wellFormed (.cvt (lx 0 false .none 0 0 false)), wellFormed (.cvt (lcv 5)), !wellFormed (.cvt (lcv 6)), !wellFormed (.fadd .fp32 (lcv 0))
        , wellFormed (.vmov lnw), !wellFormed (.pmov lnw), wellFormed (.vand .i32 (lx 0 false .none 0 0 false)), !wellFormed (.vand .i32 (lx 1 false .none 0 0 false))
        , !wellFormed (.vand .i32 (lx 0 true .none 0 0 false)), !wellFormed (.vand .i32 (lx 0 false .none 1 0 false)), wellFormed (.vand .i32 (lx 0 true .rot 31 0 false))
        , wellFormed (.vand .i32 (lx 0 false .rev 0 0 false)), !wellFormed (.vand .i32 (lx 0 false .rev 1 0 false)), wellFormed (.vand .i32 (lx 0 false .xor8 7 0 false))
        , !wellFormed (.vand .i32 (lx 0 false .xor8 8 0 false)), !wellFormed (.vmov (lx 0 true .bc 3 0 false)), wellFormed (.vmov (lx 0 false .bc 3 0 false))
        , !wellFormed (.xrd .up (lx 0 false .bc 3 0 false)), !wellFormed (.vand .i32 (lx 0 false .none 0 1 false)), wellFormed (.fadd .fp32 (lx 0 false .none 0 5 true))
        , !wellFormed (.fadd .fp32 (lx 0 false .none 0 6 false)), wellFormed (.qntDiv (lx 4 false .none 0 7 false)), !wellFormed (.vand .i32 (lx 0 false .none 0 0 true))
        , wellFormed (.vmovh (li 0x3FF)), !wellFormed (.vmovh (li 0x400)), wellFormed (.pack .w8 (li 7)), !wellFormed (.pack .w8 (li 8)) ] = true := by decide +kernel

/-- The same for memory, uniform and system instructions. -/
theorem test_ill_formed_others :
    all [ wellFormed (.ldg 1 { lm1 with d := 9 }), !wellFormed (.ldg 1 { lm1 with ts := true }), !wellFormed (.mbarInit lm1), wellFormed (.mbarInit { lm1 with ts := true })
        , wellFormed (.ld .n32 { lm1 with ord := .acquire }), !wellFormed (.ld .n32 { lm1 with ord := .release }), !wellFormed (.ld .n32 { lm1 with flag := 12 })
        , wellFormed (.stg 1 { lm1 with flag := 15 }), !wellFormed (.stg 1 { lm1 with flag := 14 }), wellFormed (.ld .n32 { lm1 with scope := 6 })
        , !wellFormed (.ld .n32 { lm1 with scope := 7 }), !wellFormed (.ld .n32 { lm1 with ts := true, scope := 3 }), wellFormed (.ld .n32 { lm1 with ts := true, scope := 2 })
        , !wellFormed (.cctlPin { lm1 with d := 1 }), !wellFormed (.ld .n32 { lm1 with a := 3 }), wellFormed (.ld .n32 { lm1 with a := 3, ix := true })
        , !wellFormed (.lds .n32 { lm1 with scope := 4, ix := true }), wellFormed (.lds .n32 { lm1 with scope := 4, a := 3 }), !wellFormed (.seqRes { lm1 with a := 1 })
        , wellFormed (.ldg 1 { lm1 with b := 63 }), !wellFormed (.ldg 1 { lm1 with b := 64 }), !wellFormed (.lds .n32 { lm1 with scope := 4, offh := 1 })
        , !wellFormed (.ld .n32 { lm1 with ts := true, hint := .pin }), wellFormed (.red .add .n32 { lm1 with offh := 8 }), !wellFormed (.red .add .n32 { lm1 with offh := 16 })
        , !wellFormed (.waitw .eq .n32 { lm1 with flag := 1, offh := 8 }), wellFormed (.waitw .eq .n32 { lm1 with flag := 15, offh := 8 })
        , wellFormed (.ucmp .lt .n64 ⟨15, 0, 0, none⟩), !wellFormed (.ucmp .lt .n64 ⟨16, 0, 0, none⟩), !wellFormed (.umovi .n64 ⟨3, 0, 0, none⟩)
        , !wellFormed (.umovi .n64 ⟨3, 1, 0, some ⟨none, true, 0⟩⟩), !wellFormed (.umovi .n64 ⟨3, 0, 0, some ⟨none, false, 0⟩⟩), !wellFormed (.umov ⟨3, 0, 1, none⟩)
        , !wellFormed (.umov ⟨3, 0, 0, some ⟨none, true, 0⟩⟩), !wellFormed (.uadd .n64 ⟨3, 0, 1, some ⟨none, true, 5⟩⟩), !wellFormed (.uadd .n64 ⟨3, 0, 1, some ⟨none, false, 5⟩⟩)
        , wellFormed (.usel ⟨3, 0, 1, some ⟨none, false, 15⟩⟩), !wellFormed (.usel ⟨3, 0, 1, some ⟨none, false, 16⟩⟩), !wellFormed (.usel ⟨3, 0, 1, none⟩)
        , wellFormed (.uld .n64 3 4 ⟨none, 0, .plain, 11, 0⟩), !wellFormed (.uld .n64 3 4 ⟨none, 0, .plain, 15, 0⟩), !wellFormed (.uld .n64 3 4 ⟨none, 7, .plain, 1, 0⟩)
        , !wellFormed (.uld .n64 3 4 ⟨none, 0, .release, 1, 0⟩), !wellFormed (.seqLen 3 4 ⟨none, 4, .plain, 0, 1⟩), !wellFormed (.seqBind 8 4 ⟨none, 4, .plain, 0, 0⟩)
        , !wellFormed (.seqLen 3 4 ⟨none, 3, .plain, 0, 0⟩), !wellFormed (.qand 16 0 0 none), !wellFormed (.qset 0 2 0 none), !wellFormed (.fenceFull 7)
        , !wellFormed (.mma ⟨0, 0, 0, 0, 0, false, 0, 1, 0, 3⟩), !wellFormed (.chain ⟨0, 0, 12⟩) ] = true := by decide +kernel

/-- A word and its extension decode to an instruction, which encodes to them. -/
def word (w e : W32) (i : Instr) : Bool := (decode w (if bit w 30 then some e else none)).toOption = some i && encode i = w :: (if bit w 30 then [e] else [])

/-- Words built field by field from Tables 8-1 to 8-12: at least one of every family. -/
theorem test_words :
    all [ word ((0x01 : BitVec 8) ++ 3#7 ++ 5#7 ++ 9#7 ++ 0#3) 0#32 (.vadd .i32 ⟨3, 5, 9, none⟩)
        , word ((0x0D : BitVec 8) ++ 3#7 ++ 5#7 ++ 9#7 ++ 0#3) 0#32 (.vshl .i32 ⟨3, 5, 9, none⟩)
        , word ((0x18 : BitVec 8) ++ 3#7 ++ 5#7 ++ 9#7 ++ 1#3) 0#32 (.fadd .fp16x2 ⟨3, 5, 9, none⟩)
        , word ((0x70 : BitVec 8) ++ 6#7 ++ 10#7 ++ 16#7 ++ 2#3) 0x00138040#32 (.ld .n32 ⟨6, 10, 16, ⟨false, 0⟩, false, 4, true, .rep, 0, .plain, 1, 0⟩)
        , word ((0x3A : BitVec 8) ++ 0#2 ++ 9#5 ++ 0#14 ++ 1#3) 0#32 (.barArv 9)
        , word ((0x3C : BitVec 8) ++ 0#4 ++ 4#3 ++ 0#14 ++ 3#3) 0#32 (.fenceFull 4)
        , word ((0x3D : BitVec 8) ++ 0x55#8 ++ 0#13 ++ 4#3) 0#32 (.abort 0x55)
        , word ((0x3F : BitVec 8) ++ 0#5 ++ 2#2 ++ 0#14 ++ 1#3) 0#32 (.aclr 2)
        , word ((0x2D : BitVec 8) ++ 1#1 ++ 2#6 ++ 8#17 ) 0#32 (.br true 2 8)
        , word ((0x80 : BitVec 8) ++ 3#6 ++ 3#6 ++ 4#6 ++ 0#6) 0#32 (.uadd .n64 ⟨3, 3, 4, none⟩)
        , word ((0x8C : BitVec 8) ++ 4#6 ++ 0#18) 0#32 (.loop 4 0 none)
        , word ((0x8E : BitVec 8) ++ 0#24) 0#32 (.exit none), word ((0x9B : BitVec 8) ++ 0#24) 0#32 .eret
        , word ((0x9D : BitVec 8) ++ 0#6 ++ 3#6 ++ 4#6 ++ 0#6) 0#32 (.rqKick 3 4 none)
        , word ((0x9C : BitVec 8) ++ 5#6 ++ 3#6 ++ 4#6 ++ 0#6) 0#32 (.tileAlloc 5 3 4 none) ] = true := by decide +kernel

/-- Words of ReservedOpcodes: an opcode, an FN value of each cause, a TY value, and the empty word (R382, Table 21-3). -/
theorem test_reserved :
    all [ reservedFn false 0x2E 0 = some 1 && (decode 0x2E000000#32 none).toOption = none, reservedFn false 0x01 6 = some 2 && reservedFn false 0x01 5 = none
        , (match decode 0x01000006#32 none with | .error f => f.cause = 2 | _ => false), (match decode 0x14000001#32 none with | .error f => f.cause = 1 | _ => false)
        , (match decode 0x9F000000#32 none with | .error f => f.cause = 1 | _ => false), reservedFn true 0x07 5 = some 2
        , (match decode 0x80000004#32 none with | .error f => f.cause = 2 | _ => false) && tyOpcodes.contains 0 && reservedFn true 0 0 = none ] = true := by decide +kernel

/-! ### The machine as a whole -/

/-- The hypotheses of LanesOutsideKeep: each of its forms completes where lanes 0 to 31 are active, and with none (R79, R207). -/
theorem test_lanes_outside :
    all [ let i := Instr.vadd .i32 ⟨8, 0, 4, some (.op ⟨false, 1⟩ false 0 false .none 0 0 false)⟩
          go i (ws lw) fun t => (match laneForm (ws lw) i with | some (_, x) => activeLanes (ws lw) x = 0xFFFFFFFF | none => false) && (me t).pend.length = 1
        , let i := Instr.vadd .i32 ⟨8, 0, 4, some (.op ⟨false, 2⟩ false 0 false .none 0 0 false)⟩
          go i (ws lw) fun t => (match laneForm (ws lw) i with | some (_, x) => activeLanes (ws lw) x = 0 | none => false) && vAt (me t) 500 8 0 = 0
        , pendB ts && pendB repS, go (.vsin la0) ts fun t => pendB t, go (.dot true la1) dotS fun t => pendB t
        , go (.rep 3 1 1 1 0) repS fun t => pendB t ] = true := by decide +kernel

/-- A port of the host is up; context 0 has its ring at 0x1000, with no record. -/
def ringS : State :=
  { ts with hostPorts := [(0, { up := true })], ctxs := [(0, { cx0 with crbase := 0x1000 })] }

/-- The hypotheses of FramesHidePlace (R350, R357, R358). -/
theorem test_rings :
    all [ outPort ringS = some 0 && ringS.drpi - ringS.drci < 2 ^ ringS.drlog2
        , match readVa ringS 0 (w64 (0x1000 + 64 * 64 + 8)) 8 with | .ok ci => leVal ci = 0 | _ => false
        , match storeVa ringS 0 0x1000#64 (recordBytes { rec1 with ctx := 0 }) with
          | .ok t => (match storeVa t 0 (w64 (0x1000 + 64 * 64)) (bytesOf 8 1) with | .ok u => memVal u.mem 0x2000 8 = 1 | _ => false)
          | _ => false
        , recField (frameBytes { rec1 with engine := 0x10000005 } { pc := 4#64, lanes := [] } tw false 0) 0x14 4 = 0x1FFFFFFF ] = true := by decide +kernel

/-- Memory at reset, and in a state of these tests, is in canonical form. -/
theorem test_memory_ok : MemoryOk State.reset ∧ MemoryOk ts := by
  refine ⟨⟨rfl, rfl, by simp [State.reset]⟩, rfl, rfl, ?_⟩
  intro t ht
  simp [ts] at ht
  subst ht
  rfl

/-- A port's turn: warp 0 of core 0 stands at a VADD. -/
def turnS : State := { ts with mem := memBlock ptab 4 (bytesOf 4 0x41061448 ++ bytesOf 4 0x080048C0), agenda := [.port 0 0] }
/-- Its run and its packet. -/
def turnE : PcEntry := { pc := 4#64, mask := allL }
def turnC : Cur := curOf turnS 0 0 0 turnE (memBytes turnS.mem 0 16)
/-- The state of its issue. -/
def turnV : State := { turnS with agenda := [], cur := turnC }
def turnI : Instr := .vadd .i32 ⟨3, 5, 9, some (.op ⟨false, 4⟩ false 0 true .rot 3 0 false)⟩

/-- The hypotheses of StepRunsTheDecoded, and the step at that state; a step with nothing to do, an input that is due, and one that is
not. -/
theorem test_step :
    all [ portAt turnS 0 0 = {} && coreWarps turnS 0 = [0] && mayRun turnS 0 && (warpAt turnS 0).detected = [] && !inLatch turnS 0 && !heldElsewhere turnS 0 0 0
        , chosenRun (runsOf (warpAt turnS 0)) = some turnE && !isHeld (warpAt turnS 0) turnE.mask && stoppedRep (warpAt turnS 0) = none && (match fetchPacket turnS 0 turnE with | .bytes b => b = memBytes turnS.mem 0 16 | _ => false)
        , startsAt turnC.slots turnC.slot && (decode (slotWord turnC turnC.slot) (some (slotWord turnC 1))).toOption = some turnI && turnC.slot = 0
        , timeReady turnV 0 (.instr turnI) && portAllows (warpAt turnS 0) turnC && bpStops turnV 0 = none && slotPrice turnV turnC 0 turnI = none
        , go turnI (putWarp turnV 0 (mapRuns (countIssue (curPc turnV)) (warpAt turnV 0))) fun u => !u.cur.held
        , nx (step turnS) fun t => (me t).lastIssue = some 100 && (me t).pcs.map (·.pc) = [20#64] && t.agenda = []
        , nx (step { State.reset with inbox := [(0, .hostLinkUp 1 true 8)] }) fun t => (portOfHost t 1).up && t.inbox = []
        , nx (step { State.reset with agenda := [.event (.hostLinkUp 1 true 8)] }) fun t => (portOfHost t 1).up && t.agenda = []
        , State.reset.agenda = [] && State.reset.inbox = [] && State.reset.time < 1 ] = true := by decide +kernel

/-- A word of the opcode table runs as the first instruction after reset. -/
theorem test_fetch_word :
    all [ decodeTableWord 32 0x8E000000 = some (.exit none), nx (step (State.reset.withFetchWord 32 0x8E000000)) fun t => (warpAt t 0).exited ] = true := by decide +kernel

end Sys2Proof.Tests
end

namespace Sys2Proof.Machine
open Sys2Proof

/-! ### What a write of memory and the rings leave alone -/

/-- From s to t only memory, what caches it and waits on it, the contexts' blocks and the record rings differ. -/
def quietly (s t : State) : Prop :=
  t = { s with
    mem := t.mem, hostMem := t.hostMem, poison := t.poison, lines := t.lines, watches := t.watches, warps := t.warps
    ctxs := t.ctxs, msix := t.msix, drpi := t.drpi, drlost := t.drlost, drLostFlag := t.drLostFlag }

theorem quietly.refl (s : State) : quietly s s := rfl

theorem quietly.trans {s t u : State} (hst : quietly s t) (htu : quietly t u) : quietly s u := by
  unfold quietly at *
  rw [hst] at htu
  exact htu

/-- From s to t, beside what `quietly` lets differ, records were numbered and written, and work was set on the agenda. -/
def onward (s t : State) : Prop :=
  s.seqNext ≤ t.seqNext
    ∧ quietly { s with log := t.log, logLost := t.logLost, calledBy := t.calledBy, seqNext := t.seqNext, folds := t.folds
                       agenda := t.agenda } t

/-- What t holds where it went on from s. -/
theorem onward.state_eq {s t : State} (h : onward s t) :
    t = { s with
      mem := t.mem, hostMem := t.hostMem, poison := t.poison, lines := t.lines, watches := t.watches, warps := t.warps
      ctxs := t.ctxs, msix := t.msix, drpi := t.drpi, drlost := t.drlost, drLostFlag := t.drLostFlag
      log := t.log, logLost := t.logLost, calledBy := t.calledBy, seqNext := t.seqNext, folds := t.folds, agenda := t.agenda } :=
  h.2

section
variable {s t : State} (h : onward s t)
include h

theorem onward.time : t.time = s.time := by rw [h.state_eq]
theorem onward.inbox : t.inbox = s.inbox := by rw [h.state_eq]
theorem onward.teams : t.teams = s.teams := by rw [h.state_eq]
theorem onward.embed : t.embed = s.embed := by rw [h.state_eq]
theorem onward.detours : t.detours = s.detours := by rw [h.state_eq]
theorem onward.dtbytes : t.dtbytes = s.dtbytes := by rw [h.state_eq]
theorem onward.promised : t.promised = s.promised := by rw [h.state_eq]
theorem onward.routing : t.routing = s.routing := by rw [h.state_eq]
theorem onward.treePhase : t.treePhase = s.treePhase := by rw [h.state_eq]
theorem onward.dtDue : t.dtDue = s.dtDue := by rw [h.state_eq]

end

theorem onward.refl (s : State) : onward s s := ⟨Nat.le_refl _, rfl⟩

theorem onward.trans {s t u : State} (hst : onward s t) (htu : onward t u) : onward s u := by
  obtain ⟨hn, hst⟩ := hst
  obtain ⟨hm, htu⟩ := htu
  refine ⟨Nat.le_trans hn hm, ?_⟩
  unfold quietly at *
  rw [hst] at htu
  exact htu

theorem quietly.onward {s t : State} (h : quietly s t) : onward s t := by
  unfold quietly at h
  rw [h]
  exact ⟨Nat.le_refl _, rfl⟩

/-- A write's waiters change nothing but their warps and registrations. -/
theorem evalWatches_eq (s : State) :
    evalWatches s = { s with watches := (evalWatches s).watches, warps := (evalWatches s).warps } := by
  unfold evalWatches
  refine List.foldlRecOn (motive := fun t : State => t = { s with watches := t.watches, warps := t.warps }) _ _ rfl fun t ht x _ => ?_
  split
  · rw [ht]; rfl
  · exact ht

theorem evalWatches_quietly (s : State) : quietly s (evalWatches s) := by
  rw [evalWatches_eq]
  rfl

theorem dropReplicas_quietly (s : State) (l : Nat) : quietly s (dropReplicas s l) := by
  unfold dropReplicas
  split <;> rfl

theorem freshLines_quietly (s : State) (pa n : Nat) : quietly s (freshLines s pa n) := by
  unfold freshLines
  split
  · rfl
  · exact List.foldlRecOn _ _ (quietly.refl s) fun t ht j _ => ht.trans (dropReplicas_quietly t _)

theorem freshVa_quietly (s : State) (ctx : Nat) (va : Word) (n : Nat) : quietly s (freshVa s ctx va n) := by
  refine List.foldlRecOn _ _ (quietly.refl s) fun t ht k _ => ?_
  split
  · exact ht.trans (dropReplicas_quietly t _)
  · exact ht

theorem writeVa_quietly {s t : State} {ctx : Nat} {va : Word} {bs : List Byte} (h : writeVa s ctx va bs = .ok t) : quietly s t := by
  have all : ∀ u, writeVa s ctx va bs = .ok u → quietly s u := by
    refine List.foldlRecOn (motive := fun acc : Except (Nat × Word) State => ∀ u, acc = .ok u → quietly s u) _ _
      (fun u hu => ?_) fun acc hacc k _ u hu => ?_
    · cases hu
      rfl
    · cases acc with
      | error e => cases hu
      | ok v =>
        dsimp only at hu
        split at hu
        · cases hu
          exact (hacc v rfl).trans rfl
        · cases hu
        · cases hu
  exact all t h

theorem storeVa_quietly {s t : State} {ctx : Nat} {va : Word} {bs : List Byte} (h : storeVa s ctx va bs = .ok t) : quietly s t := by
  unfold storeVa at h
  split at h
  · cases h
  · next u hu =>
    cases h
    exact ((writeVa_quietly hu).trans (freshVa_quietly u _ _ _)).trans (evalWatches_quietly _)

/-- R357, R358: a context's ring takes a record. -/
theorem toCtxRing_quietly (s : State) (r : Record) : quietly s (toCtxRing s r) := by
  unfold toCtxRing
  split
  · rfl
  · dsimp only
    split
    · rfl
    · split
      · rfl
      · split
        · rfl
        · next t ht =>
          split
          · rfl
          · next u hu => exact ((storeVa_quietly ht).trans (storeVa_quietly hu)).trans rfl

theorem setRing_quietly (s : State) (m : Mem) (pi lost : Nat) (flag : Bool) (irqs : List (Nat × Nat)) :
    quietly s { s with hostMem := m, drpi := pi, drlost := lost, drLostFlag := flag, msix := irqs } := rfl

/-- R357, R438: the device ring takes a record. -/
theorem toDeviceRing_quietly (s : State) (r : Record) : quietly s (toDeviceRing s r) := by
  unfold toDeviceRing
  dsimp only
  split
  · rfl
  · split
    · exact setRing_quietly s _ _ s.drlost _ _
    · exact setRing_quietly s s.hostMem s.drpi _ _ s.msix

/-- R358: all that publishing does beyond the log is quiet. -/
theorem publish_quietly (s : State) (r : Record) : quietly (logAdd s r) (publish s r) := by
  unfold publish
  dsimp only
  split
  · rfl
  · exact (toCtxRing_quietly _ r).trans (toDeviceRing_quietly _ r)

theorem publish_log (s : State) (r : Record) : (publish s r).log = (logAdd s r).log := by
  rw [publish_quietly s r]

theorem logAdd_onward (s : State) (r : Record) : onward s (logAdd s r) := ⟨Nat.le_refl _, rfl⟩

theorem publish_onward (s : State) (r : Record) : onward s (publish s r) :=
  (logAdd_onward s r).trans (publish_quietly s r).onward

theorem stampRecord_onward (s : State) (r : Record) : onward s (stampRecord s r).2 := ⟨Nat.le_succ _, rfl⟩

theorem report_onward (s : State) (r : Record) : onward s (report s r) := by
  have write : onward s (publish (stampRecord s r).2 (stampRecord s r).1) := (stampRecord_onward s r).trans (publish_onward _ _)
  unfold report
  dsimp only
  split
  · exact write
  · split
    · exact write.trans ⟨Nat.le_refl _, rfl⟩
    · split
      · exact write.trans ⟨Nat.le_refl _, rfl⟩
      · exact ⟨Nat.le_refl _, rfl⟩

/-- R359: what was promised for a unit is no longer, and is published. -/
theorem keepPromises_onward (s : State) (key : Nat) :
    onward { s with promised := s.promised.filter fun p => p.1 ≠ key } (keepPromises s key) :=
  List.foldlRecOn _ _ (onward.refl _) fun t ht p _ => ht.trans (publish_onward t p.2)

/-! ### Contexts switched out and in -/

theorem putCtx_quietly (s : State) (cn : Nat) (x : Ctx) : quietly s (putCtx s cn x) := rfl

theorem writeShed_quietly (s : State) (cn state flags cause dispOff : Nat) : quietly s (writeShed s cn state flags cause dispOff) := by
  unfold writeShed
  dsimp only
  split
  · rfl
  · exact quietly.trans (t := { s with mem := _ }) rfl (freshLines_quietly _ _ _)

theorem finishCtxFault_onward (s : State) (cn : Nat) : onward s (finishCtxFault s cn) := by
  unfold finishCtxFault
  dsimp only
  split
  · split
    · exact onward.refl s
    · exact ((writeShed_quietly s _ _ _ _ _).trans (putCtx_quietly _ cn _)).onward.trans (publish_onward _ _)
  · exact onward.refl s

theorem afterSave_onward (s : State) (cn : Nat) : onward s (afterSave s cn) := by
  unfold afterSave
  dsimp only
  split
  · exact onward.refl s
  · split
    · exact finishCtxFault_onward s cn
    · split
      · exact (putCtx_quietly s cn _).onward
      · split
        · exact onward.refl s
        · exact ((putCtx_quietly s cn _).trans (writeShed_quietly _ _ _ _ _ _)).onward

theorem setAgenda_onward (s : State) (xs : List Todo) : onward s { s with agenda := xs } := ⟨Nat.le_refl _, rfl⟩

theorem switchOut_onward (s : State) (cn : Nat) : onward s (switchOut s cn) :=
  ((putCtx_quietly s cn _).onward.trans (setAgenda_onward _ _)).trans (afterSave_onward _ cn)

theorem holdCtxs_onward (s : State) (cs : List Nat) : onward s (holdCtxs s cs) := by
  refine List.foldlRecOn _ _ (onward.refl s) fun t ht cn _ => ?_
  dsimp only
  split
  · exact ht.trans ((putCtx_quietly t cn _).onward.trans (switchOut_onward _ cn))
  · exact ht

theorem ringDoorbell_onward (s : State) (ctx q value : Nat) : onward s (ringDoorbell s ctx q value) := by
  unfold ringDoorbell
  dsimp only
  split
  · exact report_onward s _
  · exact ⟨Nat.le_refl _, rfl⟩

theorem switchIn_onward (s : State) (cn : Nat) : onward s (switchIn s cn) := by
  unfold switchIn
  refine List.foldlRecOn _ _ ((putCtx_quietly s cn _).trans (writeShed_quietly _ _ _ _ _ _)).onward fun t ht d _ => ?_
  exact ht.trans (ringDoorbell_onward t cn d.1 d.2)

theorem resumeCtxs_onward (s : State) : onward s (resumeCtxs s) :=
  List.foldlRecOn _ _ (onward.refl s) fun t ht cn _ => ht.trans (switchIn_onward t cn)

/-! ### What the log keeps -/

/-- A record stands in the log once it is added. -/
theorem mem_logAdd_self (s : State) (r : Record) : r ∈ (logAdd s r).log := by simp [logAdd]

/-- R358: a record of severity 3 or 4 never leaves the log. -/
theorem mem_logAdd_of_severe {s : State} {x : Record} (r : Record) (hx : x ∈ s.log) (hs : 3 ≤ x.sev) : x ∈ (logAdd s r).log := by
  have hx : x ∈ (r :: s.log).take 65536 ++ (r :: s.log).drop 65536 := by
    rw [List.take_append_drop]
    exact List.mem_cons_of_mem _ hx
  rcases List.mem_append.mp hx with hx | hx
  · exact List.mem_append_left _ hx
  · exact List.mem_append_right _ (List.mem_filter.mpr ⟨hx, by simpa using hs⟩)

/-- R358: the latest 65,536 records stay: one among the latest n is among the latest n + 1 after the next. -/
theorem mem_take_logAdd {s : State} {x : Record} {n : Nat} (r : Record) (hn : n < 65536) (hx : x = r ∨ x ∈ s.log.take n) :
    x ∈ (logAdd s r).log.take (n + 1) := by
  have hx : x ∈ ((r :: s.log).take 65536).take (n + 1) := by
    rw [List.take_take, Nat.min_eq_left (by omega), List.take_succ_cons]
    simpa using hx
  simp only [logAdd, List.take_append]
  exact List.mem_append_left _ hx

/-! ### Records that wait for the tree -/

theorem keepPromises_promised (s : State) (key : Nat) : (keepPromises s key).promised = s.promised.filter fun p => p.1 ≠ key :=
  (keepPromises_onward s key).promised

/-- Records published one after another stand in the log, while fewer than 65,536 have come since. -/
theorem mem_log_foldl_publish {x : Record} (ps : List (Nat × Record)) (s : State) (n : Nat) (hn : n + ps.length ≤ 65536)
    (hx : x ∈ ps.map (·.2) ∨ x ∈ s.log.take n) : x ∈ (ps.foldl (fun s p => publish s p.2) s).log := by
  induction ps generalizing s n with
  | nil =>
    rcases hx with hx | hx
    · cases hx
    · exact List.mem_of_mem_take hx
  | cons p ps ih =>
    simp only [List.length_cons] at hn
    simp only [List.map_cons, List.mem_cons] at hx
    refine ih _ (n + 1) (by omega) ?_
    rw [publish_log]
    rcases hx with (hx | hx) | hx
    · exact .inr (mem_take_logAdd p.2 (by omega) (.inl hx))
    · exact .inl hx
    · exact .inr (mem_take_logAdd p.2 (by omega) (.inr hx))

/-- Every record that waited for a key is in the log once its promises are kept, if there were fewer than 65,536. -/
theorem mem_log_keepPromises {s : State} {key : Nat} {p : Nat × Record} (hp : p ∈ s.promised) (hk : p.1 = key)
    (hn : s.promised.length < 65536) : p.2 ∈ (keepPromises s key).log := by
  refine mem_log_foldl_publish _ _ 0 ?_ (.inl (List.mem_map_of_mem (List.mem_filter.mpr ⟨hp, by simpa using hk⟩)))
  exact Nat.le_trans (Nat.le_of_eq (Nat.zero_add _)) (Nat.le_trans (List.length_filter_le _ _) (Nat.le_of_lt hn))

/-- A severe record, among those published one after another or in the log before, stands in the log after them. -/
theorem mem_log_foldl_publish_of_severe {x : Record} (hs : 3 ≤ x.sev) (ps : List (Nat × Record)) (s : State)
    (hx : x ∈ ps.map (·.2) ∨ x ∈ s.log) : x ∈ (ps.foldl (fun s p => publish s p.2) s).log := by
  induction ps generalizing s with
  | nil => exact hx.resolve_left List.not_mem_nil
  | cons p ps ih =>
    simp only [List.map_cons, List.mem_cons] at hx
    refine ih _ ?_
    rw [publish_log]
    rcases hx with (rfl | hx) | hx
    · exact .inr (mem_logAdd_self s p.2)
    · exact .inl hx
    · exact .inr (mem_logAdd_of_severe p.2 hx hs)

theorem mem_log_keepPromises_of_severe {s : State} {x : Record} (key : Nat) (hs : 3 ≤ x.sev)
    (hx : (key, x) ∈ s.promised ∨ x ∈ s.log) : x ∈ (keepPromises s key).log :=
  mem_log_foldl_publish_of_severe hs _ _
    (hx.imp_left fun h => List.mem_map_of_mem (f := (·.2)) (List.mem_filter.mpr ⟨h, by simp⟩))

/-- A record waits for the tree to show what it tells, or has been written where no image stands (R349, R359). -/
def tellsByTree (r : Record) (s : State) : Prop :=
  (treeKey, r) ∈ s.promised ∨ (s.dtbytes = 0 ∧ r ∈ s.log)

theorem promiseTree_onward (s : State) (key : Nat) :
    onward { s with promised := (promiseTree s key).promised } (promiseTree s key) := by
  unfold promiseTree
  split
  · rw [keepPromises_promised]
    exact keepPromises_onward s key
  · exact onward.refl _

/-- The embedding, its detours and the place of the tree's image outlast what is promised. -/
theorem promiseTree_keeps (s : State) (key : Nat) :
    (promiseTree s key).embed = s.embed ∧ (promiseTree s key).detours = s.detours ∧ (promiseTree s key).dtbytes = s.dtbytes := by
  have h := promiseTree_onward s key
  exact ⟨h.embed, h.detours, h.dtbytes⟩

/-- What is promised of a unit does not take a severe record back. -/
theorem promiseTree_tellsByTree {s : State} {r : Record} (key : Nat) (hs : 3 ≤ r.sev) (h : tellsByTree r s) :
    tellsByTree r (promiseTree s key) := by
  unfold tellsByTree at *
  rw [(promiseTree_keeps s key).2.2]
  unfold promiseTree
  split
  · next hd =>
    rcases h with h | ⟨-, h⟩
    · by_cases hk : treeKey = key
      · exact .inr ⟨hd, mem_log_keepPromises_of_severe key hs (.inl (hk ▸ h))⟩
      · refine .inl ?_
        rw [keepPromises_promised]
        exact List.mem_filter.mpr ⟨h, by simpa using hk⟩
    · exact .inr ⟨hd, mem_log_keepPromises_of_severe key hs (.inr h)⟩
  · next hd =>
    rcases h with h | ⟨h, -⟩
    · refine .inl (List.mem_map.mpr ⟨_, h, ?_⟩)
      split <;> rfl
    · exact absurd h hd

/-- Once what is promised of the tree is named, a severe record is written where no image stands, and waits where one does. -/
theorem promiseTree_treeKey {s : State} {r : Record} (hs : 3 ≤ r.sev) (h : tellsByTree r s) :
    (s.dtbytes = 0 → r ∈ (promiseTree s treeKey).log) ∧ (s.dtbytes ≠ 0 → (treeKey, r) ∈ (promiseTree s treeKey).promised) := by
  refine ⟨fun hd => ?_, fun hd => ?_⟩
  · rw [promiseTree, if_pos hd]
    exact mem_log_keepPromises_of_severe treeKey hs (h.imp_right (·.2))
  · have hd : (promiseTree s treeKey).dtbytes ≠ 0 := by rwa [(promiseTree_keeps s treeKey).2.2]
    exact (promiseTree_tellsByTree treeKey hs h).resolve_right fun h => hd h.1

/-! ### Re-embedding (R15, R21) -/

theorem returnSaved_of_none {s : State} (old : List Nat) (h : ∀ x ∈ s.teams, x.2.rqImage = []) : returnSaved s old = s := by
  refine List.foldlRecOn (motive := fun t : State => t = s) _ _ rfl fun t ht x hx => ?_
  simp [ht, h x hx]

/-- What tells of the end of a re-embedding (R406). -/
def reembedReport (s : State) : Record :=
  { cause := 0x85, sev := 3, action := 5, engine := deviceEngine 14 0, syn := w64 (comingGen s) }

/-- The end of a re-embedding is promised, and what waits for the cores it withdrew is named for the tree (R359). -/
def reembedPromised (s : State) (old : List Nat) : State :=
  old.foldl (fun s c => promiseTree s (coreKey c)) (promise (touchTree s) treeKey (reembedReport s))

theorem reembedPromised_spec (s : State) (old : List Nat) :
    ((reembedPromised s old).embed = s.embed ∧ (reembedPromised s old).detours = s.detours ∧ (reembedPromised s old).dtbytes = s.dtbytes)
      ∧ tellsByTree (stampRecord s (reembedReport s)).1 (reembedPromised s old) := by
  refine List.foldlRecOn (motive := fun t : State => (t.embed = s.embed ∧ t.detours = s.detours ∧ t.dtbytes = s.dtbytes)
    ∧ tellsByTree (stampRecord s (reembedReport s)).1 t) _ _ ⟨⟨rfl, rfl, rfl⟩, .inl ?_⟩ fun t ht c _ => ?_
  · exact List.mem_append_right _ (List.mem_singleton_self _)
  · obtain ⟨he, hd, hb⟩ := promiseTree_keeps t (coreKey c)
    rw [he, hd, hb]
    exact ⟨ht.1, promiseTree_tellsByTree _ (Nat.le_refl _) ht.2⟩

theorem reembedded_eq (s : State) (old : List Nat) : reembedded s old = promiseTree (reembedPromised s old) treeKey := rfl

/-- R406: the report of a re-embedding keeps the embedding, and tells of its end when the tree shows it. -/
theorem reembedded_spec (s : State) (old : List Nat) :
    (reembedded s old).embed = s.embed ∧ (reembedded s old).detours = s.detours ∧ toldByTree s (reembedded s old) 0x85 3 := by
  rw [reembedded_eq]
  obtain ⟨⟨he, hd, hb⟩, htell⟩ := reembedPromised_spec s old
  obtain ⟨he', hd', -⟩ := promiseTree_keeps (reembedPromised s old) treeKey
  obtain ⟨hlog, hwait⟩ := promiseTree_treeKey (Nat.le_refl _) htell
  refine ⟨he'.trans he, hd'.trans hd, fun h => ?_, fun h => ?_⟩
  · exact ⟨_, hlog (hb.trans h), rfl, rfl, Nat.le_refl _⟩
  · exact ⟨_, hwait (hb ▸ h), rfl, rfl, rfl, Nat.le_refl _⟩

/-- The cores that positions leave. -/
def leftCores (s : State) (ms : List (Nat × Nat)) : List Nat := ms.map fun m => coreOfLog s m.1

/-- The reticles that a move of positions concerns. -/
def movedReticles (s : State) (ms : List (Nat × Nat)) : List Nat := ((leftCores s ms ++ ms.map (·.2)).map reticleOf).eraseDups

/-- The contexts with teams on those reticles are switched out. -/
def heldForMove (s : State) (ms : List (Nat × Nat)) : State := holdCtxs s (ctxsOn s (movedReticles s ms))

theorem exec_reembed (s : State) (ms ds : List (Nat × Nat)) :
    exec (.reembed ⟨ms, ds⟩) s = .next (
      if !embedOk (moved s ms ds) then s
      else if ctxsOn (heldForMove s ms) (movedReticles s ms) ≠ [] then
        { heldForMove s ms with inbox := inboxPut ((heldForMove s ms).time + 1, .reembed ⟨ms, ds⟩) (heldForMove s ms).inbox }
      else
        let u := returnSaved (heldForMove s ms) (leftCores s ms)
        if towards u (leftCores s ms) then { u with inbox := inboxPut (u.time + 1, .reembed ⟨ms, ds⟩) u.inbox }
        else reembedded (resumeCtxs (moved u ms ds)) (leftCores s ms)) := rfl

theorem heldForMove_onward (s : State) (ms : List (Nat × Nat)) : onward s (heldForMove s ms) := holdCtxs_onward s _

/-- A context that is being switched out still has its teams on their cores. -/
theorem ctxsOn_heldForMove (s : State) (ms : List (Nat × Nat)) (rs : List Nat) : ctxsOn (heldForMove s ms) rs = ctxsOn s rs := by
  rw [ctxsOn, (heldForMove_onward s ms).teams, ctxsOn]

theorem heldForMove_of_none {s : State} {ms : List (Nat × Nat)} (h : ctxsOn s (movedReticles s ms) = []) : heldForMove s ms = s := by
  rw [heldForMove, h]
  rfl

/-- R15: firmware makes no move to an embedding that is not allowed. -/
theorem exec_reembed_of_not_embedOk {s : State} {ms ds : List (Nat × Nat)} (h : embedOk (moved s ms ds) = false) :
    exec (.reembed ⟨ms, ds⟩) s = .next s := by
  rw [exec_reembed, if_pos (by simpa using h)]

/-- R21: while a team stands on a reticle concerned, the move waits. -/
theorem exec_reembed_waits {s : State} {ms ds : List (Nat × Nat)} (h : embedOk (moved s ms ds) = true)
    (hc : ctxsOn s (movedReticles s ms) ≠ []) :
    ∃ t, exec (.reembed ⟨ms, ds⟩) s = .next t ∧ t.embed = s.embed ∧ t.inbox = inboxPut (s.time + 1, .reembed ⟨ms, ds⟩) s.inbox := by
  have held := heldForMove_onward s ms
  rw [exec_reembed, if_neg (by simpa using h), if_pos (by rwa [ctxsOn_heldForMove])]
  refine ⟨_, rfl, held.embed, ?_⟩
  rw [← held.time, ← held.inbox]

/-- R21, R406: with no team on the reticles concerned and nothing left to deliver to the cores, the positions move. -/
theorem exec_reembed_moves {s : State} {ms ds : List (Nat × Nat)} (h : embedOk (moved s ms ds) = true)
    (hc : ctxsOn s (movedReticles s ms) = []) (hq : ∀ x ∈ s.teams, x.2.rqImage = []) (ht : towards s (leftCores s ms) = false) :
    ∃ t, exec (.reembed ⟨ms, ds⟩) s = .next t ∧ t.embed = ms.foldl (fun e m => aput e m.1 m.2) s.embed
      ∧ t.detours = ds.foldl (fun e d => aput e d.1 d.2) [] ∧ toldByTree s t 0x85 3 := by
  have run : exec (.reembed ⟨ms, ds⟩) s = .next (reembedded (resumeCtxs (moved s ms ds)) (leftCores s ms)) := by
    rw [exec_reembed, if_neg (by simpa using h), ctxsOn_heldForMove, if_neg (not_not_intro hc), heldForMove_of_none hc,
      returnSaved_of_none _ hq]
    dsimp only
    rw [if_neg (by simpa using ht)]
  have resumed := resumeCtxs_onward (moved s ms ds)
  have hb : (resumeCtxs (moved s ms ds)).dtbytes = s.dtbytes := resumed.dtbytes
  obtain ⟨he, hd, hlog, hwait⟩ := reembedded_spec (resumeCtxs (moved s ms ds)) (leftCores s ms)
  refine ⟨_, run, he.trans resumed.embed, hd.trans resumed.detours, fun h => ?_, fun h => ?_⟩
  · obtain ⟨r, hr, hcause, hsev, hn⟩ := hlog (hb.trans h)
    exact ⟨r, hr, hcause, hsev, Nat.le_trans resumed.1 hn⟩
  · obtain ⟨p, hp, hkey, hcause, hsev, hn⟩ := hwait (hb ▸ h)
    exact ⟨p, hp, hkey, hcause, hsev, Nat.le_trans resumed.1 hn⟩

/-! ### The image of the defect tree (R25) -/

theorem collapseLine_eq (s : State) (l : Nat) : collapseLine s l = { s with lines := (collapseLine s l).lines } := by
  unfold collapseLine
  split
  · rfl
  · split <;> rfl

theorem collapseLines_eq (s : State) (ls : List (Nat × Line)) :
    ∃ lines, ls.foldl (fun s l => collapseLine s l.1) s = { s with lines := lines } := by
  induction ls generalizing s with
  | nil => exact ⟨s.lines, rfl⟩
  | cons l ls ih =>
    obtain ⟨lines, h⟩ := ih (collapseLine s l.1)
    rw [List.foldl_cons, h, collapseLine_eq]
    exact ⟨lines, rfl⟩

/-- Firmware's write of a block replaces it in memory; beside that, poison, lines and waiters change. -/
theorem writeBlock_eq (s : State) (a : Nat) (bs : List Byte) : ∃ poison lines watches warps,
    writeBlock s a bs
      = { s with mem := memBlock s.mem a bs, poison := poison, lines := lines, watches := watches, warps := warps } := by
  unfold writeBlock
  obtain ⟨lines, h⟩ := collapseLines_eq s (s.lines.filter fun l => a < 128 * l.1 + 128 && 128 * l.1 < a + bs.length)
  dsimp only
  rw [h, evalWatches_eq]
  exact ⟨_, _, _, _, rfl⟩

/-- Bytes that the machine cannot know take free values and change nothing else. -/
theorem freeBytes_eq (n : Nat) (s : State) : ∃ ctr, (freeBytes n s).2 = { s with freeCtr := ctr } := by
  induction n generalizing s with
  | zero => exact ⟨s.freeCtr, rfl⟩
  | succ n ih =>
    obtain ⟨ctr, h⟩ := ih (freeValue s).2
    exact ⟨ctr, h⟩

section
variable (s : State) (a gen : Nat) (bs : List Byte)

@[simp] theorem writeBlock_mem : (writeBlock s a bs).mem = memBlock s.mem a bs := by
  obtain ⟨_, _, _, _, h⟩ := writeBlock_eq s a bs
  rw [h]

@[simp] theorem writeBlock_hostMem : (writeBlock s a bs).hostMem = s.hostMem := by
  obtain ⟨_, _, _, _, h⟩ := writeBlock_eq s a bs
  rw [h]

@[simp] theorem writeBlock_treeDirty : (writeBlock s a bs).treeDirty = s.treeDirty := by
  obtain ⟨_, _, _, _, h⟩ := writeBlock_eq s a bs
  rw [h]

@[simp] theorem writeBlock_treeAt : (writeBlock s a bs).treeAt = s.treeAt := by
  obtain ⟨_, _, _, _, h⟩ := writeBlock_eq s a bs
  rw [h]

/-- The state after an image is made is that before it, but for the free values of its signature. -/
theorem treeImage_eq : ∃ ctr, (treeImage s gen).2 = { s with freeCtr := ctr } := by
  unfold treeImage
  dsimp only
  exact freeBytes_eq 12 s

@[simp] theorem treeImage_mem : (treeImage s gen).2.mem = s.mem := by
  obtain ⟨_, h⟩ := treeImage_eq s gen
  rw [h]

@[simp] theorem treeImage_hostMem : (treeImage s gen).2.hostMem = s.hostMem := by
  obtain ⟨_, h⟩ := treeImage_eq s gen
  rw [h]

@[simp] theorem treeImage_treeDirty : (treeImage s gen).2.treeDirty = s.treeDirty := by
  obtain ⟨_, h⟩ := treeImage_eq s gen
  rw [h]

@[simp] theorem treeImage_treeAt : (treeImage s gen).2.treeAt = s.treeAt := by
  obtain ⟨_, h⟩ := treeImage_eq s gen
  rw [h]

end

/-- The state whose tree the next image shows (R25). -/
def treeShown (s : State) : State := { s with treeDirty := false, treeAt := s.time }

/-- R25: firmware has nothing to do without an image, or at rest with a tree that has not changed. -/
theorem exec_defectTreeUpdate_idle {s : State} (h : s.dtbytes = 0 ∨ (s.treePhase = 0 ∧ s.treeDirty = false)) :
    exec .defectTreeUpdate s = .next s :=
  congrArg Host.Outcome.next (if_pos (by simpa using h))

/-- R25: otherwise it performs the next part of the replacement. -/
theorem exec_defectTreeUpdate_step {s t : State} (hb : s.dtbytes ≠ 0) (h : s.treePhase = 0 → s.treeDirty = true)
    (ht : treeStep s = t) : exec .defectTreeUpdate s = .next t :=
  ht ▸ congrArg Host.Outcome.next (if_neg (by simpa [hb] using h))

/-- R25: the generation of the image becomes odd. -/
theorem treeStep_of_phase_0 {s : State} (h : s.treePhase = 0) :
    treeStep s = { writeBlock s (s.dtaddr + 0x0C) (bytesOf 4 (s.treeGen + 1)) with treePhase := 1 } := by
  simp only [treeStep, h]

/-- R25: the records and the signature follow, as the tree stands now. -/
theorem treeStep_of_phase_1 {s : State} (h : s.treePhase = 1) :
    treeStep s = { writeBlock (treeImage (treeShown s) (s.treeGen + 1)).2 s.dtaddr (treeImage (treeShown s) (s.treeGen + 1)).1 with
                   treePhase := 2 } := by
  simp only [treeStep, h, treeShown]

/-- R25: the next even generation follows. -/
theorem treeStep_of_phase_2 {s : State} (h : s.treePhase = 2) :
    treeStep s = { writeBlock s (s.dtaddr + 0x0C) (bytesOf 4 (s.treeGen + 2)) with treePhase := 3, treeGen := s.treeGen + 2 } := by
  simp only [treeStep, h]

/-- The release waits for the invalidations that are outstanding. -/
theorem treeStep_of_collapsing {s : State} (h : s.treePhase = 3) (hc : anyCollapsing s = true) : treeStep s = s := by
  simp only [treeStep, h, hc, if_true]

theorem treeStep_without_host {s : State} (h : s.treePhase = 3) (hc : anyCollapsing s = false) (hh : s.dthost = 0) :
    treeStep s = treeDone s := by
  simp [treeStep, h, hc, hh]

theorem dthost_ne_zero_of_hostReady {s : State} (h : hostReady s = true) : s.dthost ≠ 0 := by
  rw [hostReady, Bool.and_eq_true] at h
  simpa using h.1

/-- R22, R25: the host's copy begins with its odd generation. -/
theorem treeStep_with_host {s : State} (h : s.treePhase = 3) (hc : anyCollapsing s = false) (hh : hostReady s = true) :
    treeStep s = { s with hostMem := memBlock s.hostMem (s.dthost + 0x0C) (bytesOf 4 (s.treeGen - 1)), treePhase := 4
                          dtDue := some s.time } := by
  simp [treeStep, h, hc, hh, dthost_ne_zero_of_hostReady hh]

/-- R22, R25: the records of the host's copy follow. -/
theorem treeStep_of_phase_4 {s : State} (h : s.treePhase = 4) :
    treeStep s = { s with hostMem := memBlock s.hostMem s.dthost (withGen (s.treeGen - 1) (treeBytes s)), treePhase := 5 } := by
  simp only [treeStep, h]

/-- The host's copy is whole (R25). -/
def hostShown (s : State) : State :=
  { s with hostMem := memBlock s.hostMem (s.dthost + 0x0C) (bytesOf 4 s.treeGen), dtDue := none }

/-- R22, R25: the host's copy ends with its even generation. -/
theorem treeStep_of_phase_5 {s : State} (h : s.treePhase = 5) : treeStep s = treeDone (hostShown s) := by
  simp only [treeStep, h, hostShown]

/-- What follows a replacement goes on from the state at rest, records of the tree published or not. -/
theorem treeDone_onward (s : State) : onward { s with treePhase := 0, promised := (treeDone s).promised } (treeDone s) := by
  unfold treeDone
  dsimp only
  split
  · exact onward.refl _
  · rw [keepPromises_promised]
    exact keepPromises_onward { s with treePhase := 0 } treeKey

theorem treeDone_of_clean {s : State} (h : s.treeDirty = false) : treeDone s = keepPromises { s with treePhase := 0 } treeKey :=
  if_neg (by simp [h])

theorem treeDone_of_none_promised {s : State} (h : s.promised = []) : treeDone s = { s with treePhase := 0 } := by
  unfold treeDone
  dsimp only
  split
  · rfl
  · simp [keepPromises, h]

/-- R25, R359: a replacement that ends with the tree unchanged publishes every record that waited for it. -/
theorem treeDone_tells {s : State} (h : s.treeDirty = false) :
    (∀ p ∈ (treeDone s).promised, p.1 ≠ treeKey)
      ∧ ∀ p ∈ s.promised, p.1 = treeKey → s.promised.length < 65536 → p.2 ∈ (treeDone s).log := by
  rw [treeDone_of_clean h, keepPromises_promised]
  refine ⟨fun p hp => by simpa using (List.mem_filter.mp hp).2, fun p hp hk hn => ?_⟩
  exact mem_log_keepPromises (s := { s with treePhase := 0 }) hp hk hn

/-- R22: without a write of its address due, at work or without a port, firmware does not begin the host's copy. -/
theorem exec_defectTreeHostCopy_idle {s : State} (h : s.dtDue = none ∨ s.treePhase ≠ 0 ∨ hostReady s = false) :
    exec .defectTreeHostCopy s = .next s := by
  refine congrArg Host.Outcome.next (if_pos ?_)
  rcases h with h | h | h <;> simp [h]

/-- R22: after a write of its address the host's copy is written as after a replacement. -/
theorem exec_defectTreeHostCopy_step {s t : State} (hd : s.dtDue ≠ none) (hb : s.dtbytes ≠ 0) (hp : s.treePhase = 0)
    (hh : hostReady s = true) (ht : treeStep { s with treePhase := 3 } = t) : exec .defectTreeHostCopy s = .next t :=
  ht ▸ congrArg Host.Outcome.next (if_neg (by simp [hd, hb, hp, hh]))

/-- A write of DTHOST that is not aligned to 4 KiB is ignored (log 33). -/
theorem exec_dthostWrite_misaligned {s : State} {k : Nat} (h : k % 4096 ≠ 0) : exec (.dthostWrite k) s = .next s :=
  congrArg Host.Outcome.next (if_pos h)

/-- R22: an address for the host's copy makes one due within 1 ms. -/
theorem exec_dthostWrite_aligned {s : State} {k : Nat} (h : k % 4096 = 0) (h0 : k ≠ 0) :
    exec (.dthostWrite k) s = .next { s with dthost := k, dtDue := some (s.time + 1000000) } := by
  change Host.Outcome.next (writeDthost s k) = _
  simp [writeDthost, h, h0]

/-! ### Routing updates (R410, R411) -/

/-- A record of severity above 0 is in the log, numbered from now on. -/
theorem logged_report {s : State} {r : Record} (h : r.sev ≠ 0) : logged s (report s r) r.cause r.sev := by
  unfold report
  dsimp only
  rw [if_pos h]
  refine ⟨(stampRecord s r).1, ?_, rfl, rfl, Nat.le_refl _⟩
  rw [publish_log]
  exact mem_logAdd_self _ _

/-- R411: a dropped update leaves nothing staged, and the tables in force. -/
theorem dropUpdate_routing (s : State) (gen cause engine : Nat) :
    (dropUpdate s gen cause engine).routing = { s.routing with staged := none, accepted := none } :=
  (report_onward { s with routing := { s.routing with staged := none, accepted := none } }
    { cause := cause, sev := 1, action := 1, engine := engine, syn := w64 gen }).routing

/-- R411: a dropped update is reported. -/
theorem dropUpdate_logged (s : State) (gen cause engine : Nat) : logged s (dropUpdate s gen cause engine) cause 1 := by
  obtain ⟨r, hr, hcause, hsev, hn⟩ := logged_report (s := { s with routing := { s.routing with staged := none, accepted := none } })
    (r := { cause := cause, sev := 1, action := 1, engine := engine, syn := w64 gen }) Nat.one_ne_zero
  exact ⟨r, hr, hcause, hsev, hn⟩

/-- R410: only an image of the next generation is staged. -/
theorem exec_routingUpdateStage_of_ne {s : State} {n : Nat} (h : n ≠ s.routing.gen + 1) (sigOk crcOk : Bool) (rs : List Nat) :
    exec (.routingUpdateStage n sigOk crcOk rs) s = .next s :=
  congrArg Host.Outcome.next (if_pos (by simp [h]))

section
variable {s : State} {n : Nat} (h4 : s.stage = 4) (hs : s.routing.staged = none) (ho : s.routing.oldGen = none)
  (hn : n = s.routing.gen + 1)
include h4 hs ho hn

/-- R410, R411: an image of the next generation is dropped for its signature or its check, or else staged; whether every unit has
reported its acceptance is a free value. -/
theorem exec_routingUpdateStage (sigOk crcOk : Bool) (rs : List Nat) :
    exec (.routingUpdateStage n sigOk crcOk rs) s = .next (
      let f := freeValue s
      let unit := routerEngine (f.1.toNat / 4 % 5760) 0
      if !sigOk then dropUpdate f.2 n 0x88 unit
      else if !crcOk then dropUpdate f.2 n 0x87 unit
      else { f.2 with routing := { s.routing with
               staged := some (n, rs), accepted := if bit f.1 0 then some s.time else none, since := s.time } }) :=
  congrArg Host.Outcome.next (if_neg (by simp [h4, hs, ho, hn]))

/-- R411: a sound image is staged beside the tables in force. -/
theorem routingUpdateStage_stages (rs : List Nat) :
    ∃ t, exec (.routingUpdateStage n true true rs) s = .next t ∧ t.routing.staged = some (n, rs) ∧ t.routing.gen = s.routing.gen
      ∧ t.routing.routes = s.routing.routes ∧ (t.routing.accepted = none ∨ t.routing.accepted = some s.time) := by
  refine ⟨_, exec_routingUpdateStage h4 hs ho hn true true rs, rfl, rfl, rfl, ?_⟩
  change (if bit (freeValue s).1 0 then some s.time else none) = none ∨ (if bit (freeValue s).1 0 then some s.time else none) = some s.time
  split
  · exact .inr rfl
  · exact .inl rfl

/-- R411: an image of a bad signature is dropped with its report. -/
theorem routingUpdateStage_bad_signature (crcOk : Bool) (rs : List Nat) :
    ∃ t, exec (.routingUpdateStage n false crcOk rs) s = .next t ∧ t.routing.staged = none ∧ logged s t 0x88 1 := by
  refine ⟨_, exec_routingUpdateStage h4 hs ho hn false crcOk rs, ?_, dropUpdate_logged (freeValue s).2 n 0x88 _⟩
  exact congrArg Routing.staged (dropUpdate_routing (freeValue s).2 n 0x88 _)

/-- R411: an image of a bad check is dropped with its report. -/
theorem routingUpdateStage_bad_check (rs : List Nat) :
    ∃ t, exec (.routingUpdateStage n true false rs) s = .next t ∧ t.routing.staged = none ∧ logged s t 0x87 1 := by
  refine ⟨_, exec_routingUpdateStage h4 hs ho hn true false rs, ?_, dropUpdate_logged (freeValue s).2 n 0x87 _⟩
  exact congrArg Routing.staged (dropUpdate_routing (freeValue s).2 n 0x87 _)

end

/-- R411: an update without every report after 1 ms is dropped. -/
theorem exec_routingVerdictTimeout {s : State} {n : Nat} {rs : List Nat} (hs : s.routing.staged = some (n, rs))
    (ha : s.routing.accepted = none) (ht : s.routing.since + 1000000 ≤ s.time) :
    exec .routingVerdictTimeout s = .next (dropUpdate s n 0x89 (deviceEngine 14 0)) := by
  change execRoutingVerdictTimeout s = _
  simp only [execRoutingVerdictTimeout, hs, ha, if_neg (Nat.not_lt_of_le ht)]

section
variable {s : State} {n a : Nat} {rs : List Nat} (hs : s.routing.staged = some (n, rs)) (ha : s.routing.accepted = some a)
include hs ha

/-- R411: before the commit boundary the tables in force stay. -/
theorem exec_routingCommit_before (ht : s.time < commitAt s a) : exec .routingCommit s = .next s := by
  change execRoutingCommit s = _
  simp only [execRoutingCommit, hs, ha, if_pos ht]

/-- R411: at the commit boundary the staged tables come into force, and the old ones stay for what they have routed. -/
theorem exec_routingCommit_at (ht : commitAt s a ≤ s.time) :
    exec .routingCommit s
      = .next { s with routing := { gen := n, routes := rs, oldGen := some s.routing.gen, since := s.time } } := by
  change execRoutingCommit s = _
  simp only [execRoutingCommit, hs, ha, if_neg (Nat.not_lt_of_le ht)]

end

/-- R411: 100 µs after the commit no old tables are left. -/
theorem exec_routingOldDrain {s : State} (ht : s.routing.since + 100000 ≤ s.time) :
    exec .routingOldDrain s = .next { s with routing := { s.routing with oldGen := none } } := by
  change execRoutingOldDrain s = _
  unfold execRoutingOldDrain
  split
  · rw [if_pos (by simp [ht])]
  · next hold => rw [← hold]

/-! ### The statement -/

/-- Settles O47: re-embedding, the parts of the tree's replacement in their order, the host's copy and the routing update, each by the
lemma of its step. -/
theorem fabricChanges : Obligations.FabricChanges := by
  intro s k n ms ds rs
  refine ⟨⟨exec_reembed_of_not_embedOk, fun h => ⟨exec_reembed_moves h, exec_reembed_waits h⟩⟩, exec_defectTreeUpdate_idle, fun hb => ?tree,
    exec_defectTreeHostCopy_idle, fun hd hb hp hh hc => ?copy, ?address, fun h4 hs ho hn => ?stage,
    fun hn a b => exec_routingUpdateStage_of_ne hn a b rs, fun hs => ?commit, exec_routingOldDrain⟩
  case tree =>
    have step {t : State} := exec_defectTreeUpdate_step (t := t) hb
    refine ⟨fun hp hd => ?phase0, fun hp => ?phase1, fun hp => ?phase2, fun hp hc => ?collapsing, fun hp hc => ⟨fun hh hd => ?alone,
      fun hh => ?host⟩, fun hp => ?phase4, fun hp => ?phase5⟩
    case phase0 =>
      exact ⟨_, step (fun _ => hd) (treeStep_of_phase_0 hp), writeBlock_mem _ _ _, writeBlock_hostMem _ _ _, rfl⟩
    case phase1 =>
      have run := step (by simp [hp]) (treeStep_of_phase_1 hp)
      exact ⟨⟨_, run, by simp [treeShown], by simp [treeShown], rfl⟩, _, run, by simp [treeShown], by simp [treeShown]⟩
    case phase2 =>
      have run := step (by simp [hp]) (treeStep_of_phase_2 hp)
      exact ⟨⟨_, run, writeBlock_mem _ _ _, writeBlock_hostMem _ _ _, rfl⟩, _, run, rfl⟩
    case collapsing => exact step (by simp [hp]) (treeStep_of_collapsing hp hc)
    case alone =>
      exact ⟨_, step (by simp [hp]) (treeStep_without_host hp hc hh), (treeDone_onward s).treePhase, treeDone_tells hd⟩
    case host => exact ⟨_, step (by simp [hp]) (treeStep_with_host hp hc hh), rfl, rfl, rfl⟩
    case phase4 => exact ⟨_, step (by simp [hp]) (treeStep_of_phase_4 hp), rfl, rfl, rfl⟩
    case phase5 =>
      refine ⟨_, step (by simp [hp]) (treeStep_of_phase_5 hp), (treeDone_onward _).treePhase, (treeDone_onward _).dtDue, fun hn => ?_⟩
      rw [treeDone_of_none_promised (s := hostShown s) hn]
      exact ⟨rfl, rfl⟩
  case copy =>
    have run := treeStep_with_host (s := { s with treePhase := 3 }) rfl hc hh
    exact ⟨_, exec_defectTreeHostCopy_step hd hb hp hh run, rfl, rfl, rfl⟩
  case address => exact ⟨exec_dthostWrite_misaligned, rfl, exec_dthostWrite_aligned⟩
  case stage =>
    exact ⟨routingUpdateStage_stages h4 hs ho hn rs, fun b => routingUpdateStage_bad_signature h4 hs ho hn b rs,
      routingUpdateStage_bad_check h4 hs ho hn rs⟩
  case commit =>
    refine ⟨fun ha ht => ?_, fun a ha => ⟨exec_routingCommit_before hs ha, exec_routingCommit_at hs ha⟩⟩
    have dropped := dropUpdate_routing s n 0x89 (deviceEngine 14 0)
    exact ⟨_, exec_routingVerdictTimeout hs ha ht, by rw [dropped], by rw [dropped], dropUpdate_logged s n 0x89 _⟩

end Sys2Proof.Machine

namespace Sys2Proof.Machine
open Sys2Proof

/-! ### What a lane instruction pushes on the latch stack (R81) -/

/-- A lane instruction of fixed latency runs as its operation on the lane units alone; the last case is every other instruction,
which has no such form. -/
theorem exec_of_laneForm {s : State} {i : Instr} {n : Nat} {x : LaneOp} (h : laneForm s i = some (n, x)) :
    exec i s = .next (runLane s n x) := by
  revert h
  fun_cases laneForm s i
  case case50 => exact nofun
  all_goals rintro ⟨⟩; rfl

@[simp] theorem laneAt_zeroRow (l : Nat) : laneAt zeroRow l = 0#32 := by
  simp only [laneAt, zeroRow, List.getD_eq_getElem?_getD, List.getElem?_replicate]
  split <;> rfl

@[simp] theorem issuing_latches (s : State) : (issuing s).latches = (me s).latches := settle_latches _ _

section
variable (w : Warp) (t lat : Nat) (vals : List Word)

theorem length_pushed : (pushed w t lat (some vals)).length = min 8 (w.latches.length + 1) := List.length_take

/-- The newest entry is the one pushed. -/
theorem pushed_getElem?_zero : (pushed w t lat (some vals))[0]? = some { vals := vals, born := t, lat := lat } := rfl

/-- The older entries move up. -/
theorem pushed_getElem?_succ {k : Nat} (hk : k + 1 < 8) : (pushed w t lat (some vals))[k + 1]? = w.latches[k]? := by
  rw [pushed, List.getElem?_take_of_lt hk, List.getElem?_cons_succ]

end

section
variable {w : Warp} {x : LaneOp} {act : Word} {r : LaneOut}

/-- An instruction with a predicate destination pushes nothing. -/
theorem lanePush_of_pred (hx : x.pred = true) : lanePush w x act r = none := if_pos hx

/-- An instruction with a v destination, NOWB or not, pushes its result in the active lanes and what D holds in the others, lane by
lane; one of a single register fills the low half of an entry (log 11). -/
theorem lanePush_of_not_pred (hx : ¬ x.pred = true) :
    ∃ vals, lanePush w x act r = some vals ∧ ∀ l, l < 64 → vals.getD l 0#64 =
      if bit act l then
        zx64 (laneAt (r.rows.getD 0 zeroRow) l)
          ||| (zx64 (if x.n = 1 then 0#32 else laneAt (r.rows.getD 1 zeroRow) l) <<< 32)
      else if x.n = 1 then zx64 (vreg w x.d.toNat l)
      else zx64 (vreg w x.d.toNat l) ||| (zx64 (vreg w (x.d.toNat + 1) l) <<< 32) := by
  refine ⟨_, if_neg hx, fun l hl => ?_⟩
  simp only [lanes, List.getD_eq_getElem?_getD, List.getElem?_map, List.getElem?_range hl, Option.map_some, Option.getD_some]
  by_cases hn : x.n = 1
  · simp [hn, vreg, zx64]
  · simp [hn, vreg]

end

/-- Settles O2: the push at completion, entry by entry of the stack and lane by lane of the newest. -/
theorem latchesPushed : Obligations.LatchesPushed := by
  intro i s n x hform hc hb hp
  obtain ⟨-, hlatches, -⟩ := completes_runLane s n x hc hb hp
  refine ⟨runLane s n x, exec_of_laneForm hform, ?_⟩
  rw [hlatches]
  intro lo hi old
  split
  case isTrue hx =>
    rw [lanePush_of_pred hx]
    exact issuing_latches s
  case isFalse hx =>
    obtain ⟨vals, hpush, hvals⟩ := lanePush_of_not_pred (w := issuing s) (act := activeLanes s x)
      (r := x.val (issuing s) (activeLanes s x)) hx
    rw [hpush, ← issuing_latches s]
    exact ⟨length_pushed _ _ _ _, fun k hk => pushed_getElem?_succ _ _ _ _ hk, _, pushed_getElem?_zero _ _ _ _, rfl, rfl, hvals⟩

end Sys2Proof.Machine
